-- ==== Sys2Proof/Word.lean ====
section
/-! DEFINITION. The word types of the Chilan T4 model (spec/00_scope.md R8: bit 0 is the least significant bit). -/

namespace Sys2Proof

abbrev Byte := BitVec 8
abbrev W16 := BitVec 16
abbrev W32 := BitVec 32
abbrev W64 := BitVec 64

/-- A register field of an instruction (spec/04 R137). -/
abbrev Reg := BitVec 5

/-- A logical core ID {y[7:0], x[7:0]} (spec/00, "Signals and units of the module"). -/
abbrev CoreId := Nat

/-- A table that lists the entries differing from a default, by rising key. -/
abbrev Sparse (α : Type) := List (Nat × α)

/-- Addressed memory: an unlisted byte reads zero. -/
abbrev Memory := Sparse Byte

end Sys2Proof
end

