-- ==== Sys2Proof/Syntax.lean ====
section
/-! DEFINITION. The commands of the T4: one constructor of `Instr` per row of spec/opcode_table.json, and the
operand types they carry. -/

namespace Sys2Proof

/-- Local and device loads (spec/04 Table 4-5, OP 0x10 to 0x16 and 0x18 to 0x1E). -/
inductive LoadOp where | ldb | ldh | ldw | ldd | ldbu | ldhu | ldwu
  deriving DecidableEq, Repr

/-- Local and device stores (spec/04 Table 4-5). -/
inductive StoreOp where | stb | sth | stw | std
  deriving DecidableEq, Repr

/-- Branch conditions (spec/04 Table 4-5, OP 0x30 to 0x35). -/
inductive Cond where | beq | bne | blt | bge | bltu | bgeu
  deriving DecidableEq, Repr

/-- Packet types (spec/06 Table 6-2, spec/07 Table 7-2). -/
inductive PType where
  | abort | safe | ink | smudge | mer | warm | warr | wqry | wrsp | wdone
  | mrd | mrdr | mwr | mwrr | rsv0E | rsv0F
  | mrts | mgnt | mdata | acc | accrsp | cpart | cres | cagr | mgmt | cagd | crep | rcred | ovd | ovr | vote | attach
  deriving DecidableEq, Repr

/-- A mesh packet (spec/06 R225, Table 6-1). `ext` holds bytes 0x2C to 0x3F, byte 0x2C lowest. The traffic class
follows from the type (Table 6-2); `far` says that a memory packet crosses the fabric (spec/07 R260). -/
structure Packet where
  typ : PType
  rsp : Bool := false
  warr : Bool := false
  pencil : Bool := false
  last : Bool := false
  inkreq : Bool := false
  edge : BitVec 3 := 0
  dst : W16 := 0
  src : W16 := 0
  dlocal : Bool := true
  dmod : BitVec 15 := 0
  smod : BitVec 15 := 0
  wpid : W16 := 0
  chan : Byte := 0
  code : Byte := 0
  msgid : W32 := 0
  len : W32 := 0
  off : W32 := 0
  epoch : W32 := 0
  arg : W32 := 0
  time : W64 := 0
  ext : BitVec 160 := 0
  payload : List Byte := []
  deriving DecidableEq, Repr

/-- Flit kinds (spec/09 Table 9-1). -/
inductive FlitKind where | idle | data | ctrl
  deriving DecidableEq, Repr

/-- A Fameuri flit (spec/09 R334, Table 9-1); zeros follow `payload` up to its 240 bytes. `fecOk` says that every FEC
codeword of the flit was correctable (R336). -/
structure Flit where
  kind : FlitKind
  cls : BitVec 3
  seq : BitVec 12
  ack : BitVec 12
  ackv : Bool
  nak : Bool
  creditCls : BitVec 3
  credit : Byte
  first : W16
  used : W16
  payload : List Byte
  fcrc : W32
  fecOk : Bool
  deriving DecidableEq, Repr

/-- A HELLO record (spec/09 Table 9-3). -/
structure Hello where
  pkind : BitVec 1
  port : BitVec 4
  id : BitVec 15
  idv : Bool
  lanes : Byte
  ver : Byte
  latns : W16
  uid : W64
  blkns : W16
  ackd : Bool
  deriving DecidableEq, Repr

/-- What the surveyor reads of a pluggable module's CMIS map (spec/09 R347, spec/01 R33). -/
structure Cmis where
  qsfp : Bool
  revision : Nat
  paged : Bool
  app800 : Bool
  app400 : Bool
  watts : Nat
  deriving DecidableEq, Repr

/-- A block that has an isolation wrapper (spec/13, "Isolation wrappers"). -/
inductive Block where
  | core (c : CoreId)
  | controller (stack : Nat) (k : Nat)
  | port (n : Nat)
  | queueFrontEnd
  | transferEngines
  | reductionEngine (k : Nat)
  deriving DecidableEq, Repr

/-- Why the power-on source asserts (spec/01 R26). -/
inductive PowerOnCause where
  | v3a (mV : Nat) | vin (mV : Nat) | pwrgd | pll
  deriving DecidableEq, Repr

/-- What the start's current phase finds (spec/13 R471 to R475, spec/15 R522): read by the hardware, so it comes
with the command. -/
structure PhaseFindings where
  aVerifies : Bool := true
  bVerifies : Bool := true
  stackIds : List W32 := []
  stackTemps : List Int := []
  trainFails : Nat := 0
  coreFails : List CoreId := []
  deriving DecidableEq, Repr

/-- An activity estimate (spec/14 R490): the shared part and each sheet's part at the granted step, in mW. -/
structure Estimate where
  shared : Nat
  sheets : List Nat
  junction : Int
  deriving DecidableEq, Repr

/-- A power measurement (spec/14 R491, R505): M in units of 0.1 W, the estimated energy of each partition's sheets
and controllers, of the transfer engines by partition and queue, and of each partition's engines and ports, in
µJ, and the unattributed estimate. -/
structure Measurement where
  m : Nat
  sheets : List (Nat × Nat)
  xfers : List (Nat × Nat × Nat)
  ports : List (Nat × Nat)
  other : Nat
  deriving DecidableEq, Repr

/-- A firmware image: version, SVN, bytes and signature (spec/15 R522). -/
structure Image where
  version : W32
  svn : Nat
  bytes : List Byte
  sig : List Byte
  deriving DecidableEq, Repr

/-- A debug token (spec/15 R525). -/
structure Token where
  uid : W64
  nonce : List Byte
  level : BitVec 2
  sig : List Byte
  deriving DecidableEq, Repr

/-- The commands. A core's instruction names the core `c` first; register fields are the raw 5-bit fields of
spec/04 Table 4-4, so a reserved value reaches the meaning, which raises FEATURE_UNSUPPORTED (R137, R138). -/
inductive Instr where
  -- scalar, spec/04 R139
  | add (c : CoreId) (rd ra rb : Reg) | sub (c : CoreId) (rd ra rb : Reg) | and (c : CoreId) (rd ra rb : Reg)
  | or (c : CoreId) (rd ra rb : Reg) | xor (c : CoreId) (rd ra rb : Reg) | sll (c : CoreId) (rd ra rb : Reg)
  | srl (c : CoreId) (rd ra rb : Reg) | sra (c : CoreId) (rd ra rb : Reg) | slt (c : CoreId) (rd ra rb : Reg)
  | sltu (c : CoreId) (rd ra rb : Reg) | min (c : CoreId) (rd ra rb : Reg) | max (c : CoreId) (rd ra rb : Reg)
  | minu (c : CoreId) (rd ra rb : Reg) | maxu (c : CoreId) (rd ra rb : Reg) | mul (c : CoreId) (rd ra rb : Reg)
  | mulh (c : CoreId) (rd ra rb : Reg) | mulhu (c : CoreId) (rd ra rb : Reg) | div (c : CoreId) (rd ra rb : Reg)
  | divu (c : CoreId) (rd ra rb : Reg) | rem (c : CoreId) (rd ra rb : Reg) | remu (c : CoreId) (rd ra rb : Reg)
  | clz (c : CoreId) (rd ra rb : Reg) | popc (c : CoreId) (rd ra rb : Reg)
  | addi (c : CoreId) (rd ra : Reg) (imm : BitVec 11) | andi (c : CoreId) (rd ra : Reg) (imm : BitVec 11)
  | ori (c : CoreId) (rd ra : Reg) (imm : BitVec 11) | xori (c : CoreId) (rd ra : Reg) (imm : BitVec 11)
  | slli (c : CoreId) (rd ra : Reg) (imm : BitVec 11) | srli (c : CoreId) (rd ra : Reg) (imm : BitVec 11)
  | srai (c : CoreId) (rd ra : Reg) (imm : BitVec 11) | slti (c : CoreId) (rd ra : Reg) (imm : BitVec 11)
  | sltiu (c : CoreId) (rd ra : Reg) (imm : BitVec 11)
  | li (c : CoreId) (rd : Reg) (ext : W32) | lih (c : CoreId) (rd ra : Reg) (ext : W32)
  | localLoad (c : CoreId) (op : LoadOp) (rd ra : Reg) (imm : BitVec 11)
  | deviceLoad (c : CoreId) (op : LoadOp) (rd ra : Reg) (ext : W32)
  | localStore (c : CoreId) (op : StoreOp) (rd ra : Reg) (imm : BitVec 11)
  | deviceStore (c : CoreId) (op : StoreOp) (rd ra : Reg) (ext : W32)
  | conditionalBranch (c : CoreId) (cond : Cond) (ra rb : Reg) (off : BitVec 11)
  | jal (c : CoreId) (rd : Reg) (ext : W32) | jalr (c : CoreId) (rd ra : Reg) (imm : BitVec 11)
  -- tile, spec/04 R147 to R151
  | tld (c : CoreId) (td ts : Reg) | tst (c : CoreId) (td ts : Reg)
  | tdl (c : CoreId) (td ra : Reg) (imm : BitVec 11) | tds (c : CoreId) (td ra : Reg) (imm : BitVec 11)
  | tset (c : CoreId) (td rb : Reg) (sel : BitVec 6) | tget (c : CoreId) (rd ta : Reg) (sel : BitVec 6)
  | tadd (c : CoreId) (td rb : Reg) (sel : BitVec 6) | tcopy (c : CoreId) (td ta : Reg)
  | transferDone (c : CoreId) (id : Nat)
  -- messages, spec/04 R152 to R158, spec/06 R227 to R231
  | xsend (c : CoreId) (ra ts : Reg) (ch : BitVec 4) (warr : Bool) (wp : W16)
  | xrecv (c : CoreId) (td : Reg) (ch : BitVec 4)
  | xacc (c : CoreId) (ra src : Reg) (bank : BitVec 2) (tile : Bool) (warr : Bool) (wp : W16)
  | mrts (p : Packet) | mgnt (p : Packet) | mrtsRetry (c : CoreId) (msgid : W32) | mdata (p : Packet)
  | cancel (p : Packet) | acc (p : Packet) | accrsp (p : Packet) | accRetry (c : CoreId) (msgid : W32)
  | xaccApply (c : CoreId) (slot : Nat)
  -- waypoints, spec/04 R159 to R162, spec/06 R236 to R246
  | warm (c : CoreId) (ra rb : Reg) (inkreq : Bool) (ext : W32) | warr (c : CoreId) (ra : Reg)
  | wwait (c : CoreId) (ra : Reg) | wtest (c : CoreId) (rd ra : Reg) | inkw (c : CoreId) (ra : Reg)
  | waypointTick (sheet : Nat) (pkts : List Packet) | waypointExpiry (w : W16)
  | wrsp (p : Packet) | wdone (p : Packet) | inkholdResend (c : CoreId) (k : Nat)
  -- control, spec/04 R163, R164, R171
  | crr (c : CoreId) (rd : Reg) (idx : BitVec 11) | crw (c : CoreId) (ra : Reg) (idx : BitVec 11)
  | crs (c : CoreId) (ra : Reg) (idx : BitVec 11) | crc (c : CoreId) (ra : Reg) (idx : BitVec 11)
  | fence (c : CoreId) | ifence (c : CoreId) | halt (c : CoreId) | prefetchFill (c : CoreId) (slot : Nat)
  -- matrix, spec/05 R178 to R205
  | mclr (c : CoreId) (ab : Reg) | mdat (c : CoreId) (ab ra : Reg) (mask : BitVec 5)
  | mmac (c : CoreId) (ab ta tb : Reg) (lp : Bool) (n1 : BitVec 4)
  | mseg (c : CoreId) (ab ta tb gs : Reg) (n1 : BitVec 4) | adapterLoadDone (c : CoreId) (buf : Nat)
  | mcvt (c : CoreId) (td ab : Reg) (rmsel : BitVec 2) (hslot clr : Bool) (nb : BitVec 2) (bound : W16) (rstep : Bool)
  | mdefer (c : CoreId) (ab ta tb : Reg) (lp nosteal : Bool) (wp : W16) (n1 : BitVec 4)
  | deferEntryStart (c : CoreId) | deferYield (c : CoreId) (cycles : Nat) | operandStageFrees (c : CoreId)
  | steal (thief victim : CoreId) | stealMerge (thief : CoreId)
  | mrd (c : CoreId) (vd ab : Reg) (rmsel : BitVec 2) (hslot clr : Bool) | mhd (c : CoreId) (ra rb : Reg) (slot : Bool)
  -- vector, spec/05 R206 to R214
  | fadd (c : CoreId) (vd va vb : Reg) | fsub (c : CoreId) (vd va vb : Reg) | fmul (c : CoreId) (vd va vb : Reg)
  | ffma (c : CoreId) (vd va vb : Reg) | fmax (c : CoreId) (vd va vb : Reg) | fmin (c : CoreId) (vd va vb : Reg)
  | fhmax (c : CoreId) (vd va vb : Reg) | fcmplt (c : CoreId) (vd va vb : Reg) | fabs (c : CoreId) (vd va vb : Reg)
  | fneg (c : CoreId) (vd va vb : Reg) | fsel (c : CoreId) (vd va vb : Reg) | iadd (c : CoreId) (vd va vb : Reg)
  | isub (c : CoreId) (vd va vb : Reg) | imul (c : CoreId) (vd va vb : Reg) | iand (c : CoreId) (vd va vb : Reg)
  | ior (c : CoreId) (vd va vb : Reg) | ixor (c : CoreId) (vd va vb : Reg) | isll (c : CoreId) (vd va vb : Reg)
  | isra (c : CoreId) (vd va vb : Reg) | cvtif (c : CoreId) (vd va vb : Reg) | cvtfi (c : CoreId) (vd va vb : Reg)
  | exp (c : CoreId) (vd va : Reg) | log (c : CoreId) (vd va : Reg) | rsqrt (c : CoreId) (vd va : Reg)
  | rcp (c : CoreId) (vd va : Reg)
  | vld (c : CoreId) (vd ra : Reg) (imm : BitVec 11) | vst (c : CoreId) (vd ra : Reg) (imm : BitVec 11)
  | vbc (c : CoreId) (vd ra : Reg) | vext (c : CoreId) (rd va : Reg) (imm : BitVec 11)
  | vlsum (c : CoreId) (ab va : Reg) (cell : BitVec 7)
  | vupd (c : CoreId) (vd va tw : Reg) (momentum : Bool) (col row : W16)
  | vcvt (c : CoreId) (td va : Reg) (rmsel : BitVec 2) (hslot : Bool) (bound : W16) (rstep : Bool)
  | vunpk (c : CoreId) (vd ts : Reg)
  -- mesh and memory, spec/06 R224, R226, spec/07
  | linkReplay (c : CoreId) (dir : BitVec 2) (failed : Bool) | reservedPacket (p : Packet)
  | mrdRequest (p : Packet) (err : BitVec 2) | mrdr (p : Packet) | mwr (p : Packet) | mwrr (p : Packet)
  | windowAccess (p : Packet) | patrolScrub (line : Nat) (err : BitVec 2) | pageRetire (page : Nat) (uncorr : Bool)
  | memTileCfgWrite (v : W64) | regionTableWrite (part n : Nat) (word1 : Bool) (v : W64)
  | transferStart (e : Nat) | tileTransfer (e : Nat) | transferComplete (e : Nat)
  -- checking and steps, spec/08
  | graticuleCompare (c : CoreId) | triangulation (c : CoreId) | triangulationTimeout (c : CoreId)
  | frontier (p : Packet) | query (p : Packet) | inked (p : Packet) | subscribed (p : Packet) | notyet (p : Packet)
  | notyetRetry (c : CoreId) (k : Nat) | dead (p : Packet) | smudge (part : Nat) (p : Packet)
  | quiesced (part : Nat) | restart (part : Nat) | commitVote (part : Nat) | vote (part : Nat) (p : Packet)
  | inkCommit (part : Nat)
  -- fabric, spec/09
  | flitReceive (n : Nat) (f : Flit) | nakReplay (n : Nat) (f : Flit) | portLost (n : Nat) | abort (n : Nat) (p : Packet)
  | cagePresenceChange (n : Nat) (present : Bool) | cageDiscovery (n : Nat) (m : Cmis) | fecAlignmentLock (n : Nat)
  | helloSend (n : Nat) | hello (n : Nat) (h : Hello) | trainingRetry (n : Nat) | laneFail (n : Nat) (lane : BitVec 2)
  | degradeTimeout (n : Nat) | attachPacket (p : Packet) | attachExchangeTimeout (part : Nat)
  -- collectives, spec/09
  | contribution (part ctx : Nat) (src : CoreId) (tile : List Byte)
  | cpart (part : Nat) (p : Packet) (tile : List Byte) | cres (part : Nat) (p : Packet) (tile : List Byte)
  | cagr (part : Nat) (p : Packet) | cagd (part : Nat) (p : Packet) | crep (part : Nat) (p : Packet)
  | collectiveFence (part ctx : Nat) | collectiveDeadline (part ctx : Nat)
  | ringRound (part ctx : Nat) (block : List (List Byte)) | ringBufferFree (part ctx : Nat) (buf : Nat)
  | rcred (part : Nat) (p : Packet)
  -- meridian and overlay, spec/11
  | treqSend (sixths : Nat) | treq (p : Packet) (port : Nat) (sixths2 sixths3 : Nat)
  | trsp (p : Packet) (port : Nat) (sixths : Nat) | merSyncEdge (sixths : Nat) | edge (p : Packet)
  | holdoverEntry | meridianLoss (ms : Nat) | merCfgWrite (v : W64) | merSet (v : W64)
  | merPartLaunchWrite (part : Nat) (v : W64) | launchCancel (part : Nat) | launch (part : Nat)
  | ovd (part : Nat) (p : Packet) | ovr (part : Nat) (p : Packet)
  -- host, spec/12
  | hqQTailWrite (q : Nat) (v : W64) | commandAccept (q : Nat) | nop (q : Nat) | attach (q : Nat) | detach (q : Nat)
  | step (q : Nat) | xfer (q : Nat) | waitq (q : Nat) | advance (q : Nat) | hqQJheadWrite (q : Nat) (v : W64)
  | queueEnable (q : Nat) | queueDisable (q : Nat) | lost (f : Nat) | hqEvtCfgWrite (f : Nat) (v : W64)
  | hqEvtHeadWrite (f : Nat) (v : W64) | go (f : Nat) | flr (vf : Nat) | linkDown | hostReadReissue
  | barAccess (f : Nat) (off : Nat) (len : Nat) (write : Option (List Byte))
  -- reset and start, spec/01, spec/13
  | resetNAssert (ns : Nat) | powerOnAssert (cause : PowerOnCause) | powerOnRelease | referenceLoss (us : Nat)
  | wdog | lockstepMismatch | thermal (sensor : Nat) (celsius : Int) | thermtripRelease (readings : List Int)
  | resetStretchEnd | resetExit | nvPulseEnd (us : Nat) | nvBlocked (mV : Nat) | nvUnblock (mV : Nat)
  | backupLoss (mV : Nat) | startPhase (f : PhaseFindings) | bkpCtlClrlog | bkpCtlClrcnt | wrapperClose (b : Block)
  -- service, spec/15
  | sweep (sheet : Nat) (failed : List CoreId) | sweepRequest (sheets : W16) | jobBoundary (part : Nat)
  -- power, spec/14
  | activityEstimate (e : Estimate) | powerMeasurement (m : Measurement) | throttleStep (junction : Int)
  | clockSwitch | pwrCapWrite (v : W64) | pwrStepWrite (v : W64) | pwrFixedWrite (v : W64)
  -- board chain and management, spec/15
  | chainOutBurst | chainInBurst (pulses : Nat) | chainSilence | carrierEepromRead (answer : Option (List Byte))
  | idoff (v : W16) | idread | status | alertResponse | arp (addr : BitVec 7)
  | setEndpointId (eid : Byte) | getEndpointId | getEndpointUuid | getMctpVersionSupport | getMessageTypeSupport
  | pldmMonitoring (sensor : Nat) | pldmFirmwareUpdate (img : Image)
  | getVersion | getCapabilities | negotiateAlgorithms (p384 : Bool) | getDigests
  | getCertificate (off len : Nat) | challenge (nonce : List Byte) | getMeasurements (idx : Nat)
  | nonceRequest | debugToken (t : Token)
  -- registers, spec/16
  | svrPartCfgWrite (part : Nat) (v : W64) | registerWrite (func : Nat) (off : Nat) (size : Nat) (v : W64)
  -- the rows added at the table's end
  | v3aEntersOperatingRange (mV : Nat) | hostLinkReturn
  deriving DecidableEq, Repr

end Sys2Proof
end

