-- ==== Sys2Proof/Decode.lean ====
section
/-! DEFINITION. Words. The command table gives its rows no bits, so no table word spells a command. A core's
instructions have the encoding of spec/04 R136 to R138; run-ahead reads it from core store (R170). -/

namespace Sys2Proof

/-- The rows of the command table carry no bits. -/
def decodeTableWord (_nbits _w : Nat) : Option Instr := none

/-! ### Fields of a low word (spec/04 Table 4-4) -/

def clsOf (w : W32) : BitVec 4 := w.extractLsb' 0 4
def longOf (w : W32) : BitVec 1 := w.extractLsb' 4 1
def rdOf (w : W32) : Reg := w.extractLsb' 5 5
def raOf (w : W32) : Reg := w.extractLsb' 10 5
def rbOf (w : W32) : Reg := w.extractLsb' 15 5
def fnOf (w : W32) : BitVec 6 := w.extractLsb' 20 6
def immOf (w : W32) : BitVec 11 := w.extractLsb' 15 11
def opOf (w : W32) : BitVec 6 := w.extractLsb' 26 6

/-- A low word in the RR layout. -/
def wordRR (op fn : BitVec 6) (rb ra rd : Reg) (long : BitVec 1) (cls : BitVec 4) : W32 :=
  op ++ fn ++ rb ++ ra ++ rd ++ long ++ cls

/-- A low word in the RI or BR layout. -/
def wordRI (op : BitVec 6) (imm : BitVec 11) (ra rd : Reg) (long : BitVec 1) (cls : BitVec 4) : W32 :=
  op ++ imm ++ ra ++ rd ++ long ++ cls

def loadOps : List LoadOp := [.ldb, .ldh, .ldw, .ldd, .ldbu, .ldhu, .ldwu]
def storeOps : List StoreOp := [.stb, .sth, .stw, .std]
def conds : List Cond := [.beq, .bne, .blt, .bge, .bltu, .bgeu]

/-! ### Decoding (spec/04 R136 to R138; Tables 4-5, 4-6, 4-10 to 4-13, 5-2, 5-9 to 5-11) -/

/-- ALU functions (Table 4-6). -/
def decodeAlu (c : CoreId) (w : W32) : Option Instr :=
  let d := rdOf w
  let a := raOf w
  let b := rbOf w
  match fnOf w with
  | 0x00 => some (.add c d a b)
  | 0x01 => some (.sub c d a b)
  | 0x02 => some (.and c d a b)
  | 0x03 => some (.or c d a b)
  | 0x04 => some (.xor c d a b)
  | 0x05 => some (.sll c d a b)
  | 0x06 => some (.srl c d a b)
  | 0x07 => some (.sra c d a b)
  | 0x08 => some (.slt c d a b)
  | 0x09 => some (.sltu c d a b)
  | 0x0A => some (.min c d a b)
  | 0x0B => some (.max c d a b)
  | 0x0C => some (.minu c d a b)
  | 0x0D => some (.maxu c d a b)
  | 0x10 => some (.mul c d a b)
  | 0x11 => some (.mulh c d a b)
  | 0x12 => some (.mulhu c d a b)
  | 0x14 => some (.div c d a b)
  | 0x15 => some (.divu c d a b)
  | 0x16 => some (.rem c d a b)
  | 0x17 => some (.remu c d a b)
  | 0x18 => some (.clz c d a b)
  | 0x19 => some (.popc c d a b)
  | _ => none

/-- Scalar opcodes (Table 4-5). -/
def decodeScalar (c : CoreId) (w ext : W32) : Option Instr :=
  let d := rdOf w
  let a := raOf w
  let i := immOf w
  match opOf w, longOf w with
  | 0x00, 0 => decodeAlu c w
  | 0x01, 0 => some (.addi c d a i)
  | 0x02, 0 => some (.andi c d a i)
  | 0x03, 0 => some (.ori c d a i)
  | 0x04, 0 => some (.xori c d a i)
  | 0x05, 0 => some (.slli c d a i)
  | 0x06, 0 => some (.srli c d a i)
  | 0x07, 0 => some (.srai c d a i)
  | 0x08, 0 => some (.slti c d a i)
  | 0x09, 0 => some (.sltiu c d a i)
  | 0x0A, 1 => some (.li c d ext)
  | 0x0B, 1 => some (.lih c d a ext)
  | 0x36, 1 => some (.jal c d ext)
  | 0x37, 0 => some (.jalr c d a i)
  | op, 0 =>
    if 0x10 ≤ op.toNat ∧ op.toNat ≤ 0x16 then (loadOps[op.toNat - 0x10]?).map fun o => .localLoad c o d a i
    else if 0x20 ≤ op.toNat ∧ op.toNat ≤ 0x23 then (storeOps[op.toNat - 0x20]?).map fun o => .localStore c o d a i
    else if 0x30 ≤ op.toNat ∧ op.toNat ≤ 0x35 then
      (conds[op.toNat - 0x30]?).map fun o => .conditionalBranch c o a d i
    else none
  | op, _ =>
    if 0x18 ≤ op.toNat ∧ op.toNat ≤ 0x1E then (loadOps[op.toNat - 0x18]?).map fun o => .deviceLoad c o d a ext
    else if 0x28 ≤ op.toNat ∧ op.toNat ≤ 0x2B then (storeOps[op.toNat - 0x28]?).map fun o => .deviceStore c o d a ext
    else none

/-- Vector functions (Table 5-10). -/
def decodeVecFn (c : CoreId) (w : W32) : Option Instr :=
  let d := rdOf w
  let a := raOf w
  let b := rbOf w
  match fnOf w with
  | 0x00 => some (.fadd c d a b)
  | 0x01 => some (.fsub c d a b)
  | 0x02 => some (.fmul c d a b)
  | 0x03 => some (.ffma c d a b)
  | 0x04 => some (.fmax c d a b)
  | 0x05 => some (.fmin c d a b)
  | 0x06 => some (.fhmax c d a b)
  | 0x07 => some (.fcmplt c d a b)
  | 0x08 => some (.fabs c d a b)
  | 0x09 => some (.fneg c d a b)
  | 0x0A => some (.fsel c d a b)
  | 0x10 => some (.iadd c d a b)
  | 0x11 => some (.isub c d a b)
  | 0x12 => some (.imul c d a b)
  | 0x13 => some (.iand c d a b)
  | 0x14 => some (.ior c d a b)
  | 0x15 => some (.ixor c d a b)
  | 0x16 => some (.isll c d a b)
  | 0x17 => some (.isra c d a b)
  | 0x18 => some (.cvtif c d a b)
  | 0x19 => some (.cvtfi c d a b)
  | _ => none

/-- Vector opcodes (Tables 5-9 and 5-11). -/
def decodeVector (c : CoreId) (w ext : W32) : Option Instr :=
  let d := rdOf w
  let a := raOf w
  let b := rbOf w
  let f := fnOf w
  match opOf w, longOf w with
  | 0x00, 0 => decodeVecFn c w
  | 0x01, 0 =>
    match f with
    | 0x00 => some (.exp c d a)
    | 0x01 => some (.log c d a)
    | 0x02 => some (.rsqrt c d a)
    | 0x03 => some (.rcp c d a)
    | _ => none
  | 0x02, 0 => some (.vld c d a (immOf w))
  | 0x03, 0 => some (.vst c d a (immOf w))
  | 0x04, 0 => some (.vbc c d a)
  | 0x05, 0 => some (.vext c d a (immOf w))
  | 0x06, 1 => some (.vlsum c d a (ext.extractLsb' 0 7))
  | 0x07, 1 => some (.vupd c d a b (f.extractLsb' 0 1 == 1) (ext.extractLsb' 0 16) (ext.extractLsb' 16 16))
  | 0x08, 1 =>
    some (.vcvt c d a (f.extractLsb' 0 2) (f.extractLsb' 2 1 == 1) (ext.extractLsb' 0 16) (ext.extractLsb' 16 1 == 1))
  | 0x09, 0 => some (.vunpk c d a)
  | _, _ => none

/-- Matrix opcodes (Table 5-2). -/
def decodeMatrix (c : CoreId) (w ext : W32) : Option Instr :=
  let d := rdOf w
  let a := raOf w
  let b := rbOf w
  let f := fnOf w
  match opOf w, longOf w with
  | 0x00, 0 => some (.mclr c d)
  | 0x01, 0 => if f.extractLsb' 5 1 = 1 then none else some (.mdat c d a (f.extractLsb' 0 5))
  | 0x02, 1 => some (.mmac c d a b (f.extractLsb' 0 1 == 1) (ext.extractLsb' 0 4))
  | 0x03, 1 => some (.mseg c d a b (f.extractLsb' 0 5) (ext.extractLsb' 0 4))
  | 0x04, 1 =>
    some (.mcvt c d a (f.extractLsb' 0 2) (f.extractLsb' 2 1 == 1) (f.extractLsb' 3 1 == 1) (f.extractLsb' 4 2)
      (ext.extractLsb' 0 16) (ext.extractLsb' 16 1 == 1))
  | 0x05, 1 =>
    some (.mdefer c d a b (f.extractLsb' 0 1 == 1) (f.extractLsb' 1 1 == 1) (ext.extractLsb' 0 16)
      (ext.extractLsb' 16 4))
  | 0x06, 0 => some (.mrd c d a (f.extractLsb' 0 2) (f.extractLsb' 2 1 == 1) (f.extractLsb' 3 1 == 1))
  | 0x07, 0 => some (.mhd c a b (f.extractLsb' 0 1 == 1))
  | _, _ => none

/-- Tile opcodes (Table 4-10). -/
def decodeTile (c : CoreId) (w : W32) : Option Instr :=
  let d := rdOf w
  let a := raOf w
  let b := rbOf w
  match opOf w, longOf w with
  | 0x00, 0 => some (.tld c d a)
  | 0x01, 0 => some (.tst c d a)
  | 0x02, 0 => some (.tdl c d a (immOf w))
  | 0x03, 0 => some (.tds c d a (immOf w))
  | 0x04, 0 => some (.tset c d b (fnOf w))
  | 0x05, 0 => some (.tget c d a (fnOf w))
  | 0x06, 0 => some (.tadd c d b (fnOf w))
  | 0x07, 0 => some (.tcopy c d a)
  | _, _ => none

/-- Message opcodes (Table 4-11). -/
def decodeMsg (c : CoreId) (w ext : W32) : Option Instr :=
  let f := fnOf w
  match opOf w, longOf w with
  | 0x00, 1 => some (.xsend c (raOf w) (rbOf w) (f.extractLsb' 0 4) (f.extractLsb' 4 1 == 1) (ext.extractLsb' 0 16))
  | 0x01, 0 => some (.xrecv c (rdOf w) (f.extractLsb' 0 4))
  | 0x02, 1 =>
    some (.xacc c (raOf w) (rbOf w) (f.extractLsb' 0 2) (f.extractLsb' 2 1 == 1) (f.extractLsb' 3 1 == 1)
      (ext.extractLsb' 0 16))
  | _, _ => none

/-- Waypoint opcodes (Table 4-12). -/
def decodeWaypt (c : CoreId) (w ext : W32) : Option Instr :=
  match opOf w, longOf w with
  | 0x00, 1 => some (.warm c (raOf w) (rbOf w) ((fnOf w).extractLsb' 0 1 == 1) ext)
  | 0x01, 0 => some (.warr c (raOf w))
  | 0x02, 0 => some (.wwait c (raOf w))
  | 0x03, 0 => some (.wtest c (rdOf w) (raOf w))
  | 0x04, 0 => some (.inkw c (raOf w))
  | _, _ => none

/-- Control opcodes (Table 4-13). -/
def decodeCtrl (c : CoreId) (w : W32) : Option Instr :=
  match opOf w, longOf w with
  | 0x00, 0 => some (.crr c (rdOf w) (immOf w))
  | 0x01, 0 => some (.crw c (raOf w) (immOf w))
  | 0x02, 0 => some (.crs c (raOf w) (immOf w))
  | 0x03, 0 => some (.crc c (raOf w) (immOf w))
  | 0x04, 0 => some (.fence c)
  | 0x05, 0 => some (.ifence c)
  | 0x06, 0 => some (.halt c)
  | _, _ => none

/-- Decodes a low word and the EXT word after it; none for an encoding that raises FEATURE_UNSUPPORTED (R138). -/
def decodeCore (c : CoreId) (w ext : W32) : Option Instr :=
  match clsOf w with
  | 0x0 => decodeScalar c w ext
  | 0x1 => decodeVector c w ext
  | 0x2 => decodeMatrix c w ext
  | 0x3 => decodeTile c w
  | 0x4 => decodeMsg c w ext
  | 0x5 => decodeWaypt c w ext
  | 0x6 => decodeCtrl c w
  | _ => none

/-! ### Encoding -/

def bit1 (b : Bool) : BitVec 1 := if b then 1 else 0

def loadNum : LoadOp → BitVec 6
  | .ldb => 0
  | .ldh => 1
  | .ldw => 2
  | .ldd => 3
  | .ldbu => 4
  | .ldhu => 5
  | .ldwu => 6

def storeNum : StoreOp → BitVec 6
  | .stb => 0
  | .sth => 1
  | .stw => 2
  | .std => 3

def condNum : Cond → BitVec 6
  | .beq => 0
  | .bne => 1
  | .blt => 2
  | .bge => 3
  | .bltu => 4
  | .bgeu => 5

/-- An RR low word of 32 bits, and of 64 bits. -/
def rr (cls : BitVec 4) (op fn : BitVec 6) (rb ra rd : Reg) : W32 × W32 := (wordRR op fn rb ra rd 0 cls, 0)
def rx (cls : BitVec 4) (op fn : BitVec 6) (rb ra rd : Reg) (ext : W32) : W32 × W32 := (wordRR op fn rb ra rd 1 cls, ext)
def ri (cls : BitVec 4) (op : BitVec 6) (imm : BitVec 11) (ra rd : Reg) : W32 × W32 := (wordRI op imm ra rd 0 cls, 0)

/-- EXT of a conversion: the bound, RSTEP, zeros. -/
def extConv (bound : W16) (rstep : Bool) : W32 := (0 : BitVec 15) ++ bit1 rstep ++ bound

/-- The low word and EXT of a core's instruction, unused fields zero; EXT is 0 where the instruction has none. None
for a command that is no instruction. -/
def encodeCore : Instr → Option (W32 × W32)
  | .add _ d a b => some (rr 0 0 0x00 b a d)
  | .sub _ d a b => some (rr 0 0 0x01 b a d)
  | .and _ d a b => some (rr 0 0 0x02 b a d)
  | .or _ d a b => some (rr 0 0 0x03 b a d)
  | .xor _ d a b => some (rr 0 0 0x04 b a d)
  | .sll _ d a b => some (rr 0 0 0x05 b a d)
  | .srl _ d a b => some (rr 0 0 0x06 b a d)
  | .sra _ d a b => some (rr 0 0 0x07 b a d)
  | .slt _ d a b => some (rr 0 0 0x08 b a d)
  | .sltu _ d a b => some (rr 0 0 0x09 b a d)
  | .min _ d a b => some (rr 0 0 0x0A b a d)
  | .max _ d a b => some (rr 0 0 0x0B b a d)
  | .minu _ d a b => some (rr 0 0 0x0C b a d)
  | .maxu _ d a b => some (rr 0 0 0x0D b a d)
  | .mul _ d a b => some (rr 0 0 0x10 b a d)
  | .mulh _ d a b => some (rr 0 0 0x11 b a d)
  | .mulhu _ d a b => some (rr 0 0 0x12 b a d)
  | .div _ d a b => some (rr 0 0 0x14 b a d)
  | .divu _ d a b => some (rr 0 0 0x15 b a d)
  | .rem _ d a b => some (rr 0 0 0x16 b a d)
  | .remu _ d a b => some (rr 0 0 0x17 b a d)
  | .clz _ d a b => some (rr 0 0 0x18 b a d)
  | .popc _ d a b => some (rr 0 0 0x19 b a d)
  | .addi _ d a i => some (ri 0 0x01 i a d)
  | .andi _ d a i => some (ri 0 0x02 i a d)
  | .ori _ d a i => some (ri 0 0x03 i a d)
  | .xori _ d a i => some (ri 0 0x04 i a d)
  | .slli _ d a i => some (ri 0 0x05 i a d)
  | .srli _ d a i => some (ri 0 0x06 i a d)
  | .srai _ d a i => some (ri 0 0x07 i a d)
  | .slti _ d a i => some (ri 0 0x08 i a d)
  | .sltiu _ d a i => some (ri 0 0x09 i a d)
  | .li _ d e => some (rx 0 0x0A 0 0 0 d e)
  | .lih _ d a e => some (rx 0 0x0B 0 0 a d e)
  | .localLoad _ o d a i => some (ri 0 (0x10 + loadNum o) i a d)
  | .deviceLoad _ o d a e => some (rx 0 (0x18 + loadNum o) 0 0 a d e)
  | .localStore _ o d a i => some (ri 0 (0x20 + storeNum o) i a d)
  | .deviceStore _ o d a e => some (rx 0 (0x28 + storeNum o) 0 0 a d e)
  | .conditionalBranch _ o a b i => some (ri 0 (0x30 + condNum o) i a b)
  | .jal _ d e => some (rx 0 0x36 0 0 0 d e)
  | .jalr _ d a i => some (ri 0 0x37 i a d)
  | .fadd _ d a b => some (rr 1 0 0x00 b a d)
  | .fsub _ d a b => some (rr 1 0 0x01 b a d)
  | .fmul _ d a b => some (rr 1 0 0x02 b a d)
  | .ffma _ d a b => some (rr 1 0 0x03 b a d)
  | .fmax _ d a b => some (rr 1 0 0x04 b a d)
  | .fmin _ d a b => some (rr 1 0 0x05 b a d)
  | .fhmax _ d a b => some (rr 1 0 0x06 b a d)
  | .fcmplt _ d a b => some (rr 1 0 0x07 b a d)
  | .fabs _ d a b => some (rr 1 0 0x08 b a d)
  | .fneg _ d a b => some (rr 1 0 0x09 b a d)
  | .fsel _ d a b => some (rr 1 0 0x0A b a d)
  | .iadd _ d a b => some (rr 1 0 0x10 b a d)
  | .isub _ d a b => some (rr 1 0 0x11 b a d)
  | .imul _ d a b => some (rr 1 0 0x12 b a d)
  | .iand _ d a b => some (rr 1 0 0x13 b a d)
  | .ior _ d a b => some (rr 1 0 0x14 b a d)
  | .ixor _ d a b => some (rr 1 0 0x15 b a d)
  | .isll _ d a b => some (rr 1 0 0x16 b a d)
  | .isra _ d a b => some (rr 1 0 0x17 b a d)
  | .cvtif _ d a b => some (rr 1 0 0x18 b a d)
  | .cvtfi _ d a b => some (rr 1 0 0x19 b a d)
  | .exp _ d a => some (rr 1 1 0x00 0 a d)
  | .log _ d a => some (rr 1 1 0x01 0 a d)
  | .rsqrt _ d a => some (rr 1 1 0x02 0 a d)
  | .rcp _ d a => some (rr 1 1 0x03 0 a d)
  | .vld _ d a i => some (ri 1 0x02 i a d)
  | .vst _ d a i => some (ri 1 0x03 i a d)
  | .vbc _ d a => some (rr 1 0x04 0 0 a d)
  | .vext _ d a i => some (ri 1 0x05 i a d)
  | .vlsum _ ab a cell => some (rx 1 0x06 0 0 a ab ((0 : BitVec 25) ++ cell))
  | .vupd _ d a tw mo col row => some (rx 1 0x07 ((0 : BitVec 5) ++ bit1 mo) tw a d (row ++ col))
  | .vcvt _ d a rm h bound rs => some (rx 1 0x08 ((0 : BitVec 3) ++ bit1 h ++ rm) 0 a d (extConv bound rs))
  | .vunpk _ d ts => some (rr 1 0x09 0 0 ts d)
  | .mclr _ ab => some (rr 2 0x00 0 0 0 ab)
  | .mdat _ ab a m => some (rr 2 0x01 ((0 : BitVec 1) ++ m) 0 a ab)
  | .mmac _ ab ta tb lp n => some (rx 2 0x02 ((0 : BitVec 5) ++ bit1 lp) tb ta ab ((0 : BitVec 28) ++ n))
  | .mseg _ ab ta tb gs n => some (rx 2 0x03 ((0 : BitVec 1) ++ gs) tb ta ab ((0 : BitVec 28) ++ n))
  | .mcvt _ d ab rm h clr nb bound rs =>
    some (rx 2 0x04 (nb ++ bit1 clr ++ bit1 h ++ rm) 0 ab d (extConv bound rs))
  | .mdefer _ ab ta tb lp ns wp n =>
    some (rx 2 0x05 ((0 : BitVec 4) ++ bit1 ns ++ bit1 lp) tb ta ab ((0 : BitVec 12) ++ n ++ wp))
  | .mrd _ d ab rm h clr => some (rr 2 0x06 ((0 : BitVec 2) ++ bit1 clr ++ bit1 h ++ rm) 0 ab d)
  | .mhd _ a b slot => some (rr 2 0x07 ((0 : BitVec 5) ++ bit1 slot) b a 0)
  | .tld _ d a => some (rr 3 0x00 0 0 a d)
  | .tst _ d a => some (rr 3 0x01 0 0 a d)
  | .tdl _ d a i => some (ri 3 0x02 i a d)
  | .tds _ d a i => some (ri 3 0x03 i a d)
  | .tset _ d b sel => some (rr 3 0x04 sel b 0 d)
  | .tget _ d a sel => some (rr 3 0x05 sel 0 a d)
  | .tadd _ d b sel => some (rr 3 0x06 sel b 0 d)
  | .tcopy _ d a => some (rr 3 0x07 0 0 a d)
  | .xsend _ a ts ch wa wp => some (rx 4 0x00 ((0 : BitVec 1) ++ bit1 wa ++ ch) ts a 0 ((0 : BitVec 16) ++ wp))
  | .xrecv _ d ch => some (rr 4 0x01 ((0 : BitVec 2) ++ ch) 0 0 d)
  | .xacc _ a src bank tile wa wp =>
    some (rx 4 0x02 ((0 : BitVec 2) ++ bit1 wa ++ bit1 tile ++ bank) src a 0 ((0 : BitVec 16) ++ wp))
  | .warm _ a b ink e => some (rx 5 0x00 ((0 : BitVec 5) ++ bit1 ink) b a 0 e)
  | .warr _ a => some (rr 5 0x01 0 0 a 0)
  | .wwait _ a => some (rr 5 0x02 0 0 a 0)
  | .wtest _ d a => some (rr 5 0x03 0 0 a d)
  | .inkw _ a => some (rr 5 0x04 0 0 a 0)
  | .crr _ d i => some (ri 6 0x00 i 0 d)
  | .crw _ a i => some (ri 6 0x01 i a 0)
  | .crs _ a i => some (ri 6 0x02 i a 0)
  | .crc _ a i => some (ri 6 0x03 i a 0)
  | .fence _ => some (rr 6 0x04 0 0 0 0)
  | .ifence _ => some (rr 6 0x05 0 0 0 0)
  | .halt _ => some (rr 6 0x06 0 0 0 0)
  | _ => none

end Sys2Proof
end

