-- ==== Sys2Proof/Machine/Sparse.lean ====
section
/-! DEFINITION. Sparse tables in one canonical form: keys strictly rising, no entry equal to the default.
Every memory, register file and indexed group of registers of the model is one of these. -/

namespace Sys2Proof.Sparse

variable {α : Type}

/-- The entry at `k`, or the default. -/
def get (d : α) : Sparse α → Nat → α
  | [], _ => d
  | (j, a) :: r, k => if j = k then a else get d r k

/-- Places an entry before the first larger key. -/
def insertAt (k : Nat) (v : α) : Sparse α → Sparse α
  | [] => [(k, v)]
  | (j, a) :: r => if k < j then (k, v) :: (j, a) :: r else (j, a) :: insertAt k v r

/-- Leaves out the entry at `k`. -/
def erase (m : Sparse α) (k : Nat) : Sparse α := m.filter fun e => e.1 != k

/-- Sets the entry at `k`; the default is not listed. -/
def put [DecidableEq α] (d : α) (m : Sparse α) (k : Nat) (v : α) : Sparse α :=
  if v = d then erase m k else insertAt k v (erase m k)

/-- Changes the entry at `k`. -/
def upd [DecidableEq α] (d : α) (m : Sparse α) (k : Nat) (f : α → α) : Sparse α := put d m k (f (get d m k))

/-- Changes the entry at every key of a list. -/
def updAll [DecidableEq α] (d : α) (m : Sparse α) (ks : List Nat) (f : Nat → α → α) : Sparse α :=
  ks.foldl (fun m k => upd d m k (f k)) m

/-- Changes every listed entry, leaving out those that become the default. -/
def mapVals [DecidableEq α] (d : α) (m : Sparse α) (f : Nat → α → α) : Sparse α :=
  match m with
  | [] => []
  | (k, a) :: r => put d (mapVals d r f) k (f k a)

/-- A table built from a function over keys below `n`, the default left out. -/
def tabulate [DecidableEq α] (d : α) (n : Nat) (f : Nat → α) : Sparse α :=
  (List.range n).filterMap fun k => if f k = d then none else some (k, f k)

/-- The canonical form. -/
def wf [DecidableEq α] (d : α) : Sparse α → Bool
  | [] => true
  | (_, a) :: [] => decide (a ≠ d)
  | (j, a) :: (k, b) :: r => decide (a ≠ d) && decide (j < k) && wf d ((k, b) :: r)

end Sys2Proof.Sparse

namespace Sys2Proof.Memory

/-- One byte. -/
def read (m : Memory) (a : Nat) : Byte := Sparse.get 0 m a

/-- Stores one byte. -/
def write (m : Memory) (a : Nat) (b : Byte) : Memory := Sparse.put 0 m a b

/-- `n` bytes from address `a`, in increasing address order. -/
def readBytes (m : Memory) : Nat → Nat → List Byte
  | _, 0 => []
  | a, n + 1 => m.read a :: readBytes m (a + 1) n

/-- Stores bytes from address `a` upward. -/
def writeBytes (m : Memory) : Nat → List Byte → Memory
  | _, [] => m
  | a, b :: r => writeBytes (m.write a b) (a + 1) r

/-- The canonical form of a memory. -/
def wf (m : Memory) : Bool := Sparse.wf 0 m

end Sys2Proof.Memory

namespace Sys2Proof

/-- Bytes as a little-endian number (spec/00 R8). -/
def leNat : List Byte → Nat
  | [] => 0
  | b :: r => b.toNat + 256 * leNat r

/-- A number as `n` little-endian bytes (spec/00 R8). -/
def leBytes : Nat → Nat → List Byte
  | 0, _ => []
  | n + 1, v => BitVec.ofNat 8 v :: leBytes n (v / 256)

/-- A little-endian number of `n` bytes at an address. -/
def Memory.readLE (m : Memory) (a n : Nat) : Nat := leNat (m.readBytes a n)

/-- Stores a number as `n` little-endian bytes. -/
def Memory.writeLE (m : Memory) (a n v : Nat) : Memory := m.writeBytes a (leBytes n v)

end Sys2Proof
end

