-- ==== Sys2Proof/Machine/Crc.lean ====
section
/-! DEFINITION. CRC-32C (spec/02 R60) and the random words of stochastic rounding (spec/02 R67). -/

namespace Sys2Proof.Machine

/-- One bit of the reflected CRC-32C (polynomial 0x82F6_3B78). -/
def crcBit (x : W32) : W32 := if x.getLsbD 0 then (x >>> 1) ^^^ 0x82F63B78#32 else x >>> 1

/-- One byte of the CRC, bit 0 first. -/
def crcByte (x : W32) (b : Byte) : W32 :=
  crcBit (crcBit (crcBit (crcBit (crcBit (crcBit (crcBit (crcBit (x ^^^ b.setWidth 32))))))))

/-- CRC-32C over bytes in increasing address order (spec/02 R60). -/
def crc32c (bs : List Byte) : W32 := bs.foldl crcByte 0xFFFFFFFF#32 ^^^ 0xFFFFFFFF#32

/-- `mix` of spec/02 R67. -/
def srMix (x k : W64) : W64 :=
  let x := (x ^^^ k) * 0xD6E8FEB86659FD93#64
  let x := (x ^^^ (x >>> 32)) * 0xD6E8FEB86659FD93#64
  x ^^^ (x >>> 29)

/-- One of the four rounds of `sr_bits`. -/
def srRound (key : W64) (lr : W64 × W64) (i : Nat) : W64 × W64 :=
  (lr.2, lr.1 ^^^ srMix lr.2 (key + BitVec.ofNat 64 i * 0x9E3779B97F4A7C15#64))

/-- `sr_bits` of spec/02 R67. -/
def srBits (key : W64) (tensor step : W32) (index : W64) : W32 :=
  ([1, 2, 3, 4].foldl (srRound key) (index, tensor ++ step)).2.setWidth 32

end Sys2Proof.Machine
end

