-- ==== Sys2Proof/Machine/Identity.lean ====
section
/-! DEFINITION. The identity EEPROM's image (spec/01 R34, Table 1-9) and the carrier EEPROM's (spec/15 Table 15-1). -/

namespace Sys2Proof.Machine

/-- An ASCII string padded with zeros to `n` bytes. -/
def asciiField (n : Nat) (cs : List Char) : List Byte :=
  ((cs.map fun (c : Char) => BitVec.ofNat 8 c.toNat) ++ List.replicate n 0).take n

/-- Offsets 0x0000 to 0x00FB of an identity EEPROM (spec/01 Table 1-9): grade A, 512 GiB, with the typical voltages
of spec/14 Table 14-1. DESIGN CHOICE (log 5): the spec gives the layout, and each part has its own contents. -/
def identityBody : List Byte :=
  asciiField 4 ['C', 'H', 'T', '4'] ++ leBytes 2 1 ++ leBytes 2 0x100
  ++ asciiField 16 ['C', 'H', 'T', '4', '-', 'A', '5', '1', '2'] ++ [0x41, 0] ++ leBytes 2 512 ++ leBytes 4 0x254A
  ++ List.replicate 16 0 ++ leBytes 8 1 ++ leBytes 2 0x0100 ++ leBytes 2 1 ++ leBytes 4 0
  ++ List.replicate 32 0 ++ List.replicate 16 0
  ++ leBytes 2 950 ++ leBytes 2 880 ++ leBytes 2 820 ++ leBytes 2 780 ++ leBytes 2 750 ++ leBytes 2 700
  ++ leBytes 2 650 ++ leBytes 2 580 ++ leBytes 2 1200 ++ leBytes 2 4000 ++ List.replicate 120 0

/-- The identity EEPROM of State.reset: the body and its CRC (log 5). -/
def identityImage : Memory :=
  Memory.writeBytes [] 0 (identityBody ++ leBytes 4 (crc32c identityBody).toNat)

end Sys2Proof.Machine
end

