-- ==== Sys2Proof/Machine/State.lean ====
section
/-! DEFINITION. The state of one CHT4 module: everything the spec gives it, as plain data, with State.reset.
Fields that no rule of the spec names are marked MODEL. -/

namespace Sys2Proof.Machine

/-- No command of this block ends the model: a fault of the T4 is an effect on State (spec/04 R175), never a
stop of the model, so there is no constructor. Safe: nothing is cut off. -/
inductive Fault where
  deriving DecidableEq, Repr

/-- A command without a meaning. Raised by an arm of exec only; safe, the model stops. -/
inductive Refusal where
  /-- The command has no meaning yet; raised by its arm of exec. Safe. -/
  | notModelled (mnemonic : String)
  deriving DecidableEq, Repr

/-! ### Core state -/

/-- A tile descriptor (spec/04 Table 4-8). -/
structure Desc where
  addr : W64 := 0
  fmt : BitVec 4 := 0
  bsize : BitVec 2 := 0
  survey : Bool := false
  rows : W16 := 0
  cols : W16 := 0
  version : W32 := 0
  tensor : W32 := 0
  step : W32 := 0
  rstride : W32 := 0
  ebase : W64 := 0
  tcoord : W32 := 0
  deriving DecidableEq, Repr

/-- One accumulator cell (spec/03 Table 3-1). -/
structure Cell where
  acc : BitVec 136 := 0
  rcnt : Byte := 0
  lcnt : Byte := 0
  nan : Bool := false
  pinf : Bool := false
  ninf : Bool := false
  padd : Bool := false
  pnz : Bool := false
  sat : Bool := false
  deriving DecidableEq, Repr

/-- One check accumulator with its rounding count and mirror sum (spec/08 R290, R292). -/
structure ChkReg where
  acc : BitVec 144 := 0
  cnt : Byte := 0
  mirror : BitVec 144 := 0
  nan : Bool := false
  pinf : Bool := false
  ninf : Bool := false
  deriving DecidableEq, Repr

/-- The RW fields of DATUM_n other than DATUM (spec/03 Table 3-4). -/
structure DatCfg where
  pbound : W16 := 0x8000
  klog : BitVec 5 := 0
  policy : BitVec 2 := 0
  tighten : BitVec 6 := 0
  deriving DecidableEq, Repr

/-- One tile pair of a logged instruction: operand addresses, PCRCs, and the rows that receive real products
(spec/03 R112, spec/08 R305). -/
structure LogPair where
  a : Nat
  b : Nat
  aPcrc : W32
  bPcrc : W32
  rowLo : Nat
  rowHi : Nat
  deriving DecidableEq, Repr

/-- A logged accumulating instruction, with FMODE.FTZ as it issued (spec/03 R112, R117; spec/08 R305). -/
structure LogEnt where
  ta : Desc
  tb : Desc
  lp : Bool
  ftz : Bool
  pairs : List LogPair
  deriving DecidableEq, Repr

/-- An accumulator bank (spec/03 Table 3-1, R101; spec/08 R290, R305). Cells are keyed 16 × row + column.
Check registers are keyed 0–15 CR, 16–23 CC, 24 CN. `fixed` says the datum is fixed; `run` is the kind of the current
run (R118), true for integer mode, none before an accumulating instruction began one; `cover` is the coverage decision
of spec/08 R296, none before it is made. -/
structure Bank where
  cells : Sparse Cell := []
  kcnt : W32 := 0
  pemax : W16 := 0x8000
  replay : List LogEnt := []
  written : DatCfg := {}
  force : DatCfg := {}
  datum : W16 := 0
  fixed : Bool := false
  opn : Bool := false
  repeated : Bool := false
  run : Option Bool := none
  cover : Option Bool := none
  chk : Sparse ChkReg := []
  clog : List LogEnt := []
  clogFull : Bool := false
  survey : Bool := false
  deriving DecidableEq, Repr

/-- What a pending core-store range belongs to (spec/04 R167). -/
inductive Owner where
  | xfer (id : Nat) | recv (id : Nat) | send (m : W32) | stage | defer (id : Nat) | abuf (n : Nat)
  deriving DecidableEq, Repr

/-- A pending core-store byte range (spec/04 R167). -/
structure Pend where
  wr : Bool
  lo : Nat
  len : Nat
  owner : Owner
  deriving DecidableEq, Repr

/-- A tld or tst in flight (spec/04 R151): whether it reaches another module, and its place in program order. -/
structure Flight where
  id : Nat
  tst : Bool
  far : Bool
  seq : Nat
  deriving DecidableEq, Repr

/-- Where an xsend or xacc of the message engine stands (spec/06 R227, R229). -/
inductive SendPhase where
  | queued | asked | retry
  deriving DecidableEq, Repr

/-- An xsend or xacc in flight (spec/04 R156, spec/06 R227 to R229): `len` bytes at `addr`; `data` holds a contribution's. -/
structure Send where
  msgid : W32
  acc : Bool
  phase : SendPhase
  dst : W16
  dlocal : Bool
  dmod : BitVec 15
  chan : Byte
  addr : Nat
  len : Nat
  data : List Byte
  datum : W16
  warr : Bool
  wp : W16
  pencil : Bool
  epoch : W32
  pc : BitVec 18
  seq : Nat
  deriving DecidableEq, Repr

/-- The message a posted receive is bound to. -/
structure Binding where
  smod : BitVec 15
  src : W16
  msgid : W32
  deriving DecidableEq, Repr

/-- A posted receive (spec/04 R153) with its place in program order. -/
structure Recv where
  id : Nat
  chan : Nat
  td : Desc
  bound : Option Binding
  seq : Nat
  deriving DecidableEq, Repr

/-- An xacc staging slot in use (spec/06 R229). -/
structure Stage where
  who : Binding
  bank : Nat
  datum : W16
  data : Sparse Byte
  got : Nat
  warr : Bool
  wp : W16
  pencil : Bool
  epoch : W32
  deriving DecidableEq, Repr

/-- A deferred entry (spec/05 R199): its instruction with its descriptor copies and FMODE.FTZ as it issued, whether it
has been forced (R202), and how many products per cell have entered. -/
structure Defer where
  id : Nat
  bank : Nat
  ta : Desc
  tb : Desc
  n : Nat
  lp : Bool
  nosteal : Bool
  wp : W16
  ftz : Bool
  forced : Bool := false
  started : Bool
  progress : Nat
  pc : BitVec 18
  seq : Nat
  deriving DecidableEq, Repr

/-- What holds the operand stage (spec/05 R184, R201). -/
inductive StageUse where
  | instr
  | deferred (e : Defer)
  deriving DecidableEq, Repr

/-- The tag of an adapter buffer (spec/05 R197). -/
structure AdapterTag where
  variant : W16
  part : Nat
  base : W64
  n : Nat
  version : W32
  loaded : Bool
  deriving DecidableEq, Repr

/-- A segment of a running mseg (spec/05 Table 5-6). -/
structure Seg where
  variant : W16
  rowLo : Nat
  rowHi : Nat
  entry : W64
  version : W32
  deriving DecidableEq, Repr

/-- A running mseg (spec/05 R196, R197): the segments left, the buffer of the last one, and whether the check log
holds its entry. -/
structure MsegRun where
  bank : Nat
  ta : Desc
  tb : Desc
  n : Nat
  part : Nat
  buf0 : Nat
  buf1 : Nat
  segs : List Seg
  last : Nat
  logged : Bool
  ftz : Bool
  pc : BitVec 18
  seq : Nat
  deriving DecidableEq, Repr

/-- A thief's stolen entry, and whether its run is done (spec/05 R203, R204). -/
structure Stolen where
  victim : CoreId
  entry : Defer
  deriving DecidableEq, Repr

/-- A run-ahead prefetch slot (spec/04 R171): the source address, the capacity it was decoded with, and the tile's
cartouche and payload once filled. -/
structure Slot where
  idx : Nat
  addr : W64
  capacity : Nat
  tile : Option (List Byte)
  deriving DecidableEq, Repr

/-- A landing tag (spec/07 R285). -/
structure Tag where
  addr : Nat
  plen : Nat
  crc : W32
  deriving DecidableEq, Repr

/-- What an outstanding memory access of a core is for (spec/07 R255 to R261): a load, a tld with its landing descriptor and
flight and the registers of its two descriptors, the writes of a store or tst with the DETAIL of their faults, the fill of a prefetch slot (spec/04 R171), the load of an adapter buffer (spec/05 R197), or `n` bytes at
`a` that an mseg reads as it issues (spec/05 R183, R194). -/
inductive RemoteUse where
  | load (rd : Reg) (op : LoadOp)
  | tile (td : Desc) (flight : Nat) (ts_ td_ : Reg)
  | store (detail : Byte)
  | prefetch (slot : Nat)
  | adapter (buf : Nat)
  | issue (a n : Nat)
  deriving DecidableEq, Repr

/-- An outstanding memory access: its tag, the module and position that serve it, whether that is another module, the
requests not yet answered, the bytes received. -/
structure Remote where
  tag : W32
  peer : BitVec 15
  at_ : CoreId
  far : Bool
  use : RemoteUse
  base : Nat
  left : Nat
  data : Sparse Byte
  pc : BitVec 18
  seq : Nat
  deriving DecidableEq, Repr

/-- A foreign-table entry (spec/08 R312, R313, R316): the highest epoch of the producer consumed, the latest frontier
told by INKED, the consumptions not yet inked, each with the consumer's epoch at the time (later epochs depend on it),
the consumer's epoch at a consumption answered DEAD, and whether NOTYET has been answered. -/
structure Foreign where
  pmod : BitVec 15
  pcore : W16
  epoch : W32
  covered : Option W32
  marks : List (W32 × W32)
  isDead : Option W32
  again : Bool
  deriving DecidableEq, Repr

/-- A check-engine snapshot (spec/08 R298): the bank as the read found it. -/
structure Snap where
  ab : Nat
  epoch : W32
  bank : Bank
  held : Bool
  deriving DecidableEq, Repr

/-- An arrival held after INKHOLD (spec/06 R245): sent again once the frontier covers `own` and, for a landed tile
or contribution, once its producer has inked it. -/
structure HeldArr where
  wp : W16
  dlocal : Bool
  dmod : BitVec 15
  own : Option W32
  producer : Option (BitVec 15 × W16 × W32)
  again : Bool
  deriving DecidableEq, Repr

/-- A tst or transfer of a foreign pencilled tile that waits for inking, after its use was recorded (spec/04 R150):
the instruction's place in program order, and the producer's module, core and epoch. -/
structure InkHold where
  seq : Nat
  pmod : BitVec 15
  pcore : W16
  epoch : W32
  deriving DecidableEq, Repr

/-- CFAULT (spec/04 Table 4-24, R175); `seq` is the recorded instruction's place in program order. -/
structure CFault where
  valid : Bool := false
  code : Byte := 0
  count : Byte := 0
  detail : Byte := 0xFF
  pc : BitVec 18 := 0
  seq : Nat := 0
  deriving DecidableEq, Repr

/-- The control registers a restart restores (spec/04 R176), besides DATUM_0 to DATUM_3. -/
structure Ctl where
  fmode : W32 := 0
  fstat : W32 := 0
  chkrate : W32 := 0
  srkeyLo : W32 := 0
  srkeyHi : W32 := 0
  histb : W32 := 0xFFE0
  stepno : W32 := 0
  rahead : W32 := 0x8108
  deriving DecidableEq, Repr

/-- Whether a core issues (spec/04 R131, R164, R175). -/
inductive RunState where
  | off | running | halted | stopStep | stopJob
  deriving DecidableEq, Repr

/-- What a core waits for between commands: a wwait that has registered at the home (spec/06 R244). -/
inductive Wait where
  | none | wwait (w : W16)
  deriving DecidableEq, Repr

/-- An overlay record (spec/11 R424). -/
structure OvlRec where
  step : W32
  ordinal : Nat
  tensor : W32
  pcrc : W32
  tick : W64
  deriving DecidableEq, Repr

/-- A block digest (spec/11 R425). -/
structure OvlDig where
  step : W32
  block : Nat
  count : Nat
  digest : W32
  deriving DecidableEq, Repr

/-- Overlay state of a core or context (spec/11 R424 to R428): the next ordinal, the unreleased records, the digests
sent, the partner's digests received. -/
structure Ovl where
  ord : Nat := 0
  recs : List OvlRec := []
  mine : List OvlDig := []
  peer : List OvlDig := []
  deriving DecidableEq, Repr

/-- One core (spec/04 Table 4-1 and the text after it). Banks 0 to 3 are a0 to a3, bank 4 the steal bank.
Vector lanes are keyed 32 × register + lane, histogram bins 68 × slot + bin; `wtests` holds the waypoint, the register
and the place in program order of each wtest in flight. `sent` are the xsends and xaccs whose source has been read but
that have not landed. `stall` is the idle cause of the last
refused issue (spec/04 Table 4-22; 8: the core's own units; 9: the operand stage, spec/05 R184). `repeatLeft` holds the
core cycles that a datum repeat still takes (spec/03 R116). `seq` counts issued instructions (MODEL). -/
structure Core where
  run : RunState := .off
  g : Sparse W64 := []
  v : Sparse W32 := []
  t : Sparse Desc := []
  pc : BitVec 18 := 0
  banks : Sparse Bank := []
  store : Memory := []
  dblErr : Sparse Bool := []
  ctl : Ctl := {}
  restore : Ctl := {}
  restoreDat : Sparse DatCfg := []
  steppc : BitVec 18 := 0
  idle : Sparse W64 := []
  idleBase : Sparse W64 := []
  epoch : W32 := 0
  cfault : CFault := {}
  cycle : W64 := 0
  icount : W64 := 0
  busy : Nat := 0
  busyBase : Nat := 0
  seq : Nat := 0
  stall : Option Nat := none
  repeatLeft : Nat := 0
  hist : Sparse W32 := []
  defq : List Defer := []
  stage : Option StageUse := none
  mseg : Option MsegRun := none
  abuf0 : Option AdapterTag := none
  abuf1 : Option AdapterTag := none
  stolen : Option Stolen := none
  lent : List Defer := []
  slots : List Slot := []
  flights : List Flight := []
  pends : List Pend := []
  sends : List Send := []
  sent : List Send := []
  /-- Messages given up between their MRTS and its MGNT (spec/06 R227). -/
  givenUp : List Send := []
  recvs : List Recv := []
  stages : List Stage := []
  msgid : W32 := 0
  uid : Nat := 0
  remotes : List Remote := []
  wait : Wait := .none
  wtests : List (W16 × Reg × Nat) := []
  tags : List Tag := []
  snaps : List Snap := []
  rangeFail : Option W32 := none
  frontier : W32 := 0
  foreign : List Foreign := []
  suspect : Bool := false
  forceCover : Bool := false
  checkerHits : Nat := 0
  triHold : Bool := false
  heldArrs : List HeldArr := []
  hold : Option InkHold := none
  ovl : Ovl := {}
  deriving DecidableEq, Repr

/-! ### Mesh, memory -/

/-- A waypoint's STATE (spec/06 Table 6-4). -/
inductive WpState where
  | unarmed | armed | complete | expired
  deriving DecidableEq, Repr

/-- A waypoint (spec/06 Table 6-4); `cores` are the cores that their sheets record as waiting on it (R244). -/
structure Waypoint where
  state : WpState := .unarmed
  count : W32 := 0
  target : W32 := 0
  inkreq : Bool := false
  deadline : Option Nat := none
  waiters : W16 := 0
  cores : List CoreId := []
  deriving DecidableEq, Repr

/-- What an ink block holds for one core (spec/08 R315): its frontier and its last four dead ranges, each first to
last epoch, the latest first. -/
structure InkCore where
  frontier : W32 := 0
  dead : List (W32 × W32) := []
  deriving DecidableEq, Repr

/-- A subscription of an ink block (spec/08 R316). -/
structure Sub where
  producer : CoreId
  cmod : BitVec 15
  ccore : W16
  msgid : W32
  epoch : W32
  deriving DecidableEq, Repr

/-- MEM_STACK_n_STATUS (spec/07 Table 7-6). -/
structure StackStat where
  cecnt : W16 := 0
  spares : W16 := 0
  poison : Byte := 0
  train : BitVec 2 := 0
  selfref : Bool := false
  mismatch : Bool := false
  retiring : Bool := false
  nospare : Bool := false
  deriving DecidableEq, Repr

/-- A transfer descriptor (spec/07 Table 7-7). -/
structure XDesc where
  kind : Byte
  flags : Byte
  count : W16
  len : W32
  src : W64
  dst : W64
  srclo : W64
  srchi : W64
  dstlo : W64
  dsthi : W64
  wp : W32
  rsv : W32
  deriving DecidableEq, Repr

/-- A transfer waiting for or held by an engine (spec/07 R280 to R284): its tag, the next tile, the ink query for a tile of
another module and its answer (inked or dead), whether the next tile has been asked for, the reads not yet answered, the
bytes of the tile received, the writes not yet acknowledged. -/
structure Xfer where
  q : Nat
  part : Nat
  seq : W64
  d : XDesc
  next : Nat
  tag : W32 := 0
  asked : Bool := false
  answer : Option Bool := none
  fetched : Bool := false
  left : Nat := 0
  got : Sparse Byte := []
  acks : Nat := 0
  deriving DecidableEq, Repr

/-- Stacked memory and its controllers (spec/07). `corrections` keeps, by page, the model times of reads that were corrected
(R275), `copies` the pages that are being copied to a spare, each with the model time at which its copy ends. -/
structure Mem where
  bytes : Memory := []
  tileCfg : W64 := 0
  rgn0 : Sparse W64 := []
  rgn1 : Sparse W64 := []
  stackStats : Sparse StackStat := []
  poisoned : List Nat := []
  corrections : Sparse (List Nat) := []
  copies : List (Nat × Nat) := []
  waiting : List Xfer := []
  engines : Sparse (Option Xfer) := []
  xferNo : Nat := 0
  linkFails : Sparse Nat := []
  deriving DecidableEq, Repr

/-! ### Partitions and steps -/

/-- An expected port entry of the plan (spec/09 R350). -/
structure PortPlan where
  kind : Byte := 0
  minlanes : Byte := 0
  port : Byte := 0
  id : W16 := 0
  deriving DecidableEq, Repr

/-- A job attached to a partition (spec/12 R441, Table 12-7). -/
structure Job where
  modules : Nat
  digest : W64
  ports : List PortPlan
  deriving DecidableEq, Repr

/-- An ATTACH waiting for the exchange of spec/09 R353. -/
structure Attaching where
  q : Nat
  job : Job
  awaited : List (BitVec 15)
  deriving DecidableEq, Repr

/-- An ATTACH packet that came before this module's own attach asked for it (spec/09 R353). -/
structure AttachRx where
  smod : BitVec 15
  digest : W64
  tileCfg : W64
  board : Bool
  deriving DecidableEq, Repr

/-- A STEP command that runs or waits (spec/12 R443). -/
structure StepRun where
  q : Nat
  seq : W64
  step : W32
  entry : W32
  tick : W64
  rdst : W64
  rsrc : W64
  rlen : W32
  attempts : Nat
  deriving DecidableEq, Repr

/-- A smudge being applied (spec/08 R322, R323): the restart tick, whether ATTEMPT has advanced, and whether the
cores stay stopped (spec/09 R377). -/
structure Smudging where
  tr : Nat
  quiesced : Bool
  keep : Bool
  deriving DecidableEq, Repr

/-- MER_PART_p_LSTAT.STATE (spec/11 Table 11-5). -/
inductive LaunchState where
  | none | pending | launched | refused
  deriving DecidableEq, Repr

/-- A triangulation in progress (spec/08 R295, R306, R307): the bank, the held epoch, the first failing row and
column. -/
structure Tri where
  core : CoreId
  neighbour : CoreId
  ab : Nat
  epoch : W32
  row : Option Nat
  col : Option Nat
  deriving DecidableEq, Repr

/-- One partition: SVR_PART, MER_PART, FAB_PART, CHK_PART and PWR_PART registers and its job (spec/16 index). `ended` is the
queue and SEQ of the last STEP that ran, until its completion record is written (spec/12 R443); `committed` tells that the ink
commit has ended the restore state of the attempt, until the next launch (spec/08 R329). -/
structure Part where
  cfg : W32 := 0x2
  idle : Sparse W64 := []
  cycles : W64 := 0
  launch : W64 := 0
  lstate : LaunchState := .none
  wref : Bool := false
  entry : W32 := 0
  ctick : W64 := 0
  ctab : W64 := 0
  gtab : W64 := 0
  grec : W64 := 0
  cwp : W16 := 0xFFFF
  smdelay : W16 := 500
  surveyRate : BitVec 2 := 0
  commitStep : W32 := 0
  attempt : Byte := 0
  vsel : Bool := false
  ccell : W64 := 0
  survey : Sparse W64 := []
  ovlCfg : W64 := 0
  ovlBuf : W64 := 0
  job : Option Job := none
  attaching : Option Attaching := none
  running : Option StepRun := none
  waitingSteps : List StepRun := []
  votes : List (BitVec 15 × W64) := []
  voted : Bool := false
  smudging : Option Smudging := none
  ended : Option (Nat × W64) := none
  committed : Bool := false
  tris : List Tri := []
  stopped : Bool := false
  energy : W64 := 0
  deriving DecidableEq, Repr

/-! ### Collectives -/

/-- A collective descriptor as read at opening (spec/09 Table 9-5). -/
structure CDesc where
  op : Nat
  scope : Nat
  policy : Nat
  agree : Bool
  lp32 : Bool
  replay : Bool
  tiles : Nat
  lcnt : Nat
  rdatum : W16
  gbase : Nat
  gcount : Nat
  deadline : Nat
  work : Nat
  out : Nat
  carry : Nat
  carrylen : Nat
  wpout : W16
  wpfree : W16
  tensor : W32
  ofmt : Nat
  deriving DecidableEq, Repr

/-- A contribution or a partial held by an engine (spec/09 R359, R362): step, tile index, source module, count of
contributions, whether it is a carried one, and the tile's bytes. -/
structure CTile where
  step : W32
  idx : Nat
  src : BitVec 15
  count : Nat
  late : Bool
  bytes : List Byte
  deriving DecidableEq, Repr

/-- What a tile that reaches an engine is: the contribution of a core, a partial, or the result from the parent, with the
datum of its packet (spec/09 R361, R362). -/
inductive CKind where
  | contribution (c : CoreId) | partialSum | result (datum : W16)
  deriving DecidableEq, Repr

/-- A tile that arrived for a later step and is held (spec/09 R361). -/
structure CHeld where
  tile : CTile
  kind : CKind
  deriving DecidableEq, Repr

/-- A datum agreement received from a child (spec/09 R364). -/
structure CAgree where
  step : W32
  src : BitVec 15
  group : Nat
  emax : W16
  n : Nat
  deriving DecidableEq, Repr

/-- An entry of the carry log as the engine reads it (spec/09 R369, Table 9-10). -/
structure CListed where
  step : W32
  tile : Nat
  src : BitVec 15
  pcrc : W32
  count : Nat
  deriving DecidableEq, Repr

/-- A collective context (spec/09 R356 to R374). Of the open instance: its step and descriptor, the contributions in
the local slots, the partials, the agreed datum of each group and the datum it had before a repeat, the groups whose
agreement has been sent and those that have repeated, the opening tick, whether the deadline and the fence have passed,
the tiles formed, the tiles written, the results that wait for overlay blocks (R427), whether it has delivered and is kept
for a repeat (R365), the gather record's use (`some true` records, `some false` compares) and a failed comparison, the
entries a replay reads. Of the ring pass: the round, whether the own block has left, the rounds whose blocks are still to be
forwarded. What outlives an instance: carries, held arrivals, agreements of later steps, buffers, credits, the buffers whose
WPFREE arming stands, oldest first, and those whose arming has completed (R374), epoch, frontier, foreign table,
subscriptions, overlay records. `fresh` holds until the engine opens an instance after its job came or was smudged: its carried
partials are those that memory holds (spec/11 R423). -/
structure Coll where
  opn : Bool := false
  step : W32 := 0
  desc : Option CDesc := none
  locals : List CTile := []
  partials : List CTile := []
  datums : List (Nat × W16) := []
  floors : List (Nat × W16) := []
  agrees : List CAgree := []
  agreedSent : List Nat := []
  repeated : List Nat := []
  opened : W64 := 0
  expired : Bool := false
  fenced : Bool := false
  formed : List Nat := []
  written : List Nat := []
  unwritten : List (Nat × List Byte) := []
  delivered : Bool := false
  recording : Option Bool := none
  failed : Bool := false
  listed : List CListed := []
  round : Nat := 0
  ownSent : Bool := false
  fwd : List Nat := []
  held : List CHeld := []
  carries : List CTile := []
  lastStep : Option W32 := none
  epoch : W32 := 0
  frontier : W32 := 0
  foreign : List Foreign := []
  dead : List (W32 × W32) := []
  subs : List Sub := []
  bufFree0 : Bool := true
  bufFree1 : Bool := true
  credits : Nat := 2
  arms : List Nat := []
  released : List Nat := []
  fresh : Bool := true
  ovl : Ovl := {}
  slotsUsed : Nat := 0
  deriving DecidableEq, Repr

/-! ### Meridian, power, fabric -/

/-- MER_STATUS.LOCK (spec/11 Table 11-3). -/
inductive Lock where
  | free | acquiring | locked | holdover
  deriving DecidableEq, Repr

/-- The meridian unit (spec/11). Stamps and latches are held in sixths of a tick, the latest offset in twelfths;
`edgeAt` is the model time of the latest edge. `arrived` keeps, of each MER packet that came by a port and has not been taken
up, the port and the tick in which its header crossed it (R399). -/
structure Meridian where
  count : W64 := 0
  bref : BitVec 3 := 0
  upport : BitVec 4 := 0
  role : BitVec 2 := 0
  offsetPs : W32 := 0
  delay : W16 := 0
  stepped : Bool := false
  edgeAt : Option Nat := none
  lock : Lock := .locked
  latches : List Int := []
  good : Nat := 0
  theta : Int := 0
  treqSent : Option Int := none
  arrived : List (Packet × Nat × W64) := []
  deriving DecidableEq, Repr

/-- Why fixed-frequency mode broke (spec/11 Table 11-7). -/
structure Fixed where
  bcause : BitVec 2 := 0
  broken : Bool := false
  active : Bool := false
  step : BitVec 3 := 2
  en : Bool := false
  floor : Option (BitVec 3) := none
  deriving DecidableEq, Repr

/-- Power management (spec/14). Steps are 0 for F0 to 7 for F7; estimates in mW. `capUsed` is
the cap as the latest estimate took it up (R492), `target` the step a slew leads to,
`stop` the ticks that the core clock still stands, `hold` the core cycles that issue is still held; `climBase` is
CLIM as the latest estimate found it, `climActed` whether a rule has acted on it since (R496). -/
structure Power where
  req : BitVec 3 := 2
  clim : BitVec 3 := 0
  tlim : BitVec 3 := 0
  cap : BitVec 13 := 3600
  capUsed : BitVec 13 := 3600
  meas : W16 := 0
  est : W16 := 0
  tjmax : Byte := 0
  throt : Bool := false
  sensflag : Bool := false
  measure : Bool := false
  fixed : Fixed := {}
  clock : BitVec 3 := 2
  target : BitVec 3 := 2
  slewing : Bool := false
  stop : Nat := 0
  hold : Nat := 0
  climBase : BitVec 3 := 0
  climActed : Bool := false
  clkPhase : Nat := 0
  overEst : Nat := 0
  headroom : Nat := 0
  overMeas : Nat := 0
  posDis : Nat := 0
  negDis : Nat := 0
  calmMode : Nat := 0
  calmRaise : Nat := 0
  disRaised : Bool := false
  barred : Nat := 0
  ests : List Nat := []
  estScale : Option (Nat × Nat) := none
  total : W64 := 0
  unattr : W64 := 0
  deriving DecidableEq, Repr

/-- FAB_PORT_n_STATUS.STATE (spec/09 Table 9-12). -/
inductive PortState where
  | down | training | up4 | up2 | degrading | lost
  deriving DecidableEq, Repr

/-- A port's USE (spec/09 Table 9-11). -/
inductive PortUse where
  | unused | inUse | dark | mismatched
  deriving DecidableEq, Repr

/-- A cage's CAGE (spec/09 Table 9-11). -/
inductive Cage where
  | empty | unpowered | refused | accepted
  deriving DecidableEq, Repr

/-- The end of a message of core `core` on its way over a port: its class, the bytes of the class's stream before its end, and
the flit that carries the last of them once that has left. -/
structure Tail where
  core : CoreId
  cls : Nat
  left : Nat
  seq : Option (BitVec 12)
  deriving DecidableEq, Repr

/-- A Fameuri port with its cage (spec/09 R332 to R353, spec/01 R31 to R33). Of the cage: the levels of ResetL, LPMode and
IntL, the lanes of the application that the surveyor has selected through CMIS (0 none), whether its data paths are
activated. `hello` is the partner's latest record, `ackSent` whether an own HELLO with ACKD has left; `got` whether any flit
was delivered; `outq` the flits sent, the latest last; `resends` how often each flit of `replay` has been sent again. By
class: `rx` the bytes of packets not yet complete, `rxFlits` the flits of buffer they occupy, `owed` the flits of buffer to be
returned, `credits` the flits of the partner's buffer held, `tx` the bytes of packets whose sending has begun (R335, R338).
`direct` are packets that leave by this port whatever the route table says (R377, R400). Of R339: `phase` is the time since
the flit boundary in 10 ps, `tokens` with the flit times towards the next one, `turn` the class whose turn it is with the
flits left of its quantum. `tails` are the messages and contributions of this module's cores whose last bytes the partner has not
acknowledged. -/
structure Port where
  state : PortState := .down
  use : PortUse := .unused
  cage : Cage := .empty
  present : Bool := false
  powered : Bool := false
  watts : Nat := 0
  app400 : Bool := false
  resetL : Bool := false
  lpMode : Bool := true
  intL : Bool := true
  appLanes : Nat := 0
  dataPath : Bool := false
  peer : BitVec 15 := 0
  peerv : Bool := false
  peerport : BitVec 4 := 0
  pkind : BitVec 1 := 0
  lanes : BitVec 4 := 0
  lanefail : BitVec 4 := 0
  deadLanes : BitVec 4 := 0
  fec : Bool := false
  heard : Bool := false
  partnerAck : Bool := false
  ackSent : Bool := false
  hello : Option Hello := none
  txseq : BitVec 12 := 0
  rxseq : BitVec 12 := 0
  got : Bool := false
  ackDue : Bool := false
  nakDue : Bool := false
  replay : List Flit := []
  resends : List Nat := []
  outq : List Flit := []
  rx : List (Nat × List Byte) := []
  rxFlits : Sparse Nat := []
  owed : Sparse Nat := []
  credits : Sparse Nat := []
  tx : List (Nat × List Byte) := []
  direct : List Packet := []
  phase : Nat := 0
  tokens : Nat := 0
  tokenAge : Nat := 0
  turn : Nat := 3
  quantum : Nat := 0
  tails : List Tail := []
  replays : W16 := 0
  uncorr : W16 := 0
  darkdisc : W16 := 0
  deriving DecidableEq, Repr

/-- The fabric (spec/09). Contexts are keyed 256 × partition + context, route-table entries by module ID. -/
structure Fabric where
  ports : Sparse Port := []
  firstbad : Byte := 0xFF
  missing : Byte := 0
  extra : Byte := 0
  routes : Sparse Byte := []
  aborts : List (BitVec 15 × W32) := []
  attachRx : List AttachRx := []
  abortNo : W32 := 0
  colls : Sparse Coll := []
  deriving DecidableEq, Repr

/-! ### Host -/

/-- A command that the T4 has accepted (spec/12 Table 12-2), whether it has started, and whether clearing EN ends it
CANCELLED. -/
structure Cmd where
  kind : Byte
  flags : Byte
  part : Byte
  rsv : List Byte
  seq : W64
  args : List Byte
  started : Bool := false
  cancel : Bool := false
  deriving DecidableEq, Repr

/-- HQ_Q_q_STATUS.STATE (spec/12 Table 12-13). -/
inductive QState where
  | disabled | running | stopped
  deriving DecidableEq, Repr

/-- A command queue (spec/12 R436 to R440). -/
structure Queue where
  base : W64 := 0
  jbase : W64 := 0
  vector : Byte := 0
  func : BitVec 5 := 0
  ahead : BitVec 4 := 0
  logsz : BitVec 4 := 0
  en : Bool := false
  nextseq : W64 := 0
  tail : W16 := 0
  jhead : BitVec 17 := 0
  head : W16 := 0
  jtail : BitVec 17 := 0
  jwrap : Bool := false
  jcount : Nat := 0
  seqerr : Bool := false
  state : QState := .disabled
  accepted : List Cmd := []
  records : List (List Byte) := []
  done : Option W64 := none
  energy : W64 := 0
  deriving DecidableEq, Repr

/-- A function's event ring, mailbox and BAR window (spec/12 R449 to R452, Table 12-14). -/
structure Func where
  evBase : W64 := 0
  evVector : Byte := 0
  elog : BitVec 5 := 0
  evHead : W16 := 0
  evTail : W16 := 0
  evWrap : Bool := false
  evCount : Nat := 0
  lost : W32 := 0
  accept : BitVec 256 := 0
  inForce : BitVec 256 := 0
  mstate : BitVec 2 := 0
  wbase : W64 := 0
  deriving DecidableEq, Repr

/-- A posted write of the T4 to the host: bytes at an address with the Relaxed Ordering attribute, or an MSI-X message
(spec/12 R432, R435, R440). -/
inductive HostWrite where
  | bytes (addr : Nat) (bs : List Byte) (relaxed : Bool)
  | msix (f v : Nat)
  deriving DecidableEq, Repr

/-- The host interface (spec/12). `linkOn` tells that the surveyor has enabled the link (spec/01 R35), `ero` is the host's
Enable Relaxed Ordering bit (R435). `mem` is the host's memory as the T4 sees it, `msix` the messages sent, `relaxedAt` the
addresses of the writes sent with the Relaxed Ordering attribute. -/
structure HostIf where
  linkOn : Bool := false
  linkUp : Bool := false
  ero : Bool := true
  relaxedAt : List Nat := []
  heldWrites : List HostWrite := []
  queues : Sparse Queue := []
  funcs : Sparse Func := []
  wlog : BitVec 6 := 30
  numVfs : Nat := 0
  msix : List (Nat × Nat) := []
  mem : Memory := []
  deriving DecidableEq, Repr

/-! ### Reset, backup domain, surveyor -/

/-- BKP_LOG_n (spec/13 Table 13-5). -/
structure LogEpisode where
  seq : W32 := 0
  defer : W16 := 0
  incomplete : Bool := false
  start : BitVec 2 := 0
  causes : BitVec 5 := 0
  tick : W64 := 0
  deriving DecidableEq, Repr

/-- The crash record (spec/13 Table 13-3); `written` tells that it holds a record, delivered or not, `no` its number. -/
structure Crash where
  written : Bool := false
  valid : Bool := false
  code : Byte := 0
  cause : Byte := 0
  count : Byte := 0
  core : W16 := 0
  part : Byte := 0
  step : W32 := 0
  fwver : W32 := 0
  tick : W64 := 0
  detail : W64 := 0
  no : Nat := 0
  deriving DecidableEq, Repr

/-- The backup domain (spec/13 Table 13-4, Table 13-6). -/
structure Backup where
  lost : Bool := true
  cold : W32 := 0
  warm : W32 := 0
  uncorr : W32 := 0
  thermal : W32 := 0
  wdog : W32 := 0
  logHead : BitVec 5 := 0
  seq : W32 := 0
  log : Sparse LogEpisode := []
  poison : List W64 := []
  poisonOvf : Bool := false
  crash : Crash := {}
  start : Byte := 0
  fuseShadow : Bool := false
  deriving DecidableEq, Repr

/-- A physical position: sheet, physical column 0 to 39, position 0 to 41 from the north (spec/06 R222). -/
structure Position where
  sheet : Nat
  col : Nat
  pos : Nat
  deriving DecidableEq, Repr

/-- A field fault history entry (spec/15, "Field service"): the block, the physical position of a core, the fault code
when the spec names one; for a retirement the page (spec/07 R275). -/
structure HistEntry where
  block : Block
  place : Option Position
  code : Option Byte
  tick : W64
  quarantine : Bool
  page : Option Nat := none
  deriving DecidableEq, Repr

/-- MRAM contents (spec/13, "NV writes and supply sag"; spec/15 R522, R523). -/
structure Mram where
  imageA : Option Image := none
  imageB : Option Image := none
  svnFused : Nat := 0
  trained : List Int := []
  history : List HistEntry := []
  pagesRetired : List Nat := []
  insets : List Position := []
  deriving DecidableEq, Repr

/-- Reset and start (spec/13, spec/01 R25 to R29). `islandOn` tells V3A above 3.0 V; `vinLow` VIN below 38.0 V and not
yet above 40.0 V again; `vbkLow` VBK below 2.7 V. `nvPulse` tells that an NV pulse is in progress, `nvCommit` that it is its record's commit pulse; `nvCur`
is what the MRAM holds once the record in progress is committed, `nvWant` what the surveyor has still to write (R463, R466).
`epEntry` tells that the latest episode has its log entry, `islandTemp`
the island's latest sensor reading. -/
structure Rst where
  islandOn : Bool := true
  vinLow : Bool := false
  vbkLow : Bool := false
  pwrgd : Bool := true
  pll : Bool := true
  holdover : Bool := false
  powerOn : Bool := false
  inReset : Bool := false
  resetNDrive : Bool := false
  tripDrive : Bool := false
  nvPulse : Bool := false
  nvCommit : Bool := false
  nvCur : Option Mram := none
  deferred : Bool := false
  nvblk : Bool := false
  nvRaised : Bool := false
  nvWant : Option Mram := none
  episodeOn : Bool := false
  episodeColdStart : Bool := false
  epPowerOn : Bool := true
  epIncomplete : Bool := false
  epEntry : Bool := true
  islandTemp : Int := 0
  phase : BitVec 4 := 0
  kind : BitVec 2 := 0
  deriving DecidableEq, Repr

/-- The surveyor, position and management endpoints (spec/15). `causes` holds the fault code of a pending quarantine that a fault
brought. -/
structure Surveyor where
  pairStopped : Bool := false
  slot : BitVec 3 := 0
  slotBad : Bool := false
  chainCnt : BitVec 4 := 0
  chainBad : Bool := false
  chainMoved : Bool := false
  chainOut : Nat := 0
  straps : BitVec 3 := 0
  eepromDue : Bool := true
  lValid : Bool := false
  lSlotBad : Bool := false
  lModid : BitVec 15 := 0
  lEepromBad : Bool := false
  lRack : BitVec 9 := 0
  lStraps : BitVec 3 := 0
  lSlot : BitVec 3 := 0
  idrom : Memory := []
  idoff : BitVec 12 := 0
  smbAddr : Option (BitVec 7) := none
  smbAlert : Bool := false
  eid : Option Byte := none
  spdmAlg : Bool := false
  nonceNo : Nat := 0
  nonceOk : Bool := false
  poisonDue : Bool := false
  dbgLevel : BitVec 2 := 0
  romAgent : Bool := false
  booted : Option Image := none
  image : Bool := false
  fwver : W32 := 0
  svn : Byte := 0
  portout : BitVec 12 := 0
  sheetout : W16 := 0
  sweep : W16 := 0
  stackout : Byte := 0
  linesExcluded : Nat := 0
  closed : List Block := []
  quarantines : List Block := []
  causes : List (Block × Byte) := []
  deriving DecidableEq, Repr

/-- What the T4 answers outside its registers and memories: MODEL (outputs, the latest last). -/
inductive Response where
  | smbus (bytes : List Byte)
  | mctp (bytes : List Byte)
  | spdm (bytes : List Byte)
  | pldm (bytes : List Byte)
  | pldmBusy
  | identityInvalid
  | stackMismatch (n : Nat)
  | refused
  | bar (f : Nat) (bytes : Option (List Byte))
  deriving DecidableEq, Repr

/-- The module. `justSet` holds, by the offset of an 8-byte slot of control space, the W1C bits that hardware has set and the
RW1S bits that software has set in this cycle of the management clock (spec/00 R12, spec/16 R535). -/
structure State where
  pending : List Instr
  now : Nat
  justSet : Sparse W64
  net : List Packet
  notices : List PType
  responses : List Response
  cores : Sparse Core
  wps : Sparse Waypoint
  inks : Sparse InkCore
  subs : List Sub
  mem : Mem
  parts : Sparse Part
  mer : Meridian
  pwr : Power
  fab : Fabric
  host : HostIf
  rst : Rst
  bkp : Backup
  mram : Mram
  svr : Surveyor
  deriving DecidableEq, Repr

/-- The module right after its first power-on episode: it has left reset and the start is in phase ROM
(spec/13 R460, R471). Register values are those the spec states for reset; the log entries 1 to 10 name the rest.
Eight START_PHASE commands bring it to READY. -/
def State.reset : State where
  pending := []
  now := 0
  justSet := []
  net := []
  notices := []
  responses := []
  cores := []
  wps := []
  inks := []
  subs := []
  mem := {}
  parts := [(0, { cfg := 0xF003 })]
  mer := {}
  pwr := {}
  fab := {}
  host := {}
  rst := {}
  bkp := { seq := 1, logHead := 1, log := [(0, { seq := 1, causes := 1, tick := BitVec.allOnes 64 })] }
  mram := { imageA := some ⟨1, 0, [], []⟩, imageB := some ⟨1, 0, [], []⟩ }
  svr := { idrom := identityImage }

end Sys2Proof.Machine
end

