-- ==== Sys2Proof/Machine/Codes.lean ====
section
/-! DEFINITION. Fault codes and classes (spec/16 Table 16-12), response codes (spec/06 Table 6-3). -/

namespace Sys2Proof.Machine

/-- Fault codes (spec/16 Table 16-12). -/
inductive FCode where
  | csumAtUse | formatMismatch | datumOverflow | graticule | triCore | triChecker | triOperand
  | rangeInfo | rangeStep | shardChanged | descBounds | descFormat | isolated | waypointTimeout | linkLost
  | planMismatch | lateDropped | memUncorrectable | intSaturated | nvBlocked | powerDisagree | overlayDiverged
  | featureUnsupported | access | thermal
  deriving DecidableEq, Repr

/-- The 8-bit code. -/
def FCode.byte : FCode → Byte
  | .csumAtUse => 0x01
  | .formatMismatch => 0x02
  | .datumOverflow => 0x03
  | .graticule => 0x04
  | .triCore => 0x05
  | .triChecker => 0x06
  | .triOperand => 0x07
  | .rangeInfo => 0x08
  | .rangeStep => 0x08
  | .shardChanged => 0x09
  | .descBounds => 0x0A
  | .descFormat => 0x0B
  | .isolated => 0x0C
  | .waypointTimeout => 0x0D
  | .linkLost => 0x0E
  | .planMismatch => 0x0F
  | .lateDropped => 0x10
  | .memUncorrectable => 0x11
  | .intSaturated => 0x12
  | .nvBlocked => 0x13
  | .powerDisagree => 0x14
  | .overlayDiverged => 0x15
  | .featureUnsupported => 0x16
  | .access => 0x17
  | .thermal => 0x18

/-- Fault classes; the event record carries 0 info, 1 step, 2 job, 3 module (spec/16 R540). -/
inductive FClass where
  | info | step | job | module
  deriving DecidableEq, Repr

def FClass.byte : FClass → Byte
  | .info => 0
  | .step => 1
  | .job => 2
  | .module => 3

/-- The class of a fault (spec/16 Table 16-12). -/
def FCode.cls : FCode → FClass
  | .csumAtUse => .step
  | .formatMismatch => .job
  | .datumOverflow => .step
  | .graticule => .info
  | .triCore => .step
  | .triChecker => .info
  | .triOperand => .step
  | .rangeInfo => .info
  | .rangeStep => .step
  | .shardChanged => .job
  | .descBounds => .job
  | .descFormat => .job
  | .isolated => .job
  | .waypointTimeout => .job
  | .linkLost => .job
  | .planMismatch => .job
  | .lateDropped => .info
  | .memUncorrectable => .module
  | .intSaturated => .info
  | .nvBlocked => .info
  | .powerDisagree => .info
  | .overlayDiverged => .job
  | .featureUnsupported => .job
  | .access => .job
  | .thermal => .module

/-- Response codes (spec/06 Table 6-3). -/
def rcOk : Byte := 0x00
def rcBounds : Byte := 0x01
def rcNone : Byte := 0x02
def rcFull : Byte := 0x03
def rcIsolated : Byte := 0x04
def rcInkhold : Byte := 0x05
def rcAccess : Byte := 0x06
def rcPoison : Byte := 0x07
def rcCancel : Byte := 0x08

end Sys2Proof.Machine
end

