-- ==== Sys2Proof/Config.lean ====
section
/-! DEFINITION. What the spec leaves to the part: free values, constants without a body.
No proof can see what they are, and a claim holds whatever they are. Each is named in the assumption log. -/

namespace Sys2Proof.Config

/-- Free value (spec/05 R208; log 13): whether a special function answers the upper of the two adjacent FP32
values. It depends on the function, the input and FMODE only. -/
opaque vsfUp : Nat → W32 → W32 → Bool

/-- Free value (spec/05 R213, accuracy of R208; log 13): the same choice for a division inside vupd. -/
opaque divUp : W32 → W32 → Bool

/-- Free value (spec/05 R213, accuracy of R208; log 13): the same choice for a square root inside vupd. -/
opaque sqrtUp : W32 → Bool

/-- Free value (spec/09 R338; log 97): the flits of a port's receive buffer for a class. -/
opaque classBuffer : Nat → Nat

/-- Free value (spec/11 R400; log 98): the module ID that a TREQ names when its port leads to a forwarder. -/
opaque upstream : BitVec 15

/-- Free value (spec/03 R86, R92, R128; log 90): PEMAX for a term whose floor(log2) 16 signed bits cannot hold, or is
the code of none. -/
opaque pemaxPast : Int → W16

/-- Free value (spec/13 R455; log 14): whether a RESET_N low of 100 ns to 120 ns is recognised. -/
opaque shortResetSeen : Nat → Bool

/-- Free value (spec/15 R519; log 15): the endpoint UUID. -/
opaque endpointUuid : List Byte

/-- Free value (spec/15 R521, R522; log 15): SHA-384 of a byte string. -/
opaque sha384 : List Byte → List Byte

/-- Free value (spec/15 R521; log 15): an ECDSA P-384 signature by the device key. -/
opaque sign : List Byte → List Byte

/-- Free value (spec/15 R521; log 15): the certificate chain of slot 0. -/
opaque certChain : List Byte

/-- Free value (spec/15 R525; log 15): whether a signature verifies under the debug key whose hash is fused. -/
opaque verifies : List Byte → List Byte → Bool

/-- Free value (spec/15 R525; log 15): the bytes of a fresh nonce, by its number. -/
opaque nonce : Nat → List Byte

/-- Free value (spec/13 Table 13-3; log 16): SVRPC and TRACE of a crash record, by the record's number. -/
opaque crashTrace : Nat → Nat → Byte

/-- Free value (spec/15 R521 Table 15-4; log 15): the boot ROM's bytes. -/
opaque bootRom : List Byte

/-- Free value (spec/15 R521, R516; log 15): standard-defined answers of a protocol the spec only names. -/
opaque protocolAnswer : Nat → List Byte

/-- Free value (spec/12 R449, R450; log 18): HQ_EVT_STATUS.LOST after more than 2^32 − 1 dropped records. -/
opaque lostPast : W32

/-- Free value (spec/12 Table 12-8; log 18): DETAIL of an event whose fault gives none, by code, core and tick. -/
opaque eventDetail : Nat → Nat → W64 → W64

/-- Free value (spec/08 R295; log 83): DETAIL of GRATICULE, by the bank, the epoch, the first failing row and column. -/
opaque graticuleDetail : Nat → W32 → Option Nat → Option Nat → W64

/-- Free value (spec/14 R500; log 83): DETAIL of POWER_DISAGREE, by M in 0.1 W, the estimates whose mean is Ē, in mW, and whether D
is above 0. -/
opaque disagreeDetail : Nat → List Nat → Bool → W64

/-- Free value (spec/10 R388; log 83): DETAIL of SHARD_CHANGED, by the context, the tile index, the recorded VERSION and the one
found. -/
opaque shardDetail : Nat → Nat → W32 → W32 → W64

/-- Free value (spec/11 R424; log 25): TENSOR of the overlay record of a conversion that has no descriptor: 0 mrd,
1 xacc from a bank. -/
opaque overlayTensor : Nat → W32

/-- Free value (spec/11 Table 11-3; log 30): MER_STATUS.OFFSET of an offset, in twelfths of a tick, that 32 signed bits
of picoseconds cannot hold. -/
opaque offsetPast : Int → W32

/-- Free value (spec/09 R370; log 32): VERSION of a SUM or MAX result or partial, by context and tile. -/
opaque collVersion : Nat → Nat → W32

/-- Free value (spec/09 R370; log 32): EBASE of a SUM or MAX result or partial, by context and tile. -/
opaque collEbase : Nat → Nat → W64

/-- Free value (spec/09 R370; log 32): RSTRIDE of a SUM or MAX result or partial, by context and tile. -/
opaque collRstride : Nat → Nat → W32

/-- Free value (spec/09 Table 9-6; log 32): which of several contributions to one GATHER tile index is delivered. -/
opaque gatherPick : Nat → Nat

/-- Free value (spec/09 R361; log 32): the format of the zero tile of a GATHER index without contributions. -/
opaque gatherFmt : BitVec 4

/-- Free value (spec/15 R520; log 15): what a sensor outside the model's state reads, by sensor and model time. -/
opaque sensor : Nat → Nat → Int

/-- Free value (spec/15 Table 15-4; log 15): the bytes of the fuse shadow. -/
opaque fuseShadow : List Byte

end Sys2Proof.Config
end

