-- ==== Sys2Proof/Machine/Flags.lean ====
section
/-! DEFINITION. Exact values, the number formats, and rounding with the flags it sets (spec/02 R38 to R78). -/

namespace Sys2Proof.Machine

/-- An exact value: NaN, an infinity, or (−1)^neg × m × 2^e. -/
inductive Num where
  | nan
  | inf (neg : Bool)
  | fin (neg : Bool) (m : Nat) (e : Int)
  deriving DecidableEq, Repr

/-- FSTAT bits (spec/02 Table 2-10). -/
def fFlushed : W32 := 1
def fOvf : W32 := 2
def fNanout : W32 := 4
def fUnder : W32 := 8
def fIsat : W32 := 16

/-- Rounding modes (spec/02 R62). -/
inductive RMode where
  | rne | rtz | sr
  deriving DecidableEq, Repr

/-- Which bin of the contour histogram an element counts in (spec/02 R80), before its binade is looked at. -/
inductive HClass where
  | nan | over | zero | under | value
  deriving DecidableEq, Repr

/-- A floating-point layout (spec/02 Table 2-2): exponent and fraction widths, bias, whether it has infinities,
whether its only NaN has an all-ones fraction, and its largest finite magnitude maxM × 2^maxE. -/
structure FloatFmt where
  ebits : Nat
  mbits : Nat
  bias : Int
  hasInf : Bool
  nanTop : Bool
  maxM : Nat
  maxE : Int
  canonNan : Nat
  deriving DecidableEq, Repr

def fpFp32 : FloatFmt := ⟨8, 23, 127, true, false, 0xFFFFFF, 104, 0x7FC00000⟩
def fpBf16 : FloatFmt := ⟨8, 7, 127, true, false, 0xFF, 120, 0x7FC0⟩
def fpFp16 : FloatFmt := ⟨5, 10, 15, true, false, 0x7FF, 5, 0x7E00⟩
def fpE4m3 : FloatFmt := ⟨4, 3, 7, false, true, 14, 5, 0x7F⟩
def fpE5m2 : FloatFmt := ⟨5, 2, 15, true, false, 7, 13, 0x7E⟩
def fpE2m1 : FloatFmt := ⟨2, 1, 1, false, false, 3, 1, 0⟩

/-- 2^k as a natural number, for an exponent difference that is not negative. -/
def pow2 (k : Int) : Nat := 2 ^ k.toNat

/-- floor(log2) of the magnitude of a finite nonzero value. -/
def flog2 (m : Nat) (e : Int) : Int := e + Nat.log2 m

/-- Whether m × 2^e is above m' × 2^e'. -/
def magLt (m' : Nat) (e' : Int) (m : Nat) (e : Int) : Bool :=
  if e' ≤ e then decide (m' < m * pow2 (e - e')) else decide (m' * pow2 (e' - e) < m)

namespace Num

/-- Sign, where NaN counts as positive. -/
def neg? : Num → Bool
  | nan => false
  | inf n => n
  | fin n _ _ => n

def isNan : Num → Bool
  | nan => true
  | _ => false

def isInf : Num → Bool
  | inf _ => true
  | _ => false

def isZero : Num → Bool
  | fin _ 0 _ => true
  | _ => false

/-- The value with the opposite sign. -/
def negate : Num → Num
  | nan => nan
  | inf n => inf (!n)
  | fin n m e => fin (!n) m e

/-- A signed integer times a power of two. -/
def ofInt (n : Int) (e : Int) : Num := fin (decide (n < 0)) n.natAbs e

/-- The signed significand of a finite value. -/
def sig : Num → Int
  | fin n m _ => if n then -(m : Int) else m
  | _ => 0

/-- The value times 2^k. -/
def scale (k : Int) : Num → Num
  | fin n m e => fin n m (e + k)
  | x => x

/-- Exact sum; an exact zero sum is −0 only when both addends are −0 (IEEE 754, spec/02 R74). -/
def add : Num → Num → Num
  | nan, _ => nan
  | _, nan => nan
  | inf a, inf b => if a = b then inf a else nan
  | inf a, fin _ _ _ => inf a
  | fin _ _ _, inf b => inf b
  | fin a m e, fin b n f =>
    let g := if e ≤ f then e else f
    let x : Int := (m * pow2 (e - g) : Nat)
    let y : Int := (n * pow2 (f - g) : Nat)
    let z := (if a then -x else x) + (if b then -y else y)
    if z = 0 then fin (a && b) 0 g else ofInt z g

/-- Exact product. -/
def mul : Num → Num → Num
  | nan, _ => nan
  | _, nan => nan
  | inf a, inf b => inf (a != b)
  | inf a, fin b n _ => if n = 0 then nan else inf (a != b)
  | fin a m _, inf b => if m = 0 then nan else inf (a != b)
  | fin a m e, fin b n f => fin (a != b) (m * n) (e + f)

/-- IEEE 754 less-than; unordered and −0 against +0 are false (spec/02 R74). -/
def lt : Num → Num → Bool
  | nan, _ => false
  | _, nan => false
  | inf a, inf b => a && !b
  | inf a, fin _ _ _ => a
  | fin _ _ _, inf b => !b
  | fin a m e, fin b n f =>
    let g := if e ≤ f then e else f
    let x : Int := (m * pow2 (e - g) : Nat)
    let y : Int := (n * pow2 (f - g) : Nat)
    decide ((if a then -x else x) < (if b then -y else y))

end Num

/-- floor and remainder of m × 2^e on the grid 2^q: the integer, and the remainder over 2^k. -/
def gridSplit (m : Nat) (e q : Int) : Nat × Nat × Nat :=
  if q ≤ e then (m * pow2 (e - q), 0, 0)
  else let k := (q - e).toNat; (m / 2 ^ k, m % 2 ^ k, k)

/-- Whether a magnitude with integer part `n` and remainder `rem` over 2^k rounds up (spec/02 R62, R64). `r` is the
random word of the element. -/
def roundsUp (mode : RMode) (r : W32) (n rem k : Nat) : Bool :=
  match mode with
  | .rne => decide (2 * rem > 2 ^ k) || (decide (2 * rem = 2 ^ k) && decide (k ≠ 0) && n % 2 == 1)
  | .rtz => false
  | .sr => decide (rem * 2 ^ 32 / 2 ^ k + r.toNat ≥ 2 ^ 32)

/-- m × 2^e rounded to an integer number of grid units 2^q. -/
def gridRound (mode : RMode) (r : W32) (m : Nat) (e q : Int) : Nat :=
  let s := gridSplit m e q
  if roundsUp mode r s.1 s.2.1 s.2.2 then s.1 + 1 else s.1

/-- RNE of a signed integer times 2^k, with the sign applied after rounding (spec/03 R93, R125), and whether any
nonzero bit was discarded. -/
def rneShift (n : Int) (k : Int) : Int × Bool :=
  let a := gridRound .rne 0 n.natAbs k 0
  let x : Int := if n < 0 then -(a : Int) else a
  (x, decide ((gridSplit n.natAbs k 0).2.1 ≠ 0))

/-- An element as written: its code, its exact value as it reads, its histogram class and the FSTAT bits it sets. -/
structure Elem where
  code : Nat
  val : Num
  cls : HClass
  flags : W32
  deriving DecidableEq, Repr

/-- The sign bit of a layout. -/
def FloatFmt.signBit (f : FloatFmt) (neg : Bool) : Nat := if neg then 2 ^ (f.ebits + f.mbits) else 0

/-- The lowest exponent of the grid: the weight of a subnormal's least significant bit. -/
def FloatFmt.minLsb (f : FloatFmt) : Int := 1 - f.bias - f.mbits

/-- The code of a magnitude given as `n` units of 2^q on the format's own grid. -/
def FloatFmt.magCode (f : FloatFmt) (n : Nat) (q : Int) : Nat :=
  (q - f.minLsb).toNat * 2 ^ f.mbits + n

/-- The code of an infinity. -/
def FloatFmt.infCode (f : FloatFmt) : Nat := (2 ^ f.ebits - 1) * 2 ^ f.mbits

/-- The code of the largest finite magnitude. -/
def FloatFmt.maxCode (f : FloatFmt) : Nat := f.magCode f.maxM f.maxE

/-- Decodes a code (spec/02 R39, R40); with `ftz` a subnormal reads as zero of its sign (R72). -/
def FloatFmt.decode (f : FloatFmt) (ftz : Bool) (code : Nat) : Num :=
  let s := (code / 2 ^ (f.ebits + f.mbits)) % 2 == 1
  let ef := (code / 2 ^ f.mbits) % 2 ^ f.ebits
  let mf := code % 2 ^ f.mbits
  if ef = 2 ^ f.ebits - 1 ∧ f.hasInf then (if mf = 0 then .inf s else .nan)
  else if ef = 2 ^ f.ebits - 1 ∧ f.nanTop ∧ mf = 2 ^ f.mbits - 1 then .nan
  else if ef = 0 then .fin s (if ftz then 0 else mf) f.minLsb
  else .fin s (2 ^ f.mbits + mf) (ef - f.bias - f.mbits)

/-- Whether a code is subnormal. -/
def FloatFmt.isSub (f : FloatFmt) (code : Nat) : Bool :=
  (code / 2 ^ f.mbits) % 2 ^ f.ebits == 0 && code % 2 ^ f.mbits != 0

/-- A zero element: −0 becomes +0 under ZNORM (spec/02 R74, R75). -/
def FloatFmt.zero (f : FloatFmt) (znorm neg : Bool) (cls : HClass) (fl : W32) : Elem :=
  let n := neg && !znorm
  ⟨f.signBit n, .fin n 0 0, cls, fl⟩

/-- The limit of a finite overflow: ±Inf, or the largest finite magnitude (spec/02 R65, Table 2-6, R66). -/
def FloatFmt.overflow (f : FloatFmt) (mode : RMode) (neg : Bool) : Elem :=
  if f.hasInf ∧ mode ≠ .rtz then ⟨f.signBit neg + f.infCode, .inf neg, .over, fOvf⟩
  else ⟨f.signBit neg + f.maxCode, .fin neg f.maxM f.maxE, .over, fOvf⟩

/-- A finite nonzero magnitude below the overflow range, rounded on the format's grid. -/
def FloatFmt.roundFin (f : FloatFmt) (mode : RMode) (r : W32) (ftz znorm neg : Bool) (m : Nat) (e : Int) : Elem :=
  let q0 := flog2 m e - f.mbits
  let q := if q0 < f.minLsb then f.minLsb else q0
  let n := gridRound mode r m e q
  if n = 0 then f.zero znorm neg .under fUnder
  else if ftz && decide (n < 2 ^ f.mbits) then f.zero znorm neg .under (fUnder ||| fFlushed)
  else if magLt f.maxM f.maxE n q then f.overflow mode neg
  else ⟨f.signBit neg + f.magCode n q, .fin neg n q, if n < 2 ^ f.mbits then .under else .value, 0⟩

/-- Rounds an exact value once into the format (spec/02 R63 to R66, R72, R75, R77). A format without infinity counts
every magnitude above its largest as a finite overflow (R65). Under RTZ a format with infinity overflows only at
or above max + ulp (Table 2-7; DEDUCED, log 17). -/
def FloatFmt.round (f : FloatFmt) (mode : RMode) (r : W32) (ftz znorm : Bool) : Num → Elem
  | .nan => ⟨f.canonNan, .nan, .nan, fNanout⟩
  | .inf neg =>
    if f.hasInf then ⟨f.signBit neg + f.infCode, .inf neg, .over, 0⟩ else ⟨f.canonNan, .nan, .nan, fNanout⟩
  | .fin neg m e =>
    if m = 0 then f.zero znorm neg .zero 0
    else if !f.hasInf && magLt f.maxM f.maxE m e then f.overflow mode neg
    else if f.hasInf && decide (flog2 m e > f.maxE + f.mbits) then f.overflow mode neg
    else f.roundFin mode r ftz znorm neg m e

/-- Rounds an exact value to an integer of `w` bits, saturating (spec/02 R65, R77, R542). -/
def roundInt (w : Nat) (mode : RMode) (r : W32) (x : Num) : Elem :=
  let hi : Int := 2 ^ (w - 1) - 1
  let lo : Int := -(2 ^ (w - 1))
  let enc (n : Int) (c : HClass) (fl : W32) : Elem := ⟨(n % (2 ^ w : Nat)).toNat, .ofInt n 0, c, fl⟩
  match x with
  | .nan => enc 0 .nan fNanout
  | .inf neg => enc (if neg then lo else hi) .over fOvf
  | .fin neg m e =>
    if m = 0 then enc 0 .zero 0
    else if magLt (if neg then lo.natAbs else hi.natAbs) 0 m e then enc (if neg then lo else hi) .over fOvf
    else
      let n : Int := gridRound mode r m e 0
      if n = 0 then enc 0 .under fUnder else enc (if neg then -n else n) .value 0

/-- A long-partial element of `w` bits from an exact value on the grid 2^d (spec/03 R123 to R126): RNE whatever the
mode; `cls` over with fOvf when it lies beyond the finite range. -/
def roundLong (w : Nat) (d : Int) (x : Num) : Elem :=
  let hi : Int := 2 ^ (w - 1) - 1
  let lo : Int := -(2 ^ (w - 1)) + 3
  let enc (n : Int) : Nat := (n % (2 ^ w : Nat)).toNat
  match x with
  | .nan => ⟨2 ^ (w - 1), .nan, .nan, fNanout⟩
  | .inf true => ⟨2 ^ (w - 1) + 1, .inf true, .over, 0⟩
  | .inf false => ⟨2 ^ (w - 1) + 2, .inf false, .over, 0⟩
  | .fin neg m e =>
    let a := gridRound .rne 0 m e d
    let n : Int := if neg then -(a : Int) else a
    if m = 0 then ⟨0, .fin false 0 d, .zero, 0⟩
    else if n > hi then ⟨enc hi, .ofInt hi d, .over, fOvf⟩
    else if n < lo then ⟨enc lo, .ofInt lo d, .over, fOvf⟩
    else if n = 0 then ⟨0, .fin false 0 d, .under, fUnder⟩
    else ⟨enc n, .ofInt n d, .value, 0⟩

/-- FP32 lanes: read with FTZ applied. -/
def fp32In (ftz : Bool) (x : W32) : Num := fpFp32.decode ftz x.toNat

/-- FP32 lanes: a vector result, RNE, with the code and the FLUSHED bit (spec/05 R206). -/
def fp32Out (ftz znorm : Bool) (x : Num) : W32 × W32 :=
  let e := fpFp32.round .rne 0 ftz znorm x
  (BitVec.ofNat 32 e.code, e.flags &&& fFlushed)

/-- A signed number of `w` bits. -/
def sInt {w : Nat} (x : BitVec w) : Int := x.toInt

/-- A datum clamped to −32,768 to 32,767 (spec/03 R106). -/
def clampDatum (d : Int) : W16 := BitVec.ofInt 16 (if d < -32768 then -32768 else if d > 32767 then 32767 else d)

/-- ceil(log2 n) for n ≥ 1. -/
def clog2 (n : Nat) : Int := if n ≤ 1 then 0 else Nat.log2 (n - 1) + 1

end Sys2Proof.Machine
end

