-- ==== Sys2Proof/Machine/Operands.lean ====
section
/-! DEFINITION. Tiles as operands and results: format codes, payload lengths, cartouches, the check at use, element
decoding and the writing of elements with scale bars (spec/02 R38 to R66, spec/04 R134, R144 to R146). -/

namespace Sys2Proof.Machine

/-! ### Format codes (spec/02 Table 2-1) -/

/-- Element width in bits; none for a reserved code. -/
def elemBits (fmt : BitVec 4) : Option Nat :=
  match fmt.toNat with
  | 0 => some 32
  | 1 => some 16
  | 2 => some 16
  | 3 => some 8
  | 4 => some 8
  | 5 => some 8
  | 6 => some 8
  | 7 => some 8
  | 8 => some 4
  | 9 => some 8
  | 10 => some 32
  | 11 => some 128
  | 12 => some 64
  | 13 => some 32
  | _ => none

def fmtFp32 : BitVec 4 := 0x0
def fmtI8 : BitVec 4 := 0x9
def fmtLp128 : BitVec 4 := 0xB

/-- Whether a code names a block-scaled format. -/
def blockScaled (fmt : BitVec 4) : Bool := decide (5 ≤ fmt.toNat) && decide (fmt.toNat ≤ 8)

/-- Whether a code names a long partial. -/
def isLong (fmt : BitVec 4) : Bool := decide (11 ≤ fmt.toNat) && decide (fmt.toNat ≤ 13)

/-- The block size a 2-bit code names (spec/02 R48). -/
def blockSize (b : BitVec 2) : Nat := 16 * 2 ^ b.toNat

/-- The layout of a floating-point format's elements. -/
def floatFmt (fmt : BitVec 4) : Option FloatFmt :=
  match fmt.toNat with
  | 0 => some fpFp32
  | 1 => some fpBf16
  | 2 => some fpFp16
  | 3 => some fpE4m3
  | 4 => some fpE5m2
  | 5 => some fpE4m3
  | 6 => some fpE5m2
  | 8 => some fpE2m1
  | _ => none

/-- PLEN (spec/02 R43); none for a reserved code. -/
def plenOf (fmt : BitVec 4) (rows cols : Nat) (bsize : BitVec 2) : Option Nat :=
  (elemBits fmt).map fun w =>
    rows * cols * w / 8 + if blockScaled fmt then rows * cols / blockSize bsize else 0

/-- A length rounded up to a multiple of 64. -/
def up64 (n : Nat) : Nat := (n + 63) / 64 * 64

/-- The capacity of a descriptor (spec/04 R146). -/
def capacity (d : Desc) : Option Nat :=
  (plenOf d.fmt d.rows.toNat d.cols.toNat d.bsize).map fun p => up64 (64 + p)

/-- R44: the descriptor of a conversion or store is malformed. -/
def badOutput (d : Desc) : Bool :=
  (blockScaled d.fmt && d.cols.toNat % blockSize d.bsize != 0)
  || match plenOf d.fmt d.rows.toNat d.cols.toNat d.bsize with
     | none => true
     | some p => decide (4096 < p)

/-! ### Cartouches (spec/02 Table 2-4) -/

/-- A cartouche's fields. -/
structure Cart where
  ver : BitVec 4
  fmt : BitVec 4
  pencil : Bool
  survey : Bool
  bsize : BitVec 2
  nan : Bool
  pinf : Bool
  ninf : Bool
  rows : W16
  cols : W16
  plen : W16
  exphi : W16
  explo : W16
  pcrc : W32
  version : W32
  tensor : W32
  step : W32
  epoch : W32
  core : W16
  module : BitVec 15
  datum : W16
  ebase : W64
  rstride : W32
  tcoord : W32
  hcrc : W32
  deriving DecidableEq, Repr

/-- The number in bytes `a` to `a + n − 1` of a list. -/
def field (bs : List Byte) (a n : Nat) : Nat := leNat ((bs.drop a).take n)

/-- Reads a cartouche from its 64 bytes. -/
def Cart.parse (bs : List Byte) : Cart :=
  let f0 := field bs 0 1
  let f1 := field bs 1 1
  { ver := BitVec.ofNat 4 (f0 / 16), fmt := BitVec.ofNat 4 f0
    pencil := f1.testBit 7, survey := f1.testBit 6, bsize := BitVec.ofNat 2 (f1 / 16)
    nan := f1.testBit 3, pinf := f1.testBit 2, ninf := f1.testBit 1
    rows := BitVec.ofNat 16 (field bs 2 2), cols := BitVec.ofNat 16 (field bs 4 2)
    plen := BitVec.ofNat 16 (field bs 6 2), exphi := BitVec.ofNat 16 (field bs 8 2)
    explo := BitVec.ofNat 16 (field bs 10 2), pcrc := BitVec.ofNat 32 (field bs 0x0C 4)
    version := BitVec.ofNat 32 (field bs 0x10 4), tensor := BitVec.ofNat 32 (field bs 0x14 4)
    step := BitVec.ofNat 32 (field bs 0x18 4), epoch := BitVec.ofNat 32 (field bs 0x1C 4)
    core := BitVec.ofNat 16 (field bs 0x20 2), module := BitVec.ofNat 15 (field bs 0x22 2)
    datum := BitVec.ofNat 16 (field bs 0x24 2), ebase := BitVec.ofNat 64 (field bs 0x28 8)
    rstride := BitVec.ofNat 32 (field bs 0x30 4), tcoord := BitVec.ofNat 32 (field bs 0x34 4)
    hcrc := BitVec.ofNat 32 (field bs 0x3C 4) }

/-- The FLAGS byte (spec/02 Table 2-5). -/
def Cart.flagsByte (c : Cart) : Nat :=
  (if c.pencil then 128 else 0) + (if c.survey then 64 else 0) + 16 * c.bsize.toNat
  + (if c.nan then 8 else 0) + (if c.pinf then 4 else 0) + (if c.ninf then 2 else 0)

/-- Bytes 0x00 to 0x3B. -/
def Cart.body (c : Cart) : List Byte :=
  leBytes 1 (16 * c.ver.toNat + c.fmt.toNat) ++ leBytes 1 c.flagsByte ++ leBytes 2 c.rows.toNat
  ++ leBytes 2 c.cols.toNat ++ leBytes 2 c.plen.toNat ++ leBytes 2 c.exphi.toNat ++ leBytes 2 c.explo.toNat
  ++ leBytes 4 c.pcrc.toNat ++ leBytes 4 c.version.toNat ++ leBytes 4 c.tensor.toNat ++ leBytes 4 c.step.toNat
  ++ leBytes 4 c.epoch.toNat ++ leBytes 2 c.core.toNat ++ leBytes 2 c.module.toNat ++ leBytes 2 c.datum.toNat
  ++ leBytes 2 0 ++ leBytes 8 c.ebase.toNat ++ leBytes 4 c.rstride.toNat ++ leBytes 4 c.tcoord.toNat ++ leBytes 4 0

/-- HCRC of cartouche bytes, with FLAGS[7] taken as 0 (spec/02 Table 2-4). -/
def hcrcOf (bs : List Byte) : W32 :=
  crc32c ((bs.take 60).mapIdx fun i b => if i = 1 then b &&& 0x7F else b)

/-- The 64 bytes of a cartouche, HCRC computed. -/
def Cart.bytes (c : Cart) : List Byte := c.body ++ leBytes 4 (hcrcOf c.body).toNat

/-- Whether cartouche bytes carry the HCRC of their contents. -/
def hcrcOk (bs : List Byte) : Bool := decide (field bs 0x3C 4 = (hcrcOf bs).toNat)

/-- R61 step 2. -/
def shapeOk (c : Cart) : Bool :=
  c.ver == 1 && c.rows != 0 && c.cols != 0
  && (!blockScaled c.fmt || c.cols.toNat % blockSize c.bsize == 0)
  && match plenOf c.fmt c.rows.toNat c.cols.toNat c.bsize with
     | none => false
     | some p => decide (c.plen.toNat = p) && decide (p ≤ 4096)

/-- The check at use (spec/02 R61): the first failure in order. `need` is the format the instruction requires.
`crc` is the CRC of the payload as it stands. -/
def useCheck (cart : List Byte) (need : Option (BitVec 4)) (crc : Nat → W32) : Option FCode :=
  let c := Cart.parse cart
  if !hcrcOk cart then some .csumAtUse
  else if !shapeOk c then some .formatMismatch
  else if need.any (· != c.fmt) then some .formatMismatch
  else if crc c.plen.toNat != c.pcrc then some .csumAtUse
  else none

/-! ### Elements -/

/-- Element codes of `n` elements of `w` bytes each. -/
def wideCodes (w : Nat) : Nat → List Byte → List Nat
  | 0, _ => []
  | n + 1, bs => leNat (bs.take w) :: wideCodes w n (bs.drop w)

/-- Element codes in row-major order (spec/02 R42). -/
def elemCodes (fmt : BitVec 4) (n : Nat) (payload : List Byte) : List Nat :=
  match elemBits fmt with
  | none => []
  | some 4 => ((payload.take ((n + 1) / 2)).flatMap fun b => [b.toNat % 16, b.toNat / 16]).take n
  | some w => wideCodes (w / 8) n payload

/-- An element's value without its scale bar; `d` is the tile's datum (spec/02 R39, R41; spec/03 R123). -/
def elemVal (fmt : BitVec 4) (ftz : Bool) (d : Int) (code : Nat) : Num :=
  match floatFmt fmt with
  | some f => f.decode ftz code
  | none =>
    let w := (elemBits fmt).getD 8
    let n : Int := (BitVec.ofNat w code).toInt
    if fmt = 7 then .ofInt n (-6)
    else if isLong fmt then
      if code = 2 ^ (w - 1) then .nan
      else if code = 2 ^ (w - 1) + 1 then .inf true
      else if code = 2 ^ (w - 1) + 2 then .inf false
      else .ofInt n d
    else .ofInt n 0

/-- A value under a scale bar (spec/02 R46). -/
def scaled (c : Nat) (x : Num) : Num := if c = 0xFF then .nan else x.scale ((c : Int) - 127)

/-- Whether a code is a subnormal element (spec/02 R72: judged on the element encoding). -/
def elemSub (fmt : BitVec 4) (code : Nat) : Bool :=
  match floatFmt fmt with
  | some f => f.isSub code
  | none => false

/-- The decoded elements of a tile in row-major order, and whether FTZ flushed one (spec/02 R72, R88). -/
def decodeTile (ftz : Bool) (c : Cart) (payload : List Byte) : List Num × Bool :=
  let n := c.rows.toNat * c.cols.toNat
  let codes := elemCodes c.fmt n payload
  let vals := codes.map (elemVal c.fmt ftz (sInt c.datum))
  let sub := ftz && codes.any (elemSub c.fmt)
  if blockScaled c.fmt then
    let b := blockSize c.bsize
    let scales := (payload.drop (c.plen.toNat - n / b)).map BitVec.toNat
    (vals.mapIdx fun i x => scaled (scales.getD (i / b) 0xFF) x, sub)
  else (vals, sub)

/-- Splits a row-major list into rows of `w`. -/
def rowsOf (w : Nat) : Nat → List Num → List (List Num)
  | 0, _ => []
  | n + 1, xs => xs.take w :: rowsOf w n (xs.drop w)

/-- Packs nibbles into bytes (spec/02 R42). -/
def packNibbles : List Nat → List Byte
  | a :: b :: r => BitVec.ofNat 8 (a % 16 + 16 * (b % 16)) :: packNibbles r
  | [a] => [BitVec.ofNat 8 (a % 16)]
  | [] => []

/-- How a conversion rounds: mode, FTZ, ZNORM, and the target datum of a long partial. -/
structure Rounding where
  mode : RMode
  ftz : Bool
  znorm : Bool
  datum : Int
  deriving DecidableEq, Repr

/-- One element of a format that is not block-scaled. -/
def writeElem (fmt : BitVec 4) (o : Rounding) (r : W32) (x : Num) : Elem :=
  match floatFmt fmt with
  | some f => f.round o.mode r o.ftz o.znorm x
  | none => if isLong fmt then roundLong ((elemBits fmt).getD 64) o.datum x else roundInt ((elemBits fmt).getD 8) o.mode r x

/-- An SB8-I8 element after scaling: an integer in units of 2^−6 (spec/02 R41). -/
def writeI8Scaled (o : Rounding) (r : W32) : Num → Elem
  | .fin neg m e =>
    let n := gridRound o.mode r m e (-6)
    if m = 0 then ⟨0, .fin false 0 0, .zero, 0⟩
    else if n = 0 then ⟨0, .fin false 0 0, .under, fUnder⟩
    else let k : Int := if neg then -(n : Int) else n; ⟨(k % 256).toNat, .ofInt k (-6), .value, 0⟩
  | _ => ⟨0, .nan, .nan, fNanout⟩

/-- emax and vmax of a block-scaled format, vmax as maxM × 2^maxE (spec/02, "Selection on write"). -/
def blockMax (fmt : BitVec 4) : Int × Nat × Int :=
  match fmt.toNat with
  | 5 => (8, 7, 6)
  | 6 => (15, 7, 13)
  | 7 => (0, 127, -6)
  | _ => (2, 3, 1)

/-- R49 step 2: a finite element above vmax × 2^127 counts as an infinity of its sign. -/
def tooBig (fmt : BitVec 4) : Num → Bool
  | .fin _ m e => magLt (blockMax fmt).2.1 ((blockMax fmt).2.2 + 127) m e
  | _ => false

/-- The larger magnitude of a running largest and a finite nonzero element. -/
def largerMag (acc : Option (Nat × Int)) (x : Num) : Option (Nat × Int) :=
  match x, acc with
  | .fin _ 0 _, a => a
  | .fin _ m e, none => some (m, e)
  | .fin _ m e, some (m', e') => if magLt m' e' m e then some (m, e) else some (m', e')
  | _, a => a

/-- The scale exponent X of R49 steps 3 and 4; none when there is no nonzero finite element. -/
def scaleFor (fmt : BitVec 4) (xs : List Num) : Option Int :=
  (xs.foldl largerMag none).map fun me =>
    let x0 := flog2 me.1 me.2 - (blockMax fmt).1
    let x := if magLt (blockMax fmt).2.1 (blockMax fmt).2.2 me.1 (me.2 - x0) then x0 + 1 else x0
    if x < -127 then -127 else x

/-- Writes one block (spec/02 R49): the scale code and the elements, their values as they read. -/
def writeBlock (fmt : BitVec 4) (o : Rounding) (xrs : List (Num × W32)) : Nat × List Elem :=
  let ovf : W32 := if xrs.any (fun p => tooBig fmt p.1) then fOvf else 0
  let xs := xrs.map fun p => if tooBig fmt p.1 then Num.inf p.1.neg? else p.1
  if xs.any (fun x => x.isNan || (fmt != 6 && x.isInf)) then
    (0xFF, xs.map fun _ => ⟨0, .nan, .nan, fNanout ||| ovf⟩)
  else
    let x := (scaleFor fmt xs).getD (-127)
    ((x + 127).toNat, (xs.zip (xrs.map (·.2))).map fun p =>
      let e := if fmt = 7 then writeI8Scaled o p.2 (p.1.scale (-x))
        else ((floatFmt fmt).getD fpE4m3).round o.mode p.2 o.ftz o.znorm (p.1.scale (-x))
      { e with val := e.val.scale x, flags := e.flags ||| ovf })

/-- Blocks of `b` elements, written in order; `n` bounds the number of blocks. -/
def writeBlocks (fmt : BitVec 4) (o : Rounding) (b : Nat) : Nat → List (Num × W32) → List (Nat × List Elem)
  | 0, _ => []
  | n + 1, xs => writeBlock fmt o (xs.take b) :: writeBlocks fmt o b n (xs.drop b)

/-- Writes the elements of a tile: its payload bytes and the elements (spec/02 R42, R47, R63). -/
def writeElems (fmt : BitVec 4) (bsize : BitVec 2) (o : Rounding) (xrs : List (Num × W32)) : List Byte × List Elem :=
  if blockScaled fmt then
    let b := blockSize bsize
    let bl := writeBlocks fmt o b (xrs.length / b) xrs
    let es := bl.flatMap (·.2)
    let body := if fmt = 8 then packNibbles (es.map (·.code)) else es.map fun e => BitVec.ofNat 8 e.code
    (body ++ bl.map (fun p => BitVec.ofNat 8 p.1), es)
  else
    let es := xrs.map fun p => writeElem fmt o p.2 p.1
    (es.flatMap fun e => leBytes ((elemBits fmt).getD 8 / 8) e.code, es)

/-- floor(log2 |v|) of a finite nonzero value. -/
def binade : Num → Option Int
  | .fin _ 0 _ => none
  | .fin _ m e => some (flog2 m e)
  | _ => none

/-- A bound clamped to −32,767 to 32,767 (spec/02 R56). -/
def clampBound (x : Int) : W16 := BitVec.ofInt 16 (if x < -32767 then -32767 else if x > 32767 then 32767 else x)

/-- EXPHI or EXPLO: the extreme binade of the elements under `pick`, 0x8000 for none (spec/02 R56, R57). -/
def expBound (pick : Int → Int → Int) (es : List Elem) : W16 :=
  match (es.filterMap fun e => binade e.val) with
  | [] => 0x8000
  | x :: r => clampBound (r.foldl pick x)

/-- The FSTAT bits of a conversion. -/
def elemFlags (es : List Elem) : W32 := es.foldl (fun f e => f ||| e.flags) 0

/-- The histogram bin of an element (spec/02 R80); `base` is HISTB.BASE. -/
def histBin (base : Int) (e : Elem) : Nat :=
  match e.cls with
  | .nan => 67
  | .over => 66
  | .zero => 64
  | .under =>
    match binade e.val with
    | none => 65
    | some b => if b > base + 63 then 66 else 65
  | .value =>
    match binade e.val with
    | none => 64
    | some b => if b > base + 63 then 66 else if b < base then 65 else (b - base).toNat

/-- The cartouche a conversion writes (spec/02 R54 to R57, spec/05 R189 step 7). -/
def convCart (td : Desc) (es : List Elem) (payload : List Byte) (epoch : W32) (core : W16) (module : BitVec 15)
    (datum : W16) : Cart :=
  { ver := 1, fmt := td.fmt, pencil := true, survey := td.survey
    bsize := if blockScaled td.fmt then td.bsize else 0
    nan := es.any fun e => e.val.isNan
    pinf := es.any fun e => e.val == .inf false
    ninf := es.any fun e => e.val == .inf true
    rows := td.rows, cols := td.cols, plen := BitVec.ofNat 16 payload.length
    exphi := expBound (fun a b => if a < b then b else a) es
    explo := expBound (fun a b => if b < a then b else a) es
    pcrc := crc32c payload, version := td.version, tensor := td.tensor, step := td.step, epoch := epoch
    core := core, module := module, datum := if isLong td.fmt then datum else 0
    ebase := td.ebase, rstride := td.rstride, tcoord := td.tcoord, hcrc := 0 }

/-- A tile as it lies in core store: cartouche, payload, zero padding to a multiple of 64 (spec/04 R134). -/
def tileBytes (cart payload : List Byte) : List Byte :=
  cart ++ payload ++ List.replicate (up64 payload.length - payload.length) 0

end Sys2Proof.Machine
end

