-- ==== Sys2Proof/Machine/Access.lean ====
section
/-! DEFINITION. Access to the tables of State, partitions and jobs, host memory, the event rings (spec/12 R449). -/

namespace Sys2Proof.Machine

/-! ### Tables -/

namespace State

def core (s : State) (c : CoreId) : Core := Sparse.get {} s.cores c
def updCore (s : State) (c : CoreId) (f : Core → Core) : State := { s with cores := Sparse.upd {} s.cores c f }
def part (s : State) (p : Nat) : Part := Sparse.get {} s.parts p
def updPart (s : State) (p : Nat) (f : Part → Part) : State := { s with parts := Sparse.upd {} s.parts p f }
def wp (s : State) (w : Nat) : Waypoint := Sparse.get {} s.wps w
def updWp (s : State) (w : Nat) (f : Waypoint → Waypoint) : State := { s with wps := Sparse.upd {} s.wps w f }
def ink (s : State) (c : CoreId) : InkCore := Sparse.get {} s.inks c
def updInk (s : State) (c : CoreId) (f : InkCore → InkCore) : State := { s with inks := Sparse.upd {} s.inks c f }
def queue (s : State) (q : Nat) : Queue := Sparse.get {} s.host.queues q
def updHost (s : State) (f : HostIf → HostIf) : State := { s with host := f s.host }
def updQueue (s : State) (q : Nat) (f : Queue → Queue) : State :=
  s.updHost fun h => { h with queues := Sparse.upd {} h.queues q f }
def func (s : State) (f : Nat) : Func := Sparse.get {} s.host.funcs f
def updFunc (s : State) (k : Nat) (f : Func → Func) : State :=
  s.updHost fun h => { h with funcs := Sparse.upd {} h.funcs k f }
def updFab (s : State) (f : Fabric → Fabric) : State := { s with fab := f s.fab }
def port (s : State) (n : Nat) : Port := Sparse.get {} s.fab.ports n
def updPort (s : State) (n : Nat) (f : Port → Port) : State :=
  s.updFab fun b => { b with ports := Sparse.upd {} b.ports n f }
/-- The key of context `ctx` of partition `part`. -/
def collKey (part ctx : Nat) : Nat := 256 * part + ctx
def coll (s : State) (part ctx : Nat) : Coll := Sparse.get {} s.fab.colls (collKey part ctx)
def updColl (s : State) (part ctx : Nat) (f : Coll → Coll) : State :=
  s.updFab fun b => { b with colls := Sparse.upd {} b.colls (collKey part ctx) f }
def updMem (s : State) (f : Mem → Mem) : State := { s with mem := f s.mem }
def stack (s : State) (n : Nat) : StackStat := Sparse.get {} s.mem.stackStats n
def updStack (s : State) (n : Nat) (f : StackStat → StackStat) : State :=
  s.updMem fun m => { m with stackStats := Sparse.upd {} m.stackStats n f }
def updMer (s : State) (f : Meridian → Meridian) : State := { s with mer := f s.mer }
def updPwr (s : State) (f : Power → Power) : State := { s with pwr := f s.pwr }
def updRst (s : State) (f : Rst → Rst) : State := { s with rst := f s.rst }
def updBkp (s : State) (f : Backup → Backup) : State := { s with bkp := f s.bkp }
def updSvr (s : State) (f : Surveyor → Surveyor) : State := { s with svr := f s.svr }
def respond (s : State) (r : Response) : State := { s with responses := s.responses ++ [r] }
/-- The module's ID, latched at power-on release (spec/15 R512). -/
def modId (s : State) : BitVec 15 := s.svr.lModid
/-- The meridian count. -/
def tick (s : State) : W64 := s.mer.count

end State

/-! ### Cores, sheets, partitions (spec/00 names, spec/16 R537) -/

def coreX (c : CoreId) : Nat := c % 256
def coreY (c : CoreId) : Nat := c / 256
def coreAt (x y : Nat) : CoreId := 256 * y + x

/-- Whether an ID names a logical core: x and y at most 159. -/
def coreExists (c : CoreId) : Bool := decide (coreX c < 160) && decide (coreY c < 160)

/-- Sheets are numbered 4 × row + column. -/
def sheetOf (c : CoreId) : Nat := 4 * (coreY c / 40) + coreX c / 40

/-- The north-west core of a sheet, whose router holds its waypoint and ink blocks (spec/06 R236). -/
def sheetHome (sh : Nat) : CoreId := coreAt (40 * (sh % 4)) (40 * (sh / 4))

/-- The sheet that homes a waypoint (spec/06 R236). -/
def wpHome (w : Nat) : Nat := w / 4096 % 16

/-- The north-west corner of the waypoint's home sheet. -/
def wpHomeCore (w : Nat) : CoreId := sheetHome (wpHome w)

def Part.en (p : Part) : Bool := p.cfg.getLsbD 0
def Part.steal (p : Part) : Bool := p.cfg.getLsbD 1
def cfgCol0 (v : W32) : Nat := (v >>> 8).toNat % 4
def cfgRow0 (v : W32) : Nat := (v >>> 10).toNat % 4
def cfgCol1 (v : W32) : Nat := (v >>> 12).toNat % 4
def cfgRow1 (v : W32) : Nat := (v >>> 14).toNat % 4

/-- Whether a rectangle of Table 16-11 holds a sheet. -/
def cfgHas (v : W32) (sh : Nat) : Bool :=
  decide (cfgCol0 v ≤ sh % 4) && decide (sh % 4 ≤ cfgCol1 v) && decide (cfgRow0 v ≤ sh / 4) && decide (sh / 4 ≤ cfgRow1 v)
  && decide (sh < 16)

def Part.hasSheet (p : Part) (sh : Nat) : Bool := p.en && cfgHas p.cfg sh

/-- Whether the core belongs to the partition. -/
def Part.hasCore (p : Part) (c : CoreId) : Bool := coreExists c && p.hasSheet (sheetOf c)

/-- The partition that holds a sheet; rectangles do not overlap (spec/16 R538). -/
def State.sheetPart (s : State) (sh : Nat) : Option Nat := (List.range 16).find? fun p => (s.part p).hasSheet sh

/-- The partition of a core. -/
def State.partOf (s : State) (c : CoreId) : Option Nat := if coreExists c then s.sheetPart (sheetOf c) else none

/-- The cores of a partition, by rising ID. -/
def Part.cores (p : Part) : List CoreId := (List.range 40864).filter p.hasCore

/-- Changes every core of a partition. -/
def State.updCores (s : State) (p : Part) (f : CoreId → Core → Core) : State :=
  { s with cores := Sparse.tabulate {} 65536 fun c => if p.hasCore c then f c (s.core c) else s.core c }

/-! ### Features (spec/12 R452, Table 12-9) -/

/-- Bits 0 to 10, and 11 on a part whose permitted step is F0 (grade A, spec/01 R36). -/
def State.gradeA (s : State) : Bool := s.svr.idrom.read 0x18 == 0x41 && s.svr.idrom.read 0x19 == 0

/-- The offer of a function: nothing before READY (spec/13 R476). -/
def State.offer (s : State) (f : Nat) : BitVec 256 :=
  if s.rst.phase ≠ 8 then 0
  else if f = 0 then (if s.gradeA then 0xFFF else 0x7FF)
  else (s.func 0).inForce

/-- Whether Function 0 has accepted a feature: a feature that is not accepted behaves as absent (R453). -/
def State.feature (s : State) (k : Nat) : Bool := (s.func 0).inForce.getLsbD k

def featVf : Nat := 1
def featFabric : Nat := 2
def featBoardWin : Nat := 3
def featSteal : Nat := 4
def featOverlay : Nat := 5
def featSurvey : Nat := 6
def featFixed : Nat := 7
def featZnorm : Nat := 8
def featVariant : Nat := 9
def featReplay : Nat := 10
def featF0 : Nat := 11

/-! ### Jobs -/

/-- A route table entry (spec/09 R341) is valid. -/
def routeValid (b : Byte) : Bool := b.getLsbD 7

/-- The module IDs of the route table that are VALID. -/
def State.routedModules (s : State) : List (BitVec 15) :=
  (s.fab.routes.filter fun e => routeValid e.2).map fun e => BitVec.ofNat 15 e.1

/-- The modules of a job besides this one. -/
def State.otherModules (s : State) (p : Nat) : List (BitVec 15) :=
  match (s.part p).job with
  | some j => if j.modules ≤ 1 then [] else s.routedModules.filter (· != s.modId)
  | none => []

/-- Whether a module belongs to the plan of the partition's job. -/
def State.inPlan (s : State) (p : Nat) (m : BitVec 15) : Bool := m == s.modId || (s.otherModules p).contains m

/-- The partition whose job has the given module in its plan, this module excepted. -/
def State.partOfModule (s : State) (m : BitVec 15) : Option Nat :=
  (List.range 16).find? fun p => (s.otherModules p).contains m

/-- The job step number of a partition, or 0 (spec/12 Table 12-8). -/
def State.stepNo (s : State) (p : Nat) : W32 :=
  match (s.part p).running with
  | some r => r.step
  | none => 0

/-- The module with a given slot on this module's board. -/
def State.boardPeer (s : State) (slot : Nat) : BitVec 15 := BitVec.ofNat 15 (s.modId.toNat / 8 * 8 + slot % 8)
def State.slot (s : State) : Nat := s.modId.toNat % 8

/-! ### W1C bits (spec/00 R12) -/

/-- Hardware sets W1C bits, or software RW1S bits, of the slot at offset `a` of control space: both stand in their cycle. -/
def State.hwSet (s : State) (a : Nat) (bits : W64) : State := { s with justSet := Sparse.upd 0 s.justSet a fun v => v ||| bits }

/-- The ones of a clear of that slot that clear something: a bit that the other side has set in the same cycle stays set. -/
def State.clears (s : State) (a : Nat) (v : W64) : W64 := v &&& ~~~(Sparse.get 0 s.justSet a)

/-! ### Host memory (spec/12 R432) -/

/-- Sends or holds one write to the host. -/
def State.hostSend (s : State) (w : HostWrite) : State :=
  if s.host.linkUp then
    match w with
    | .bytes a bs relaxed => s.updHost fun h => { h with
        mem := h.mem.writeBytes a bs, relaxedAt := if relaxed then h.relaxedAt ++ [a] else h.relaxedAt }
    | .msix f v => s.updHost fun h => { h with msix := h.msix ++ [(f, v)] }
  else s.updHost fun h => { h with heldWrites := h.heldWrites ++ [w] }

/-- A write of a journal or event record. -/
def State.hostWrite (s : State) (a : Nat) (bs : List Byte) : State := s.hostSend (.bytes a bs false)

/-- A data write of a transfer or a return copy (R435). -/
def State.hostData (s : State) (a : Nat) (bs : List Byte) : State := s.hostSend (.bytes a bs s.host.ero)
def State.msix (s : State) (f v : Nat) : State := s.hostSend (.msix f v)

/-! ### Events (spec/12 R449, R450, Table 12-8) -/

/-- A fault to report; `module` is another module that raised it. -/
structure Event where
  code : FCode
  cls : FClass
  part : Option Nat := none
  core : Option CoreId := none
  step : W32 := 0
  count : W32 := 0
  tick : W64 := 0
  detail : W64 := 0
  module : Option (BitVec 15) := none
  deriving DecidableEq, Repr

/-- Bytes 1 to 31 of a FAULT record; byte 0 carries the ring's PHASE. -/
def Event.bytes (e : Event) (module : BitVec 15) : List Byte :=
  [e.code.byte, e.cls.byte, match e.part with | some p => BitVec.ofNat 8 p | none => 0xFF]
  ++ leBytes 2 module.toNat ++ leBytes 2 ((e.core.getD 0xFFFF) % 65536) ++ leBytes 4 e.step.toNat
  ++ leBytes 4 e.count.toNat ++ leBytes 8 e.tick.toNat ++ leBytes 8 e.detail.toNat

/-- Bytes 1 to 31 of a LOST record (log 18). -/
def lostBytes (module : BitVec 15) (count : W32) (tick : W64) : List Byte :=
  [0, 0, 0xFF] ++ leBytes 2 module.toNat ++ leBytes 2 0xFFFF ++ leBytes 4 0 ++ leBytes 4 count.toNat
  ++ leBytes 8 tick.toNat ++ leBytes 8 0

def Func.ringSize (f : Func) : Nat := 2 ^ f.elog.toNat
def Func.ringOn (f : Func) : Bool := f.elog != 0
def Func.ringRoom (f : Func) : Bool := f.ringOn && decide (f.evCount < f.ringSize)

/-- Writes one record at the ring's tail and sends its MSI-X vector. `typ` is TYPE[6:0]. -/
def State.ringPut (s : State) (k : Nat) (typ : Nat) (rest : List Byte) : State :=
  let f := s.func k
  let phase := if f.evWrap then 0 else 128
  let s := s.hostWrite (f.evBase.toNat + 32 * f.evTail.toNat) (BitVec.ofNat 8 (phase + typ) :: rest)
  let last := decide (f.evTail.toNat + 1 = f.ringSize)
  let s := s.updFunc k fun f => { f with
    evTail := if last then 0 else f.evTail + 1
    evWrap := f.evWrap != last
    evCount := f.evCount + 1 }
  s.msix k f.evVector.toNat

/-- One more lost record: past 2^32 − 1 the count is a free value (log 18). -/
def moreLost (v : W32) : W32 := if v = 0xFFFFFFFF then Config.lostPast else v + 1

/-- The LOST record, when events were lost and the ring has room (R450). -/
def State.ringLost (s : State) (k : Nat) : State :=
  let f := s.func k
  if f.lost ≠ 0 ∧ f.ringRoom then
    (s.ringPut k 2 (lostBytes s.modId f.lost s.tick)).updFunc k fun f => { f with lost := 0 }
  else s

/-- Writes an event record, or counts it as lost where the ring has no room or is disabled (R449). -/
def State.ringFault (s : State) (k : Nat) (e : Event) : State :=
  if (s.func k).ringRoom then
    let s := s.ringPut k 1 (e.bytes (e.module.getD s.modId))
    if e.cls = .job ∨ e.cls = .module then s.updSvr fun v => { v with smbAlert := true } else s
  else s.updFunc k fun f => { f with lost := moreLost f.lost }

/-- One event for one ring, with SMB_ALERT_N asserted when a record of class job or module is written
(spec/15 R518). -/
def State.ringEvent (s : State) (k : Nat) (e : Event) : State := (s.ringLost k).ringFault k e

/-- TotalVFs (R430). -/
def totalVfs : Nat := 16

/-- Whether a VF is enabled. -/
def State.vfOn (s : State) (v : Nat) : Bool := decide (1 ≤ v) && decide (v ≤ s.host.numVfs) && decide (v ≤ totalVfs)

/-- Reports a fault with its tick: Function 0's ring, and the partition VF's ring when enabled (R449). -/
def State.eventAt (s : State) (e : Event) : State :=
  let s := s.ringEvent 0 e
  match e.part with
  | some p => if s.vfOn (p + 1) then s.ringEvent (p + 1) e else s
  | none => s

/-- Reports a fault now. -/
def State.event (s : State) (e : Event) : State := s.eventAt { e with tick := s.tick }

end Sys2Proof.Machine
end

