-- ==== Sys2Proof/Machine/Episode.lean ====
section
/-! DEFINITION. Reset episodes: recognition, the log, the crash record, entry into reset
(spec/13 R454 to R469). -/

namespace Sys2Proof.Machine

/-- Source bits of BKP_LOG_n_INFO (spec/13 Table 13-5). -/
def bitPowerOn : BitVec 5 := 1
def bitPin : BitVec 5 := 2
def bitUncorr : BitVec 5 := 4
def bitThermal : BitVec 5 := 8
def bitWdog : BitVec 5 := 16

/-- A 32-bit counter, saturating. -/
def sat32 (x : W32) : W32 := if x = 0xFFFFFFFF then x else x + 1
def sat16 (x : W16) : W16 := if x = 0xFFFF then x else x + 1
def sat8 (x : Byte) : Byte := if x = 0xFF then x else x + 1

/-- The index of the entry that the current episode wrote. -/
def Backup.entryIdx (b : Backup) : Nat := (b.logHead.toNat + 31) % 32

/-- Changes the current episode's log entry. -/
def State.updEntry (s : State) (f : LogEpisode → LogEpisode) : State :=
  s.updBkp fun b => { b with log := Sparse.upd {} b.log b.entryIdx f }

/-- Whether a start is in progress: the module is out of reset and neither READY nor FAILED (R478). -/
def State.starting (s : State) : Bool := !s.rst.inReset && s.rst.phase != 8 && s.rst.phase != 15

/-- Whether the start in progress is cold, decided or, in phase ROM, as R470 will decide it (log 19). -/
def State.startingCold (s : State) : Bool :=
  s.starting && (s.rst.kind == 1 || (s.rst.kind == 0 && (s.rst.epPowerOn || s.bkp.lost || s.rst.episodeColdStart)))

/-- The meridian count at recognition, all ones when the meridian unit is not running (Table 13-4). -/
def State.episodeTick (s : State) : W64 := if s.rst.inReset then BitVec.allOnes 64 else s.tick

/-- Writes the log entry of the episode and counts its internal causes (R468). -/
def State.newEntry (s : State) (bits : BitVec 5) (tick : W64) : State :=
  let e : LogEpisode :=
    { seq := if s.bkp.seq + 1 = 0 then 1 else s.bkp.seq + 1, incomplete := s.rst.epIncomplete, causes := bits, tick := tick }
  (s.updRst fun r => { r with epEntry := true }).updBkp fun b => { b with
    seq := e.seq
    log := Sparse.put {} b.log b.logHead.toNat e
    logHead := b.logHead + 1
    poison := []
    poisonOvf := false
    uncorr := if bits &&& bitUncorr = 0 then b.uncorr else sat32 b.uncorr
    thermal := if bits &&& bitThermal = 0 then b.thermal else sat32 b.thermal
    wdog := if bits &&& bitWdog = 0 then b.wdog else sat32 b.wdog }

/-- The start of an episode: what it interrupts is noted, and an interrupted fuse load leaves the shadow's CRC
mismatched (R470, R478). -/
def State.openEpisode (s : State) (pon : Bool) : State :=
  let cut := s.starting && s.rst.phase == 3 && (s.rst.kind == 1 || !s.bkp.fuseShadow)
  let s := s.updBkp fun b => { b with fuseShadow := b.fuseShadow && !cut }
  s.updRst fun r => { r with
    episodeOn := true
    episodeColdStart := s.startingCold
    epIncomplete := s.starting
    epPowerOn := pon
    epEntry := false }

/-- A further source bit of the running episode (R468). -/
def State.addCause (s : State) (bits : BitVec 5) : State :=
  if s.rst.epEntry then s.updEntry fun e => { e with causes := e.causes ||| bits } else s

/-- Recognition of a source: a new episode with its entry, or one more bit in the entry of the episode that runs
(R461, R468). The T4 drives RESET_N low (R456, R458). -/
def State.recognise (s : State) (bits : BitVec 5) : State :=
  let pon := bits &&& bitPowerOn != 0
  let s' :=
    if s.rst.episodeOn then
      (s.addCause bits).updRst fun r => { r with epPowerOn := r.epPowerOn || pon }
    else (s.openEpisode pon).newEntry bits s.episodeTick
  s'.updRst fun r => { r with resetNDrive := true }

/-- A stack's status as an episode leaves it: in self-refresh, CECNT kept by a pin reset (R459, spec/07 Table 7-6). -/
def StackStat.inEpisode (pon : Bool) (t : StackStat) : StackStat :=
  { selfref := true, cecnt := if pon then 0 else t.cecnt }

/-- Entry into reset (R459, Table 13-2): every block but the backup domain, the MRAM and the standby island is
cleared; stacked memory survives unless the power-on source took part; wrappers reopen (R482). -/
def State.enterReset (s : State) (pon : Bool) : State :=
  { State.reset with
    pending := s.pending
    now := s.now
    responses := s.responses
    mem := { bytes := if pon then [] else s.mem.bytes
             stackStats := Sparse.tabulate {} 8 fun n => (s.stack n).inEpisode pon }
    fab := { ports := Sparse.tabulate {} 12 fun n =>
               { present := (s.port n).present, intL := (s.port n).intL, outq := (s.port n).outq } }
    host := { mem := s.host.mem, msix := s.host.msix }
    rst := { s.rst with inReset := true, deferred := false, phase := 0, kind := 0, nvWant := none }
    bkp := s.bkp
    mram := s.mram
    svr := { slot := s.svr.slot, slotBad := s.svr.slotBad, chainOut := s.svr.chainOut, straps := s.svr.straps
             eepromDue := s.svr.eepromDue, lValid := s.svr.lValid, lSlotBad := s.svr.lSlotBad, lModid := s.svr.lModid
             lEepromBad := s.svr.lEepromBad, lRack := s.svr.lRack, lStraps := s.svr.lStraps, lSlot := s.svr.lSlot
             idrom := s.svr.idrom, idoff := s.svr.idoff, smbAddr := s.svr.smbAddr, smbAlert := s.svr.smbAlert
             quarantines := s.svr.quarantines, causes := s.svr.causes, nonceNo := s.svr.nonceNo } }

/-- A pin reset after recognition: it takes effect at once, or when the NV pulse in progress ends (R464). -/
def State.pinEntry (s : State) : State :=
  if s.rst.inReset then s
  else if s.rst.nvPulse then s.updRst fun r => { r with deferred := true }
  else s.enterReset s.rst.epPowerOn

/-- The first module-class fault or watchdog expiry writes the crash record; a later one only counts (R451, R469). -/
def State.crash (s : State) (code : Byte) (bits : BitVec 5) (core : Option CoreId) (part : Option Nat)
    (detail : W64) : State :=
  s.updBkp fun b => { b with crash :=
    if b.crash.valid then { b.crash with count := sat8 b.crash.count }
    else
      { written := true, valid := true, code := code, cause := bits.setWidth 8, count := 0
        core := BitVec.ofNat 16 (core.getD 0xFFFF)
        part := match part with | some p => BitVec.ofNat 8 p | none => 0xFF
        step := match part with | some p => s.stepNo p | none => 0
        fwver := s.svr.fwver, tick := s.tick, detail := detail, no := b.crash.no + 1 } }

/-- An internal cause (R456): the crash record first, then recognition as a pin reset, while the power-on source is
released. -/
def State.internalCause (s : State) (code : Byte) (bits : BitVec 5) (core : Option CoreId) (part : Option Nat)
    (detail : W64) : State :=
  let s := s.crash code bits core part detail
  if s.rst.powerOn then s else (s.recognise bits).pinEntry

/-- What the surveyor has written or has still to write to MRAM. -/
def State.nvView (s : State) : Mram := s.rst.nvWant.getD s.mram

/-- A record takes effect with its commit pulse (R463); the thermometer field is no record. -/
def State.nvCommitted (s : State) (m : Mram) : State := { s with mram := { m with svnFused := s.mram.svnFused } }

/-- A pulse is refused: NV_BLOCKED is raised once per blocking interval (R466). -/
def State.nvRefused (s : State) : State :=
  if s.rst.nvRaised then s
  else (s.updRst fun r => { r with nvRaised := true }).event
    { code := .nvBlocked, cls := .info, detail := Config.eventDetail FCode.nvBlocked.byte.toNat 0xFFFF s.tick }

/-- Starts the payload pulse of the next record, where anything is still to be written (R463). Each record has one payload
pulse (log 103). -/
def State.nvStart (s : State) : State :=
  if { s.nvView with svnFused := s.mram.svnFused } = s.mram then s.updRst fun r => { r with nvWant := none }
  else if s.rst.nvblk then s.nvRefused
  else s.updRst fun r => { r with nvPulse := true, nvCommit := false, nvCur := r.nvWant }

/-- The surveyor writes an NV record: its pulses follow those in progress (R463 to R466). No pulse starts while an entry into
reset is deferred (R464). -/
def State.nvWrite (s : State) (f : Mram → Mram) : State :=
  if s.rst.deferred then s
  else
    let s := s.updRst fun r => { r with nvWant := some (f s.nvView) }
    if s.rst.nvPulse then s else s.nvStart

/-- The pulses that the surveyor has asked for have ended, but for those refused. Of a record whose pulse ran on into a reset
only that pulse was made. -/
def State.nvFlush (s : State) : State :=
  if !s.rst.nvPulse then s
  else
    let cur := if s.rst.nvblk || s.rst.nvWant.isNone then (if s.rst.nvCommit then s.rst.nvCur else none) else some s.nvView
    let s := match cur with | some m => s.nvCommitted m | none => s
    (s.updRst fun r => { r with nvPulse := false, nvCommit := false, nvCur := none }).nvStart

/-- Records a poisoned page in the backup domain (spec/07 R278): up to 16, each page once. -/
def Backup.addPoison (b : Backup) (page : W64) : Backup :=
  if b.poison.contains page then b
  else if b.poison.length < 16 then { b with poison := b.poison ++ [page] }
  else { b with poisonOvf := true }

/-- An uncorrectable stack error (spec/07 R277): the page is poisoned, the crash record is written and the module
pulls RESET_N. The event of the module-class fault is the one that the crash record delivers (R451; log 20). -/
def State.uncorrectable (s : State) (page : Nat) (core : Option CoreId) (part : Option Nat) : State :=
  let s := if s.mem.poisoned.contains page then s
    else (s.updMem fun m => { m with poisoned := m.poisoned ++ [page] }).updStack (page % 8) fun t =>
      { t with poison := sat8 t.poison
               retiring := s.mem.copies.any fun x => x.1 != page && x.1 % 8 == page % 8 }
  let s := s.updMem fun m => { m with copies := m.copies.filter fun x => x.1 != page }
  let addr : W64 := BitVec.ofNat 64 (4096 * page)
  (s.internalCause FCode.memUncorrectable.byte bitUncorr core part addr).updBkp fun b => b.addPoison addr

end Sys2Proof.Machine
end

