-- ==== Sys2Proof/Machine/Region.lean ====
section
/-! DEFINITION. The device address map, board windows, the region table, tile slots and cartouche slots
(spec/07 R252 to R272). -/

namespace Sys2Proof.Machine

/-- What a device address names (spec/07 Table 7-1). -/
inductive Space where
  | memory
  | window (slot : Nat)
  | store (core : CoreId) (off : Nat)
  | control (off : Nat)
  | nothing
  deriving DecidableEq, Repr

def memTop : Nat := 0x8000000000
def winBase (slot : Nat) : Nat := 0x100000000000 + slot * memTop
def storeBase (c : CoreId) : Nat := 0x200000000000 + c * 0x40000
def controlBase : Nat := 0x300000000000

/-- Decodes a device address (R252). -/
def spaceOf (a : Nat) : Space :=
  if a < memTop then .memory
  else if winBase 0 ≤ a ∧ a < winBase 8 then .window ((a - winBase 0) / memTop)
  else if storeBase 0 ≤ a ∧ a < storeBase 65536 then .store ((a - storeBase 0) / 0x40000) (a % 0x40000)
  else if controlBase ≤ a ∧ a < controlBase + 0x100000000 then .control (a - controlBase)
  else .nothing

/-- An address in the board window of the module's own slot is the local address it covers (R255). -/
def State.translate (s : State) (a : Nat) : Nat :=
  if winBase s.slot ≤ a ∧ a < winBase (s.slot + 1) then a - winBase s.slot else a

/-! ### Region table (R267, R268) -/

/-- Word 0 and word 1 of a region table entry (Table 7-5). -/
structure Region where
  w0 : W64
  w1 : W64
  deriving DecidableEq, Repr

def Region.base (r : Region) : Nat := (r.w0 >>> 12).toNat * 4096
def Region.last (r : Region) : Nat := (r.w1 >>> 12).toNat * 4096 + 4095
def Region.owner (r : Region) : Nat := (r.w0 >>> 8).toNat % 16
def Region.valid (r : Region) : Bool := r.w0.getLsbD 7
def Region.ink (r : Region) : Bool := r.w0.getLsbD 6
def Region.w (r : Region) : Bool := r.w0.getLsbD 5
def Region.r (r : Region) : Bool := r.w0.getLsbD 4

def rgnKey (p n : Nat) : Nat := 256 * p + n
def State.region (s : State) (p n : Nat) : Region := ⟨Sparse.get 0 s.mem.rgn0 (rgnKey p n), Sparse.get 0 s.mem.rgn1 (rgnKey p n)⟩

/-- Whether an entry covers `n` bytes from `a`. -/
def Region.covers (r : Region) (a n : Nat) : Bool :=
  r.valid && decide (r.base ≤ a) && decide (a + n ≤ r.last + 1)

/-- The lowest-numbered entry that covers every byte of an access (R268). -/
def State.governing (s : State) (p a n : Nat) : Option Region :=
  ((List.range 256).map (s.region p)).find? fun r => r.covers a n

/-- Whether the table lets a requester of partition `p` make an access (R268). -/
def State.permits (s : State) (p : Nat) (write : Bool) (a n : Nat) : Bool :=
  match s.governing p a n with
  | none => false
  | some r => if write then r.w && r.owner == p else r.r

/-- Whether the region table governs an address: stacked memory and board windows (R267). -/
def governed (a : Nat) : Bool :=
  match spaceOf a with
  | .memory => true
  | .window _ => true
  | _ => false

/-- Whether an access lies in an INK region: the governing entry has INK set (R267, R271). -/
def State.inkRegion (s : State) (p a n : Nat) : Bool :=
  governed a && match s.governing p a n with
  | none => false
  | some r => r.ink

/-- Whether the core-store window address names a core of the partition, wholly inside one store (R254). -/
def State.storeOk (s : State) (p : Nat) (c : CoreId) (off n : Nat) : Bool :=
  (s.part p).hasCore c && decide (off + n ≤ 0x40000)

/-- The module that a board window of another slot reaches, when the plan has one there (R255, R453). -/
def State.windowPeer (s : State) (p slot : Nat) : Option (BitVec 15) :=
  if s.feature featBoardWin && (s.otherModules p).contains (s.boardPeer slot) then some (s.boardPeer slot) else none

/-- R252 to R256 and R268 for `n` bytes at a translated address, for a core or transfer engine of partition `p`. A
range that runs from the window of another slot into the own slot starts and ends in two ranges (R253, R255).
A transfer may cross core-store windows of its partition; each byte is judged by its own window. -/
def State.accessOk (s : State) (p : Nat) (write : Bool) (a n : Nat) : Bool :=
  if n = 0 then true
  else match spaceOf a, spaceOf (a + n - 1) with
  | .memory, .memory => s.permits p write a n
  | .window k, .window j =>
    s.permits p write a n && ((List.range 8).all fun i => !(decide (k ≤ i) && decide (i ≤ j)) || (s.windowPeer p i).isSome)
  | .store c _, .store d _ => (List.range (d + 1 - c)).all fun i => (s.part p).hasCore (c + i)
  | _, _ => false

/-! ### Tile slots (R263 to R266) -/

def tileBase (v : W64) : Nat := v.toNat % 512 * 2 ^ 30
def tileSize (v : W64) : Nat := (v >>> 16).toNat % 512 * 2 ^ 30

/-- Whether a local address is a tile slot of the tile region. -/
def State.slotLocal (s : State) (a : Nat) : Bool :=
  a % 4096 == 0 && decide (tileBase s.mem.tileCfg ≤ a) && decide (a < tileBase s.mem.tileCfg + tileSize s.mem.tileCfg)

/-- The cartouche slot of a local tile slot (R263). -/
def State.cartLocal (s : State) (a : Nat) : Nat :=
  tileBase s.mem.tileCfg + tileSize s.mem.tileCfg + (a - tileBase s.mem.tileCfg) / 64

/-- Whether a translated address is a tile slot, directly or through a board window (R265). -/
def State.slotOk (s : State) (a : Nat) : Bool :=
  match spaceOf a with
  | .memory => s.slotLocal a
  | .window k => s.slotLocal (a - winBase k)
  | _ => false

/-- The cartouche slot of a tile slot (R263, R266). -/
def State.cartAddr (s : State) (a : Nat) : Nat :=
  match spaceOf a with
  | .window k => winBase k + s.cartLocal (a - winBase k)
  | _ => s.cartLocal a

/-- The stack of a local page (R257). -/
def stackOf (page : Nat) : Nat := page % 8

/-- The pages that `n` bytes from `a` touch. -/
def pagesOf (a n : Nat) : List Nat := if n = 0 then [] else (List.range ((a + n - 1) / 4096 - a / 4096 + 1)).map (a / 4096 + ·)

/-- The first poisoned page of a local range, none when the range reads clean (R277). -/
def State.poisonIn (s : State) (a n : Nat) : Option Nat := (pagesOf a n).find? fun g => s.mem.poisoned.contains g

/-- A write to a local range; bytes for a poisoned page are discarded (R277). -/
def State.memWrite (s : State) (a : Nat) (bs : List Byte) : State :=
  let kept := if (s.poisonIn a bs.length).isNone then s.mem.bytes.writeBytes a bs
    else bs.zipIdx.foldl (fun m p => if s.mem.poisoned.contains ((a + p.2) / 4096) then m else m.write (a + p.2) p.1) s.mem.bytes
  s.updMem fun m => { m with bytes := kept }

end Sys2Proof.Machine
end

