-- ==== Sys2Proof/Machine/Journal.lean ====
section
/-! DEFINITION. Journal records, the end of commands, launches, and the start and end of a STEP
(spec/12 R438 to R446, spec/11 R411). -/

namespace Sys2Proof.Machine

/-- STATUS of a COMPLETE record (spec/12 Table 12-6). -/
inductive Status where
  | ok | already | fault (c : FCode) | cancelled
  deriving DecidableEq, Repr

def Status.byte : Status → Byte
  | .ok => 0
  | .already => 1
  | .fault _ => 2
  | .cancelled => 3

def Status.code : Status → Byte
  | .fault c => c.byte
  | _ => 0

/-- Whether a completion stops its queue (R446). -/
def Status.stops : Status → Bool
  | .fault c => c.cls == .job || c.cls == .module
  | _ => false

/-- A record as it waits for journal room: byte 0 without PHASE, byte 6 the IRQ request, TICK zero
(spec/12 Table 12-5). -/
def recordBytes (typ : Nat) (st : Status) (attempts q : Nat) (irq : Bool) (seq detail : W64) : List Byte :=
  [BitVec.ofNat 8 typ, st.byte, st.code, BitVec.ofNat 8 (if attempts > 255 then 255 else attempts)]
  ++ leBytes 2 q ++ [if irq then 1 else 0, 0] ++ leBytes 8 seq.toNat ++ leBytes 8 0 ++ leBytes 8 detail.toNat

def Queue.jsize (q : Queue) : Nat := 2 ^ (q.logsz.toNat + 7)
def Queue.rsize (q : Queue) : Nat := 2 ^ (q.logsz.toNat + 6)
def Queue.jroom (q : Queue) : Nat := q.jsize - q.jcount

/-- Writes one record at the journal tail with PHASE and TICK; a COMPLETE record whose command asked for it is
followed by the MSI-X vector (R439, R440). -/
def State.recordOut (s : State) (q : Nat) (rec : List Byte) : State :=
  let u := s.queue q
  let b0 := rec.headD 0 ||| (if u.jwrap then 0 else 128)
  let irq := rec.getD 6 0 == 1
  let out := b0 :: (rec.drop 1).take 5 ++ [0, 0] ++ (rec.drop 8).take 8 ++ leBytes 8 s.tick.toNat ++ rec.drop 24
  let s := s.hostWrite (u.jbase.toNat + 32 * u.jtail.toNat) out
  let last := decide (u.jtail.toNat + 1 = u.jsize)
  let seq : W64 := BitVec.ofNat 64 (field rec 8 8)
  let s := s.updQueue q fun u => { u with
    jtail := if last then 0 else u.jtail + 1
    jwrap := u.jwrap != last
    jcount := u.jcount + 1
    done := if rec.headD 0 == 2 then some (match u.done with | some d => if d < seq then seq else d | none => seq)
            else u.done }
  if irq then s.msix u.func.toNat u.vector.toNat else s

/-- Writes the waiting records that the journal has room for, in order (R439). -/
def State.flushRecords (s : State) (q : Nat) : State :=
  let u := s.queue q
  let n := if u.jroom < u.records.length then u.jroom else u.records.length
  let s := s.updQueue q fun u => { u with records := u.records.drop n }
  (u.records.take n).foldl (fun s r => s.recordOut q r) s

/-- A record for the journal, behind those that wait. -/
def State.record (s : State) (q : Nat) (rec : List Byte) : State :=
  (s.updQueue q fun u => { u with records := u.records ++ [rec] }).flushRecords q

/-- The COMPLETE record of a command. -/
def State.complete (s : State) (q : Nat) (c : Cmd) (st : Status) (attempts : Nat) (detail : W64) : State :=
  s.record q (recordBytes 2 st attempts q (c.flags.getLsbD 0) c.seq detail)

/-- The partition that a command acts on: its PART, or that of the VF that owns the queue (R436). -/
def State.cmdPart (s : State) (q : Nat) (c : Cmd) : Nat :=
  let f := (s.queue q).func.toNat
  if f = 0 then c.part.toNat % 16 else (f - 1) % 16

/-- DETAIL of a COMPLETE record that carries no tile index: the committed step for STEP and ADVANCE (Table 12-5). -/
def State.cmdDetail (s : State) (q : Nat) (c : Cmd) : W64 :=
  if c.kind = 3 ∨ c.kind = 6 then (s.part (s.cmdPart q c)).commitStep.setWidth 64 else 0

/-- Completes every command of a list CANCELLED, in SEQ order. -/
def State.cancelAll (s : State) (q : Nat) (cs : List Cmd) : State :=
  cs.foldl (fun s c => s.complete q c .cancelled 0 (s.cmdDetail q c)) s

/-- The argument bytes that Table 12-4 lists for a kind: offset in ARGS and length. -/
def argsOf (kind : Nat) : List (Nat × Nat) :=
  match kind with
  | 1 => [(0, 8)]
  | 3 => [(0, 0x24)]
  | 4 => [(0, 8)]
  | 5 => [(0, 2), (8, 8)]
  | 6 => [(0, 4)]
  | _ => []

/-- A reserved KIND, or a reserved byte that is not zero (R446). -/
def Cmd.malformed (c : Cmd) : Bool :=
  decide (7 ≤ c.kind.toNat) || decide (2 ≤ c.flags.toNat) || decide (16 ≤ c.part.toNat) || c.rsv.any (· != 0)
  || c.args.zipIdx.any fun b => b.1 != 0 && !(argsOf c.kind.toNat).any fun u => decide (u.1 ≤ b.2) && decide (b.2 < u.1 + u.2)

/-- How a command ends that never starts. -/
def Cmd.early (c : Cmd) : Option Status :=
  if c.started then none
  else if c.cancel then some .cancelled
  else if c.malformed then some (.fault .descFormat)
  else none

/-- Ends the commands at the front of a queue that never start, up to one that may. -/
def settleList (q : Nat) : List Cmd → State → State
  | [], s => s
  | c :: rest, s =>
    match c.early with
    | none => s
    | some st =>
      settleList q rest ((s.updQueue q fun u => { u with accepted := rest }).complete q c st 0 (s.cmdDetail q c))

def State.settle (s : State) (q : Nat) : State := settleList q (s.queue q).accepted s

/-- Ends the front command of a queue: its record, and R446 when it failed with a job-class or module-class code. -/
def State.finishFront (s : State) (q : Nat) (st : Status) (attempts : Nat) (detail : W64) (mayStop : Bool) : State :=
  match (s.queue q).accepted with
  | [] => s
  | c :: rest =>
    let s := s.updQueue q fun u => { u with accepted := rest }
    let s := s.complete q c st attempts detail
    if mayStop && st.stops then
      let s := s.updQueue q fun u =>
        { u with accepted := [], state := if u.state = .disabled then .disabled else .stopped }
      s.cancelAll q rest
    else s.settle q

/-- Marks the front command started. -/
def State.startFront (s : State) (q : Nat) : State :=
  s.updQueue q fun u => { u with accepted := match u.accepted with | c :: r => { c with started := true } :: r | [] => [] }

/-- The front command of a queue when it may start as the given kind: no record of an earlier command waits (R438). -/
def State.front (s : State) (q kind : Nat) : Option Cmd :=
  let u := s.queue q
  if s.rst.inReset ∨ u.records ≠ [] then none
  else match u.accepted with
  | c :: _ => if c.started ∨ c.kind.toNat ≠ kind then none else some c
  | [] => none

/-! ### Launch (spec/11 R411) -/

/-- Whether a launch write is accepted at tick W. -/
def State.launchAccepted (s : State) (p : Nat) (tick : W64) : Bool :=
  decide (s.tick.toNat + 50000 ≤ tick.toNat) && (s.part p).lstate != .pending

/-- A launch write that is not a cancel. -/
def State.launchWrite (s : State) (p : Nat) (tick : W64) (entry : W32) : State :=
  if s.launchAccepted p tick then
    s.updPart p fun x => { x with launch := tick, lstate := .pending, entry := entry }
  else if (s.part p).lstate = .pending then (s.updPart p fun x => { x with wref := true }).hwSet (0x11008 + 0x20 * p) 4
  else s.updPart p fun x => { x with lstate := .refused }

/-! ### STEP (spec/12 R443) -/

/-- Whether `n` bytes lie within one INK region of the partition. -/
def State.inInk (s : State) (p a n : Nat) : Bool := s.inkRegion p (s.translate a) n

/-- R443 steps 1 to 3 for a STEP: how it ends at once, or none when it launches. -/
def State.stepRefusal (s : State) (p : Nat) (r : StepRun) : Option Status :=
  let x := s.part p
  let c := x.commitStep
  match x.job with
  | none => some (.fault .access)
  | some j =>
    if r.rlen ≠ 0 ∧ !s.inInk p r.rsrc.toNat r.rlen.toNat then some (.fault .access)
    else if r.step ≤ c then some .already
    else if r.step.toNat > c.toNat + 1 ∨ r.entry.toNat % 4 ≠ 0 then some (.fault .descFormat)
    else if r.tick = 0 then
      if j.modules = 1 ∧ x.lstate ≠ .pending then none else some (.fault .descFormat)
    else if s.launchAccepted p r.tick then none
    else some (.fault .descFormat)

/-- Whether a STEP's launch is what R411 refuses: the write then leaves its mark in LSTAT. -/
def State.stepLaunches (s : State) (p : Nat) (r : StepRun) : Bool :=
  (match (s.part p).job with | some j => r.tick != 0 || j.modules == 1 | none => false)
  && decide (r.step.toNat = (s.part p).commitStep.toNat + 1) && decide (r.entry.toNat % 4 = 0)

/-- Starts a STEP that waits for nothing: it writes the launch, or ends at once. True when it runs. -/
def State.stepBegin (s : State) (p : Nat) (r : StepRun) : Bool × State :=
  let tick := if r.tick = 0 then s.tick + 50000 else r.tick
  match s.stepRefusal p r with
  | none =>
    (true, (s.launchWrite p tick r.entry).updPart p fun x => { x with running := some r, voted := false, votes := [] })
  | some st =>
    let s := if st = .fault .descFormat && s.stepLaunches p r then s.launchWrite p tick r.entry else s
    (false, s.finishFront r.q st 0 ((s.part p).commitStep.setWidth 64) true)

/-- Lets the waiting STEPs of a partition proceed, in the order in which they began to wait (R443). -/
def stepsProceed (p : Nat) : List StepRun → State → State
  | [], s => s.updPart p fun x => { x with waitingSteps := [] }
  | r :: rest, s =>
    let b := s.stepBegin p r
    if b.1 then b.2.updPart p fun x => { x with waitingSteps := rest } else stepsProceed p rest b.2

/-- Whether a queue's journal holds the COMPLETE record of a command. -/
def State.recorded (s : State) (q : Nat) (seq : W64) : Bool :=
  match (s.queue q).done with
  | some d => decide (seq.toNat ≤ d.toNat)
  | none => false

/-- The waiting STEPs of a partition proceed once the STEP that ended has written its completion record (R443). -/
def State.stepsGo (s : State) (p : Nat) : State :=
  match (s.part p).ended with
  | some e =>
    if s.recorded e.1 e.2 then stepsProceed p (s.part p).waitingSteps (s.updPart p fun x => { x with ended := none }) else s
  | none => s

/-- Ends the running STEP of a partition: its record, then the waiting STEPs. -/
def State.finishStep (s : State) (p : Nat) (st : Status) (mayStop : Bool) : State :=
  match (s.part p).running with
  | none => s
  | some r =>
    let s := s.updPart p fun x => { x with running := none, ended := some (r.q, r.seq) }
    (s.finishFront r.q st r.attempts ((s.part p).commitStep.setWidth 64) mayStop).stepsGo p

end Sys2Proof.Machine
end

