-- ==== Sys2Proof/Machine/Ops.lean ====
section
/-! DEFINITION. Shared operations: core registers, core store with landing tags and pending ranges, packets, faults
and smudges, issue, the check at use and foreign inputs. -/

namespace Sys2Proof.Machine

/-- Whether two byte ranges share a 64-byte granule (spec/04 R167). -/
def overlap64 (a n b m : Nat) : Bool :=
  decide (0 < n) && decide (0 < m) && decide (a / 64 ≤ (b + m - 1) / 64) && decide (b / 64 ≤ (a + n - 1) / 64)

/-- The cause that is charged when several hold, in the order of spec/04 R174; the core's own units, which are never idle,
come last. -/
def firstCause (cs : List Nat) : Option Nat :=
  match [5, 7, 6, 4, 0, 1, 3, 2].find? cs.contains with
  | some c => some c
  | none => cs.head?

/-- The size of a core store (spec/04 R132). -/
def storeSize : Nat := 0x40000

namespace Core

/-! ### Registers (spec/04 R130) -/

def gr (k : Core) (r : Reg) : W64 := if r = 0 then 0 else Sparse.get 0 k.g r.toNat
/-- Writes to g0 are discarded. -/
def setG (k : Core) (r : Reg) (v : W64) : Core := if r = 0 then k else { k with g := Sparse.put 0 k.g r.toNat v }
def lane (k : Core) (r l : Nat) : W32 := Sparse.get 0 k.v (32 * r + l)
/-- The 32 lanes of a vector register. -/
def vr (k : Core) (r : Nat) : List W32 := (List.range 32).map (k.lane r)
/-- The lanes of `n` vector registers from `r`. -/
def vrs (k : Core) (r n : Nat) : List W32 := (List.range n).flatMap fun i => k.vr (r + i)
/-- Writes lanes from lane 0 of register `r` onward. -/
def setLanes (k : Core) (r : Nat) (xs : List W32) : Core :=
  { k with v := xs.zipIdx.foldl (fun m p => Sparse.put 0 m (32 * r + p.2) p.1) k.v }
def desc (k : Core) (t : Reg) : Desc := Sparse.get {} k.t t.toNat
def setDesc (k : Core) (t : Reg) (d : Desc) : Core := { k with t := Sparse.put {} k.t t.toNat d }
def bank (k : Core) (n : Nat) : Bank := Sparse.get {} k.banks n
def setBank (k : Core) (n : Nat) (b : Bank) : Core := { k with banks := Sparse.put {} k.banks n b }
def flag (k : Core) (f : W32) : Core := { k with ctl := { k.ctl with fstat := k.ctl.fstat ||| f } }
def ftz (k : Core) : Bool := k.ctl.fmode.getLsbD 2
def znorm (k : Core) : Bool := k.ctl.fmode.getLsbD 3
def srkey (k : Core) : W64 := k.ctl.srkeyHi ++ k.ctl.srkeyLo

/-! ### Core store (spec/04 R132, spec/07 R285 to R288) -/

def loadBytes (k : Core) (a n : Nat) : List Byte := k.store.readBytes a n

/-- Whether no 8-byte word of a range holds a double error (spec/07 R288). -/
def clean (k : Core) (a n : Nat) : Bool :=
  k.dblErr.all fun e => !(e.2 && decide (e.1 * 8 < a + n) && decide (a < e.1 * 8 + 8))

/-- The bytes a landing tag speaks for. -/
def spanOfTag (t : Tag) : Nat := 64 + up64 t.plen

/-- Writes bytes: every landing tag of a tile with a granule in the range is lost (spec/07 R286), and the words
written are stored with fresh check bits. -/
def storeBytes (k : Core) (a : Nat) (bs : List Byte) : Core :=
  { k with
    store := k.store.writeBytes a bs
    tags := k.tags.filter fun t => !overlap64 t.addr (spanOfTag t) a bs.length
    dblErr := k.dblErr.filter fun e => !(decide (e.1 * 8 < a + bs.length) && decide (a < e.1 * 8 + 8)) }

/-- Records a landing tag; the least recently used of 64 goes (spec/07 R285). -/
def putTag (k : Core) (t : Tag) : Core :=
  let ts := k.tags.filter (·.addr != t.addr) ++ [t]
  { k with tags := ts.drop (ts.length - 64) }

def tagFor (k : Core) (a plen : Nat) : Option Tag := k.tags.find? fun t => t.addr == a && t.plen == plen

/-- Writes a whole tile with its padding, and its landing tag (spec/04 R134, spec/07 R285). -/
def landTile (k : Core) (a : Nat) (cart payload : List Byte) : Core :=
  (k.storeBytes a (tileBytes cart payload)).putTag ⟨a, payload.length, crc32c payload⟩

/-! ### Pending ranges (spec/04 R167) -/

/-- Whether a tld's flight still waits for its tile. -/
def awaits (k : Core) (f : Nat) : Bool := k.remotes.any fun r => match r.use with | .tile _ g _ _ => g == f | _ => false

/-- The access whose answers fill a prefetch slot, an adapter buffer or a read of an issuing mseg, complete or not. -/
def fetchOf (k : Core) (u : RemoteUse) : Option Remote := k.remotes.find? fun r => r.use == u

/-- Whether answers of such an access are outstanding. -/
def fetching (k : Core) (u : RemoteUse) : Bool := (k.fetchOf u).any fun r => r.left != 0

/-- The idle cause of a wait on a pending range (spec/04 Table 4-22); 8 is the core's own units. -/
def pendCause (k : Core) : Owner → Nat
  | .xfer id => if k.flights.any fun f => f.id == id && f.far then 3 else 2
  | .recv _ => 1
  | .send _ => 1
  | .stage => 8
  | .defer _ => 8
  | .abuf n => if (k.fetchOf (.adapter n)).any (·.far) then 3 else 2

/-- The idle cause of a wait for one of the 16 transfer slots (R151). -/
def flightCause (k : Core) : Nat := if k.flights.any (·.far) then 3 else 2

/-- The cause that a read waits for: a pending-write range (R167). -/
def blocksRead (k : Core) (a n : Nat) : Option Nat :=
  firstCause ((k.pends.filter fun p => p.wr && overlap64 p.lo p.len a n).map fun p => k.pendCause p.owner)
/-- The cause that a write waits for: a pending range (R167). -/
def blocksWrite (k : Core) (a n : Nat) : Option Nat :=
  firstCause ((k.pends.filter fun p => overlap64 p.lo p.len a n).map fun p => k.pendCause p.owner)
def pend (k : Core) (p : Pend) : Core := { k with pends := k.pends ++ [p] }
def unpend (k : Core) (o : Owner) : Core := { k with pends := k.pends.filter (·.owner != o) }

/-- Granules of the logged operands of a read that waits for triangulation (spec/08 R306). -/
def triHeld (k : Core) (a n : Nat) : Bool :=
  k.snaps.any fun x => x.held && x.bank.clog.any fun e => e.pairs.any fun p =>
    overlap64 p.a (64 + (plenOf e.ta.fmt e.ta.rows.toNat e.ta.cols.toNat e.ta.bsize).getD 0) a n
    || overlap64 p.b (64 + (plenOf e.tb.fmt e.tb.rows.toNat e.tb.cols.toNat e.tb.bsize).getD 0) a n

/-! ### CFAULT (spec/04 R175) -/

/-- The fault that comes first in program order is kept; every other one counts. -/
def noteFault (k : Core) (code : FCode) (detail : Byte) (pc : BitVec 18) (seq : Nat) : Core :=
  let f := k.cfault
  { k with cfault :=
    if !f.valid then { valid := true, code := code.byte, count := 0, detail := detail, pc := pc, seq := seq }
    else if seq < f.seq then
      { f with code := code.byte, detail := detail, pc := pc, seq := seq, count := sat8 f.count }
    else { f with count := sat8 f.count } }

end Core

/-! ### Packets (spec/06 R225, R226, R234) -/

/-- The traffic class of a packet (spec/06 Table 6-2, spec/07 R260). `far`: it crosses the fabric. -/
def packetClass (t : PType) (far : Bool) : Nat :=
  match t with
  | .abort => 0
  | .safe => 0
  | .ink => 1
  | .smudge => 1
  | .mer => 1
  | .vote => 1
  | .warm => 2
  | .warr => 2
  | .wqry => 2
  | .wrsp => 2
  | .wdone => 2
  | .mrd => if far then 3 else 5
  | .mrdr => if far then 3 else 5
  | .mwr => if far then 3 else 5
  | .mwrr => if far then 3 else 5
  | .rsv0E => 5
  | .rsv0F => 5
  | .mrts => 4
  | .mgnt => 4
  | .mdata => 4
  | .acc => 3
  | .accrsp => 3
  | .cpart => 3
  | .cres => 3
  | .cagr => 3
  | .mgmt => 6
  | .cagd => 3
  | .crep => 3
  | .rcred => 3
  | .ovd => 6
  | .ovr => 6
  | .attach => 6

def State.send (s : State) (p : Packet) : State := { s with net := s.net ++ [p] }
def State.sendAll (s : State) (ps : List Packet) : State := { s with net := s.net ++ ps }

/-- Which of the senders that share SRC 0xFFFF a packet comes from: the block of a sheet, a transfer engine, the module's own
units; none for an answer of a memory controller, whose place a packet does not tell (log 101). -/
def endpointOf (p : Packet) : Option Nat :=
  match p.typ with
  | .wdone => some (wpHome p.wpid.toNat)
  | .ink => some (256 + (p.ext.toNat % 65536))
  | .mrd => some (131072 + p.msgid.toNat % 16)
  | .mwr => some (131072 + p.msgid.toNat % 16)
  | .mrdr => none
  | .mwrr => none
  | _ => some 65536

/-- Whether two packets come from one sender. -/
def sameSource (a b : Packet) : Bool :=
  a.src == b.src && (a.src != 0xFFFF || ((endpointOf a).isSome && endpointOf a == endpointOf b))

/-- Whether two packets share source, destination, class and channel (R234). -/
def sameFlow (a b : Packet) : Bool :=
  sameSource a b && a.smod == b.smod && a.dst == b.dst && a.edge == b.edge && a.dlocal == b.dlocal
  && (a.dlocal || a.dmod == b.dmod) && packetClass a.typ (!a.dlocal) == packetClass b.typ (!b.dlocal) && a.rsp == b.rsp

/-- Whether a packet is addressed to this module. -/
def State.forUs (s : State) (p : Packet) : Bool := p.dlocal || p.dmod == s.modId

/-- The last packet of a message or contribution of a core of this module has landed. -/
def State.settled (s : State) (p : Packet) : State :=
  if p.smod == s.modId && p.last && (p.typ == .mdata || p.typ == .acc) then
    s.updCore p.src.toNat fun k => { k with sent := k.sent.filter fun m => m.msgid != p.msgid || m.acc != (p.typ == .acc) }
  else s

/-- Arrival of a packet: one that this module sent leaves the mesh, and must be the oldest of its flow; any other
came from outside (log 22). None: it cannot arrive now. -/
def State.arrive (s : State) (p : Packet) : Option State :=
  if !s.forUs p || s.rst.inReset then none
  else if s.net.contains p then
    if (s.net.takeWhile (· != p)).any (sameFlow p) then none else some ({ s with net := s.net.erase p }.settled p)
  else some s

/-- The position beside which the transfer engines of M1 sit, and the engines' answers arrive (log 96). -/
def xferHome : CoreId := 256 * 80

/-- A packet back to the sender of `p`: an endpoint on an edge answers with SRC 0xFFFF, and a request of one, the transfer
engines, is answered to the west edge (R219, R225). -/
def State.reply (s : State) (p : Packet) (typ : PType) (code : Byte) : Packet :=
  let endpoint := decide (1 ≤ p.edge.toNat) && decide (p.edge.toNat ≤ 4)
  { typ := typ, rsp := true, edge := if p.src = 0xFFFF then 3 else 0
    dst := if p.src = 0xFFFF then BitVec.ofNat 16 xferHome else p.src, src := if endpoint then 0xFFFF else p.dst
    dlocal := p.smod == s.modId, dmod := p.smod
    smod := s.modId, chan := p.chan, code := code, msgid := p.msgid }

/-- Bytes 0x2C to 0x3F from a number. -/
def extOf (v : Nat) : BitVec 160 := BitVec.ofNat 160 v
/-- `n` bytes at header offset `o` of bytes 0x2C to 0x3F. -/
def extField (p : Packet) (o n : Nat) : Nat := (p.ext >>> ((o - 0x2C) * 8)).toNat % 2 ^ (8 * n)

/-! ### Faults of cores (spec/04 R175, Table 4-25; spec/08 R321) -/

/-- Sends a smudge of the current attempt to the partition's cores and every module of its job (spec/08 R321);
a module that has voted sends none (R327). The local copy is addressed to the partition's first sheet. -/
def State.smudgeSend (s : State) (p : Nat) : State :=
  let x := s.part p
  if x.job.isNone || x.voted then s
  else
    let pk : Packet :=
      { typ := .smudge, dst := BitVec.ofNat 16 (sheetHome (4 * cfgRow0 x.cfg + cfgCol0 x.cfg)), src := 0xFFFF
        smod := s.modId, arg := x.attempt.setWidth 32, time := s.tick + BitVec.ofNat 64 (1000 * x.smdelay.toNat)
        ext := extOf (s.stepNo p).toNat }
    s.sendAll (pk :: (s.otherModules p).map fun m => { pk with dlocal := false, dmod := m, dst := 0 })

/-- The messages asked for after `seq` whose MGNT has not come (spec/06 R227). -/
def Core.askedAfter (k : Core) (seq : Nat) : List Send :=
  k.sends.filter fun m => decide (seq < m.seq) && m.phase == .asked && !m.acc

/-- Discards what instructions after `seq` still have to do: sends, receives, transfers, remote accesses, wtests, deferred
entries, and the pending ranges of all these (Table 4-25). -/
def Core.discardAfter (k : Core) (seq : Nat) : Core :=
  let sends := k.sends.filter fun m => decide (m.seq ≤ seq)
  let recvs := k.recvs.filter fun r => decide (r.seq ≤ seq)
  let flights := k.flights.filter fun f => decide (f.seq ≤ seq)
  let defq := k.defq.filter fun e => decide (e.seq ≤ seq)
  let lent := k.lent.filter fun e => decide (e.seq ≤ seq)
  let late (p : Pend) : Bool := match p.owner with
    | .xfer id => k.flights.any (·.id == id) && !flights.any (·.id == id)
    | .recv id => !recvs.any (·.id == id)
    | .send m => !sends.any (·.msgid == m)
    | .defer id => (k.defq ++ k.lent).any (·.id == id) && !(defq ++ lent).any (·.id == id)
    | _ => false
  { k with sends := sends, recvs := recvs
           givenUp := k.givenUp ++ k.askedAfter seq
           flights := flights, defq := defq, lent := lent
           remotes := k.remotes.filter fun r => decide (r.seq ≤ seq)
           wtests := k.wtests.filter fun w => decide (w.2.2 ≤ seq)
           pends := k.pends.filter fun p => !late p }

/-- Stops a core, keeping the stop of the higher class, and discards what later instructions still have to do (Table 4-25)
and its held arrivals (spec/06 R245). -/
def Core.stop (k : Core) (r : RunState) (seq : Nat) : Core :=
  ({ k with run := if k.run = .stopJob then .stopJob else r, wait := .none, heldArrs := [] } : Core).discardAfter seq

/-- A fault of a core's instruction: CFAULT, the report, and the action of its class. `ev` is the DETAIL of the
event where the spec gives one. A job-class fault completes the partition's running STEP (log 23). -/
def State.raise (s : State) (c : CoreId) (pc : BitVec 18) (seq : Nat) (detail : Byte) (code : FCode) (cls : FClass)
    (count : W32 := 0) (ev : Option W64 := none) : State :=
  let p := s.partOf c
  let s := s.updCore c fun k => k.noteFault code detail pc seq
  let s := s.event
    { code := code, cls := cls, part := p, core := some c, count := count
      step := match p with | some p => s.stepNo p | none => 0
      detail := ev.getD (Config.eventDetail code.byte.toNat c s.tick) }
  match cls with
  | .info => s
  | .step =>
    let s := s.updCore c fun k => k.stop .stopStep seq
    match p with
    | some p => s.smudgeSend p
    | none => s
  | _ =>
    let s := s.updCore c fun k => k.stop .stopJob seq
    match p with
    | some p => s.finishStep p (.fault code) true
    | none => s

/-- A read of an instruction was answered POISON in this module: MEM_UNCORRECTABLE, of class module, stops the core as a
job-class fault does; the module's reset follows (Table 4-25, spec/07 R277). -/
def State.poisonStop (s : State) (c : CoreId) (pc : BitVec 18) (seq : Nat) (detail : Byte) : State :=
  s.updCore c fun k => (k.noteFault .memUncorrectable detail pc seq).stop .stopJob seq

/-- A fault tied to a partition's job and no instruction: the event, and the end of the running STEP by its class. -/
def State.raiseJob (s : State) (p : Nat) (core : Option CoreId) (code : FCode) (cls : FClass) (count : W32 := 0)
    (ev : Option W64 := none) : State :=
  let s := s.event
    { code := code, cls := cls, part := some p, core := core, count := count, step := s.stepNo p
      detail := ev.getD (Config.eventDetail code.byte.toNat (core.getD 0xFFFF) s.tick) }
  match cls with
  | .info => s
  | .step => s.smudgeSend p
  | _ => s.finishStep p (.fault code) true

/-- A job stops: every core of the partition stops as for a job-class fault (Table 4-25) and the fault is raised. -/
def State.stopJob (s : State) (p : Nat) (code : FCode) (ev : Option W64 := none) : State :=
  let s := s.updCores (s.part p) fun _ k => if k.run = .off then k else { k with run := .stopJob, wait := .none, heldArrs := [] }
  (s.updPart p fun x => { x with stopped := true }).raiseJob p none code .job 0 ev

/-! ### Issue (spec/04 R166, R174, R175) -/

/-- DETAIL of CFAULT for a descriptor register and a bank (spec/04 Table 4-24). -/
def dDesc (t : Reg) : Byte := t.setWidth 8
def dBank (b : Nat) : Byte := BitVec.ofNat 8 (0x10 + b)
def dChan (n : Nat) : Byte := BitVec.ofNat 8 (0x20 + n)
def dNone : Byte := 0xFF

/-- What an instruction does when it is attempted. -/
inductive Res where
  /-- It issues and the pc moves past it. -/
  | ok (s : State)
  /-- It issues and the pc moves to the target. -/
  | jump (s : State) (pc : Nat)
  /-- It waits; `cause` is the idle cause of Table 4-22, 8 for the core's own units. -/
  | stall (s : State) (cause : Nat)
  /-- It raises a fault of class step or job. -/
  | fault (s : State) (code : FCode) (detail : Byte)
  /-- As fault, with the class given (RANGE). -/
  | faultAs (s : State) (code : FCode) (cls : FClass) (detail : Byte)
  /-- Its wwait waits at the home; no pc moves (spec/04 R160). -/
  | park (s : State)

/-- The g registers that a reply still has to write, with the idle cause (spec/04 R161, spec/07 R259). -/
def Core.pendingReg (k : Core) (regs : List Reg) : Option Nat :=
  if k.wtests.any fun p => p.2.1 != 0 && regs.contains p.2.1 then some 0
  else
    firstCause ((k.remotes.filter fun r => match r.use with | .load rd _ => rd != 0 && regs.contains rd | _ => false).map
      fun r => if r.far then 3 else 2)

/-- Why a core cannot issue now: POWER, CHECK, DATUM (spec/03 R116), then a wwait, then a register (spec/04 R174). -/
def State.issueBar (s : State) (k : Core) (regs : List Reg) : Option Nat :=
  if s.pwr.hold ≠ 0 then some 5
  else if k.triHold then some 7
  else if k.repeatLeft ≠ 0 then some 6
  else if k.wait ≠ .none then some 0
  else k.pendingReg regs

/-- Whether a core issues at all. -/
def State.issues (s : State) (c : CoreId) : Bool :=
  coreExists c && !s.rst.inReset && (s.core c).run == .running && !s.svr.closed.contains (.core c)

def Core.retire (k : Core) (pc : Nat) : Core :=
  { k with pc := BitVec.ofNat 18 pc, icount := k.icount + 1, seq := k.seq + 1, stall := none, hold := none }

/-- One attempt to issue an instruction of `len` bytes that names the g registers `regs`. A core that does not issue
is left as it is; so is one held for POWER, CHECK or DATUM, whose cycles Core.cycles charges while the hold lasts. -/
def issue (c : CoreId) (len : Nat) (regs : List Reg) (f : Core → Res) (s : State) :
    Host.Outcome State Fault Refusal :=
  let k := s.core c
  if !s.issues c then .next s
  else match s.issueBar k regs with
  | some cause =>
    .next (if cause = 5 ∨ cause = 7 ∨ cause = 6 then s else s.updCore c fun k => { k with stall := some cause })
  | none =>
    match f k with
    | .ok t => .next (t.updCore c fun j => j.retire (k.pc.toNat + len))
    | .jump t pc => .next (t.updCore c fun j => j.retire pc)
    | .stall t cause => .next (t.updCore c fun j => { j with stall := some cause })
    | .fault t code detail => .next (t.raise c k.pc k.seq detail code code.cls)
    | .faultAs t code cls detail => .next (t.raise c k.pc k.seq detail code cls)
    | .park t => .next t

/-- A descriptor register field above 15, or a bank field above 3, is reserved (R137). -/
def badT (t : Reg) : Bool := decide (15 < t.toNat)
def badBank (b : Reg) : Bool := decide (3 < b.toNat)

/-! ### Own store and the check at use (spec/04 R132, R134; spec/02 R61) -/

/-- The own-store offset that an address names: a local offset or the core's own window (R132; log 24). -/
def ownOff (c : CoreId) (a : Nat) : Option Nat :=
  if a < storeSize then some a
  else if storeBase c ≤ a ∧ a < storeBase (c + 1) then some (a - storeBase c)
  else none

/-- An own-store tile address: 64-byte aligned, with room for `n` bytes (R134). The spec names no fault for an address that
is not, nor for a capacity that leaves the store; ACCESS is the model's choice (log 89). -/
def ownTile (c : CoreId) (a : W64) (n : Nat) : Option Nat :=
  match ownOff c a.toNat with
  | some o => if o % 64 = 0 ∧ o + n ≤ storeSize then some o else none
  | none => none

/-- A tile read from core store. -/
structure Tile where
  at_ : Nat
  raw : List Byte
  cart : Cart
  payload : List Byte
  deriving DecidableEq, Repr

/-- The check at use of a core-store tile (spec/02 R61, spec/07 R285, R288). A payload that would leave the store
raises ACCESS. -/
def Core.useTile (k : Core) (a : Nat) (need : Option (BitVec 4)) : Except FCode Tile :=
  if !k.clean a 64 then .error .csumAtUse
  else
    let raw := k.loadBytes a 64
    let cart := Cart.parse raw
    let plen := cart.plen.toNat
    let crc (n : Nat) : W32 := match k.tagFor a n with | some t => t.crc | none => crc32c (k.loadBytes (a + 64) n)
    match useCheck raw need crc with
    | some e => .error e
    | none =>
      if a + 64 + plen > storeSize then .error .access
      else if !k.clean (a + 64) plen then .error .csumAtUse
      else .ok ⟨a, raw, cart, k.loadBytes (a + 64) plen⟩

/-- A use of a landing tag makes it the most recent (spec/07 R285). -/
def Core.touchTag (k : Core) (a plen : Nat) : Core :=
  match k.tagFor a plen with
  | some t => { k with tags := k.tags.filter (· != t) ++ [t] }
  | none => k

/-! ### Epochs and foreign inputs (spec/08 R312 to R318) -/

/-- Whether epoch `f` covers epoch `e`, modulo 2^32 with a window of 2^31 (R318). -/
def covers (f e : W32) : Bool := decide ((f - e).toNat < 2 ^ 31)

/-- Whether an epoch lies in a range, ends included. -/
def inRange (r : W32 × W32) (e : W32) : Bool := covers e r.1 && covers r.2 e

/-- Whether an epoch lies in a dead range that the producer's ink block holds. -/
def InkCore.isDead (b : InkCore) (e : W32) : Bool := b.dead.any fun r => inRange r e

/-- Whether an epoch is inked: covered by the frontier and in no dead range (R314, R318). -/
def InkCore.inked (b : InkCore) (e : W32) : Bool := covers b.frontier e && !b.isDead e

/-- An INK packet about a producer's epoch (R317, Table 8-9). -/
def State.inkPacket (s : State) (kind : Nat) (pmod : BitVec 15) (pcore : W16) (epoch : W32) : Packet :=
  { typ := .ink, src := 0xFFFF, smod := s.modId, arg := BitVec.ofNat 32 kind, epoch := epoch
    ext := extOf (pcore.toNat + 65536 * pmod.toNat) }

/-- A QUERY of core `c` to the ink block of a producer, or to the reduction engine of a context (R316, R317). -/
def State.inkQuery (s : State) (c : W16) (pmod : BitVec 15) (pcore : W16) (epoch : W32) : Packet :=
  { s.inkPacket 1 pmod pcore epoch with
    src := c, dlocal := pmod == s.modId, dmod := pmod
    edge := if pcore.toNat < 0xFF00 then 5 else 4
    dst := if pcore.toNat < 0xFF00 then BitVec.ofNat 16 (sheetHome (sheetOf pcore.toNat)) else pcore }

/-- What consuming a tile or contribution does. -/
inductive Consume where
  | ok (s : State)
  | full
  | access

/-- Records a consumption in a foreign table: the new table and whether a query is due; none when it is full. -/
def foreignAdd (tab : List Foreign) (since : W32) (pmod : BitVec 15) (pcore : W16) (e : W32) :
    Option (List Foreign × Bool) :=
  match tab.find? fun f => f.pmod == pmod && f.pcore == pcore with
  | some f =>
    if covers f.epoch e then some (tab, false)
    else
      some (tab.map fun g => if g = f then { g with epoch := e, marks := g.marks ++ [(e, since)] } else g, true)
  | none => if tab.length < 64 then some (tab ++ [⟨pmod, pcore, e, none, [(e, since)], none, false⟩], true) else none

/-- INKED for a producer: consumptions it covers no longer hold anything back, and the entry retires once its epoch is
inked (R312, R316). -/
def foreignInked (tab : List Foreign) (pmod : BitVec 15) (pcore : W16) (f : W32) : List Foreign :=
  tab.filterMap fun g =>
    if g.pmod = pmod ∧ g.pcore = pcore ∧ g.isDead = none then
      if covers f g.epoch then none
      else some { g with covered := some f, marks := g.marks.filter fun m => !covers f m.1 }
    else some g

/-- DEAD for an epoch of a producer: what was consumed of it never becomes inked (R316). -/
def foreignDead (tab : List Foreign) (pmod : BitVec 15) (pcore : W16) (e : W32) : List Foreign :=
  tab.map fun g =>
    if g.pmod = pmod ∧ g.pcore = pcore then
      match g.marks.find? fun m => m.1 == e with
      | some m => { g with isDead := some (g.isDead.getD m.2) }
      | none => g
    else g

/-- Consumption by core `c` of data of a producer's epoch (R312, R316, R544). -/
def State.consume (s : State) (c : CoreId) (pmod : BitVec 15) (pcore : W16) (e : W32) : Consume :=
  let p := (s.partOf c).getD 16
  if pmod == s.modId && pcore.toNat == c then .ok s
  else if pmod == s.modId && !((s.part p).hasCore pcore.toNat || decide (0xFF00 ≤ pcore.toNat)) then .access
  else if pmod != s.modId && !s.inPlan p pmod then .access
  else
    let k := s.core c
    match foreignAdd k.foreign k.epoch pmod pcore e with
    | none => .full
    | some (tab, q) =>
      let s := s.updCore c fun k => { k with foreign := tab }
      .ok (if q then s.send (s.inkQuery (BitVec.ofNat 16 c) pmod pcore e) else s)

/-- Consumption of a tile that a use has checked: only a pencilled one counts. -/
def State.consumeTile (s : State) (c : CoreId) (t : Cart) : Consume :=
  if t.pencil then s.consume c t.module t.core t.epoch else .ok s

/-- The smaller of two epochs, as distances above a frontier. -/
def nearer (f a b : W32) : W32 := if (a - f).toNat ≤ (b - f).toNat then a else b

/-- The epochs that hold a core's frontier back: reads not yet compared or held, failed step-class range checks,
dependence on foreign entries (R311, R313, R314). -/
def Core.blockers (k : Core) : List W32 :=
  k.snaps.map (·.epoch) ++ (match k.rangeFail with | some e => [e] | none => []) ++ k.foreign.flatMap fun f => f.marks.map fun m => m.2 + 1

/-- The frontier that a core's checks and foreign entries allow (R314). -/
def Core.frontierNow (k : Core) : W32 :=
  match k.blockers.filter fun b => covers k.epoch b with
  | [] => k.epoch
  | b :: r => r.foldl (nearer k.frontier) b - 1

/-- Clears PENCIL in place on the core's own tagged tiles of the epochs that its frontier has now passed, the earlier
frontier being `f0` (R318, spec/02 R55). -/
def Core.inkTiles (k : Core) (c : CoreId) (m : BitVec 15) (b : InkCore) (f0 : W32) : Core :=
  { k with store := k.tags.foldl (fun st t =>
      let cart := Cart.parse (st.readBytes t.addr 64)
      if cart.pencil && cart.module == m && cart.core.toNat == c && covers k.frontier cart.epoch
          && !covers f0 cart.epoch && !b.isDead cart.epoch then
        st.write (t.addr + 1) (st.read (t.addr + 1) &&& 0x7F)
      else st) k.store }

/-- Moves a core's ink frontier forward, clears PENCIL on its own tiles and tells its ink block (R314, R315). -/
def State.advanceFrontier (s : State) (c : CoreId) : State :=
  let k := s.core c
  let f := k.frontierNow
  if covers k.frontier f then s
  else
    let s := s.updCore c fun k => { k with frontier := f }.inkTiles c s.modId (s.ink c) k.frontier
    s.send { s.inkPacket 0 s.modId (BitVec.ofNat 16 c) f with
      src := BitVec.ofNat 16 c, edge := 5, dst := BitVec.ofNat 16 (sheetHome (sheetOf c)) }

end Sys2Proof.Machine
end

