-- ==== Sys2Proof/Machine/Banks.lean ====
section
/-! DEFINITION. Order-free accumulation: cells, check cells, the datum, the overflow test, the long sum and the
addition of long partials (spec/03 R86 to R130, spec/08 R290 to R297). -/

namespace Sys2Proof.Machine

/-! ### Datum (spec/03 R100 to R108) -/

def polSafe : BitVec 2 := 0
def polTight : BitVec 2 := 1
def polFixed : BitVec 2 := 2

/-- The computed datum for a product exponent bound (R106, R108). The spec does not say whether d_safe is clamped before
TIGHTEN is subtracted; the model clamps only the final value (log 91). -/
def datumFor (c : DatCfg) (pb : Int) : W16 :=
  clampDatum (pb + c.klog.toNat - 125 - (if c.policy = polTight then (c.tighten.toNat : Int) else 0))

namespace Bank

/-- INTMODE: the current run is an integer run (R118). -/
def intmode (b : Bank) : Bool := b.run == some true

/-- Puts the fields in force into effect on a bank with no term (R102): the datum is known, or waits for operands. -/
def establish (b : Bank) : Bank :=
  if b.force.policy = polFixed then { b with fixed := true }
  else if b.force.pbound ≠ 0x8000 then { b with fixed := true, datum := datumFor b.force (sInt b.force.pbound) }
  else { b with fixed := false }

/-- A clear (R86): every field at its clear value, the fields last written in force. -/
def clear (b : Bank) : Bank := Bank.establish { written := b.written, force := b.written, datum := b.datum }

/-- A write of the RW fields of DATUM_n selected by `mask` (R101, Table 3-4): bit 0 PBOUND, 1 DATUM, 2 KLOG,
3 POLICY, 4 TIGHTEN. -/
def writeDatum (b : Bank) (v : W64) (mask : BitVec 5) : Bank :=
  let w := b.written
  let pol : BitVec 2 := (v >>> 6).setWidth 2
  let w : DatCfg :=
    { pbound := if mask.getLsbD 0 then (v >>> 48).setWidth 16 else w.pbound
      klog := if mask.getLsbD 2 then (v >>> 8).setWidth 5 else w.klog
      policy := if mask.getLsbD 3 && pol != 3 then pol else w.policy
      tighten := if mask.getLsbD 4 then v.setWidth 6 else w.tighten }
  if b.opn then { b with written := w }
  else
    let d := if mask.getLsbD 1 && w.policy == polFixed then (v >>> 16).setWidth 16 else b.datum
    { b with written := w, force := w, datum := d }.establish

/-- Whether the bank holds, or would hold, a tight run (R108, R109). -/
def tight (b : Bank) : Bool := b.force.policy == polTight && !b.intmode

/-- The datum in force: 0 in integer mode (R118). -/
def d (b : Bank) : Int := if b.intmode then 0 else sInt b.datum

def cell (b : Bank) (k : Nat) : Cell := Sparse.get {} b.cells k
def chkReg (b : Bank) (k : Nat) : ChkReg := Sparse.get {} b.chk k

end Bank

def keyCR (j : Nat) : Nat := j
def keyCC (i : Nat) : Nat := 16 + i
def keyCN : Nat := 24

/-! ### Terms -/

/-- Saturating sums of the 8-bit and 32-bit counts. -/
def satAdd8 (a : Byte) (n : Nat) : Byte := if a.toNat + n > 255 then 255 else BitVec.ofNat 8 (a.toNat + n)
def satAdd32 (a : W32) (n : Nat) : W32 := if a.toNat + n > 0xFFFFFFFF then 0xFFFFFFFF else BitVec.ofNat 32 (a.toNat + n)

/-- A term's floor(log2) as PEMAX holds it: free where 16 signed bits cannot hold it or it is the code of none (log 90). -/
def pemaxCode (l : Int) : W16 := if -32767 ≤ l ∧ l ≤ 32767 then BitVec.ofInt 16 l else Config.pemaxPast l

/-- The larger of PEMAX and a term's floor(log2) (R92). -/
def pemaxOf (x : W16) : Num → W16
  | .fin _ 0 _ => x
  | .fin _ m e =>
    let l := pemaxCode (flog2 m e)
    if x = 0x8000 ∨ sInt x < sInt l then l else x
  | _ => x

/-- Whether a term is an exact zero of negative sign. -/
def Num.negZero? : Num → Bool
  | .fin true 0 _ => true
  | _ => false

/-- The flags that every term leaves (R91, R92). -/
def Cell.mark (c : Cell) (x : Num) : Cell :=
  { c with padd := true, pnz := c.pnz || !x.negZero?
           nan := c.nan || x.isNan, pinf := c.pinf || x == .inf false, ninf := c.ninf || x == .inf true }

/-- The aligned integer of a finite term and whether nonzero bits were discarded (R93). -/
def aligned (d : Int) : Num → Int × Bool
  | .fin n m e => rneShift (if n then -(m : Int) else m) (e - d)
  | _ => (0, false)

/-- One term of the long path added to a cell (R91 to R96); `d` is none while the datum is not fixed (R103). -/
def Cell.term (d : Option Int) (c : Cell) (x : Num) : Cell :=
  let c := c.mark x
  match d with
  | none => c
  | some d =>
    let q := aligned d x
    { c with acc := c.acc + BitVec.ofInt 136 q.1
             rcnt := if q.2 then satAdd8 c.rcnt 1 else c.rcnt
             lcnt := if q.2 && q.1 == 0 then satAdd8 c.lcnt 1 else c.lcnt }

/-- A saturating 32-bit sum in ACC, with SAT (R119). -/
def Cell.intAdd (c : Cell) (n : Int) : Cell :=
  let x := c.acc.toInt + n
  let y := if x > 2147483647 then 2147483647 else if x < -2147483648 then -2147483648 else x
  { c with acc := BitVec.ofInt 136 y, sat := c.sat || x != y }

/-- The integer value of a term with a non-negative exponent. -/
def Num.toInt : Num → Int
  | .fin n m e => let v : Int := m * pow2 e; if n then -v else v
  | _ => 0

/-- One integer-mode product added to a cell (R119). -/
def Cell.intTerm (c : Cell) (x : Num) : Cell := (c.mark x).intAdd x.toInt

/-- One term of a check cell (spec/08 R290, R291); while the datum is not fixed only a special term leaves its flag. -/
def ChkReg.term (d : Option Int) (r : ChkReg) (x : Num) : ChkReg :=
  let r := { r with nan := r.nan || x.isNan, pinf := r.pinf || x == .inf false, ninf := r.ninf || x == .inf true }
  match d with
  | none => r
  | some d =>
    let q := aligned d x
    { r with acc := r.acc + BitVec.ofInt 144 q.1, cnt := if q.2 then satAdd8 r.cnt 1 else r.cnt }

/-- A mirrored integer (spec/08 R292). -/
def ChkReg.mirrorAdd (q : Int) (r : ChkReg) : ChkReg :=
  { r with acc := r.acc + BitVec.ofInt 144 q, mirror := r.mirror + BitVec.ofInt 144 q }

/-! ### A tile pair -/

/-- Row `i` of a matrix; a row beyond its rows, or one that takes no part, is empty. -/
def rowAt (m : List (List Num)) (i : Nat) : List Num := m.getD i []

/-- Exact sums down the columns of the rows that take part, of the first `n`. -/
def colSums (m : List (List Num)) (k n : Nat) : List Num :=
  (List.range n).foldl (fun acc i => if (rowAt m i).isEmpty then acc else List.zipWith Num.add acc (rowAt m i))
    (List.replicate k (.fin false 0 0))

/-- The `k` products of one cell, from k = 0 upward: exact +0 where a row takes no part (spec/05 R179, R196). -/
def products (k : Nat) (a b : List Num) : List Num :=
  if a.isEmpty || b.isEmpty then List.replicate k (.fin false 0 0) else List.zipWith Num.mul a b

/-- The check terms of one pair (spec/08 R290). -/
def Bank.chkPair (b : Bank) (d : Option Int) (k : Nat) (ma mb : List (List Num)) : Bank :=
  let sa := colSums ma k 8
  let sb := colSums mb k 16
  let run (xs : List Num) (r : ChkReg) : ChkReg := xs.foldl (ChkReg.term d) r
  { b with chk := Sparse.tabulate {} 25 fun n =>
      if n < 16 then run (products k sa (rowAt mb n)) (b.chkReg n)
      else if n < 24 then run (products k (rowAt ma (n - 16)) sb) (b.chkReg n)
      else run (products k sa sb) (b.chkReg n) }

/-- Adds one pair: `k` products per cell (spec/05 R178, R182). `ma` has up to 8 rows, `mb` up to 16. -/
def Bank.addPair (b : Bank) (k : Nat) (ma mb : List (List Num)) : Bank :=
  let dd : Option Int := if b.intmode then some 0 else if b.fixed then some (sInt b.datum) else none
  let prods (n : Nat) : List Num := products k (rowAt ma (n / 16)) (rowAt mb (n % 16))
  let cells := Sparse.tabulate {} 128 fun n =>
    if b.intmode then (prods n).foldl Cell.intTerm (b.cell n) else (prods n).foldl (Cell.term dd) (b.cell n)
  let pemax := if dd.isNone then b.pemax
    else (List.range 128).foldl (fun p n => (prods n).foldl pemaxOf p) b.pemax
  let b' := { b with cells := cells, kcnt := satAdd32 b.kcnt k, pemax := pemax, opn := b.opn || decide (0 < k) }
  if b.cover = some true then b'.chkPair dd k ma mb else b'

/-! ### The vector long sum and long partials -/

/-- Adds `q` to the check cells of a covered bank at cell (i, j) (spec/08 R292). -/
def Bank.mirror (b : Bank) (n : Nat) (q : Int) : Bank :=
  if b.cover = some true then
    { b with chk := Sparse.updAll {} b.chk [keyCR (n % 16), keyCC (n / 16), keyCN] fun _ => ChkReg.mirrorAdd q }
  else b

/-- The 32 lanes of a vlsum (spec/05 R212). -/
def Bank.longSum (b : Bank) (n : Nat) (xs : List Num) : Bank :=
  let d := sInt b.datum
  let zero : Num := .fin false 0 0
  let cells := Sparse.tabulate {} 128 fun m =>
    if m = n then xs.foldl (Cell.term (some d)) (b.cell m) else (b.cell m).mark zero
  let b' := { b with
    cells := cells, kcnt := satAdd32 b.kcnt 32, pemax := xs.foldl pemaxOf b.pemax, opn := true, run := some false }
  b'.mirror n (xs.foldl (fun t x => t + (aligned d x).1) 0)

/-- A long-partial element as a term: an exact zero is +0 (spec/03 R128). -/
def lpTerm (di : Int) (n : Int) : Num := .ofInt n di

/-- Adds the 128 elements of a contribution (spec/03 R128). Each element is a term of cell `index`. -/
def Bank.addPartial (b : Bank) (xs : List Num) : Bank :=
  let d := sInt b.datum
  let cells := Sparse.tabulate {} 128 fun m => (b.cell m).term (some d) (xs.getD m (.fin false 0 0))
  let b' := { b with
    cells := cells, kcnt := satAdd32 b.kcnt 1, pemax := xs.foldl pemaxOf b.pemax, opn := true, run := some false }
  xs.zipIdx.foldl (fun b p => b.mirror p.2 (aligned d p.1).1) b'

/-! ### Reading a bank (spec/03 R110, R113) -/

/-- Whether a cell lies outside the long-partial range (R110). -/
def Cell.outside (c : Cell) : Bool := decide (c.acc.toInt < -(2 ^ 127) + 3) || decide (c.acc.toInt > 2 ^ 127 - 1)

/-- The overflow test (R110); none in integer mode (R122). -/
def Bank.overflows (b : Bank) : Bool :=
  if b.intmode then false
  else (b.cells.any fun e => e.2.outside)
    || (b.kcnt != 0 && b.pemax != 0x8000 && decide (sInt b.pemax - sInt b.datum + clog2 b.kcnt.toNat > 134))

/-- R113 steps 1 and 2: the bank cleared for its repeat, at the datum of the observed PEMAX and KCNT. -/
def Bank.toRepeat (b : Bank) : Bank :=
  { b with cells := [], chk := [], kcnt := 0, pemax := 0x8000, opn := false, repeated := true, fixed := true
           datum := clampDatum (sInt b.pemax + clog2 b.kcnt.toNat - 125) }

/-- The exact value of a cell (spec/02 R76, R77): flags first; a zero is −0 when every term was one. In integer mode the
model gives an integer product the sign of its zero too, 0 times a negative being −0, which the spec does not say
(log 92). -/
def Bank.value (b : Bank) (n : Nat) : Num :=
  let c := b.cell n
  if c.nan || (c.pinf && c.ninf) then .nan
  else if c.pinf then .inf false
  else if c.ninf then .inf true
  else if c.acc = 0 then .fin (c.padd && !c.pnz) 0 0
  else .ofInt c.acc.toInt b.d

/-- Cells with SAT set (R120). -/
def Bank.satCount (b : Bank) : Nat := (b.cells.filter fun e => e.2.sat).length

/-- Merges a steal bank (spec/05 R204, spec/03 R121); the check log keeps its 32 entries (spec/08 R305). In integer mode the value reaches the cell as one saturating
addition. -/
def Bank.merge (b t : Bank) : Bank :=
  let cells := Sparse.tabulate {} 128 fun n =>
    let x := b.cell n
    let y := t.cell n
    let z := if t.intmode then x.intAdd y.acc.toInt else { x with acc := x.acc + y.acc }
    { z with rcnt := satAdd8 x.rcnt y.rcnt.toNat, lcnt := satAdd8 x.lcnt y.lcnt.toNat
             nan := x.nan || y.nan, pinf := x.pinf || y.pinf, ninf := x.ninf || y.ninf
             padd := x.padd || y.padd, pnz := x.pnz || y.pnz, sat := z.sat || y.sat }
  let chk := Sparse.tabulate {} 25 fun n =>
    let x := b.chkReg n
    let y := t.chkReg n
    { acc := x.acc + y.acc, cnt := satAdd8 x.cnt y.cnt.toNat, mirror := x.mirror + y.mirror
      nan := x.nan || y.nan, pinf := x.pinf || y.pinf, ninf := x.ninf || y.ninf }
  let pe := if t.pemax = 0x8000 then b.pemax
    else if b.pemax = 0x8000 ∨ sInt b.pemax < sInt t.pemax then t.pemax else b.pemax
  { b with cells := cells, chk := chk, kcnt := satAdd32 b.kcnt t.kcnt.toNat, pemax := pe, opn := b.opn || t.opn
           run := b.run.or t.run, survey := b.survey || t.survey
           clog := (b.clog ++ t.clog).take 32
           clogFull := b.clogFull || t.clogFull || decide (32 < (b.clog ++ t.clog).length) }

/-! ### The graticule check (spec/08 R293 to R295) -/

/-- One line: the difference of its sides, its bound, and whether it is excluded. -/
structure Line where
  diff : Int
  bound : Nat
  excluded : Bool
  deriving DecidableEq, Repr

/-- RCNT as the check reads it: 255 counts as KCNT (spec/03 R87). -/
def countOf (kcnt : W32) (c : Byte) : Nat := if c = 0xFF then kcnt.toNat else c.toNat

def Bank.special (c : Cell) : Bool := c.nan || c.pinf || c.ninf
def Bank.specialChk (r : ChkReg) : Bool := r.nan || r.pinf || r.ninf

/-- A line over some cells against one check register. -/
def Bank.cellLine (b : Bank) (cs : List Nat) (key : Nat) : Line :=
  let r := b.chkReg key
  { diff := cs.foldl (fun t n => t + (b.cell n).acc.toInt) 0 - r.acc.toInt
    bound := if b.intmode then 0 else cs.foldl (fun t n => t + countOf b.kcnt (b.cell n).rcnt) (countOf b.kcnt r.cnt)
    excluded := (cs.any fun n => Bank.special (b.cell n) || (b.intmode && (b.cell n).sat)) || Bank.specialChk r }

/-- A line over some check registers against the corner. -/
def Bank.totalLine (b : Bank) (ks : List Nat) : Line :=
  let r := b.chkReg keyCN
  { diff := ks.foldl (fun t n => t + (b.chkReg n).acc.toInt) 0 - r.acc.toInt
    bound := if b.intmode then 0 else ks.foldl (fun t n => t + countOf b.kcnt (b.chkReg n).cnt) (countOf b.kcnt r.cnt)
    excluded := (ks.any fun n => Bank.specialChk (b.chkReg n)) || Bank.specialChk r }

/-- The 26 lines of Table 8-1: rows 0 to 7, columns 0 to 15, check row total, check column total. -/
def Bank.lines (b : Bank) : List Line :=
  (List.range 8).map (fun i => b.cellLine ((List.range 16).map fun j => 16 * i + j) (keyCC i))
  ++ (List.range 16).map (fun j => b.cellLine ((List.range 8).map fun i => 16 * i + j) (keyCR j))
  ++ [b.totalLine ((List.range 16).map keyCR), b.totalLine ((List.range 8).map keyCC)]

/-- R293: 2 × |D| ≤ N, or the line is excluded (R294). -/
def Line.passes (l : Line) : Bool := l.excluded || decide (2 * l.diff.natAbs ≤ l.bound)

/-- Whether the check passes (R294). -/
def Bank.checks (b : Bank) : Bool := b.lines.all Line.passes

end Sys2Proof.Machine
end

