-- ==== Sys2Proof/Machine/Engine.lean ====
section
/-! DEFINITION. The matrix unit at work: tile pairs read from core store, the start of a run (kind, datum, coverage,
logs), the replay, and the deferred queue (spec/05 R178 to R202, spec/03 R103 to R118, spec/08 R296, R305). -/

namespace Sys2Proof.Machine

/-- One pair of a run: operand addresses, the rows that receive real products, the products k = lo to hi − 1, and
the PCRCs a replay verifies. -/
structure PairIn where
  a : Nat
  b : Nat
  rowLo : Nat := 0
  rowHi : Nat := 8
  lo : Nat := 0
  hi : Nat
  pcrc : Option (W32 × W32) := none
  deriving DecidableEq, Repr

/-- Where a run reads, where it adds, what its tiles look like, and FTZ as its instruction issued (spec/03 R117). `eater` is the core that consumes the tiles,
none in a replay. -/
structure RunIn where
  owner : CoreId
  dst : CoreId
  bank : Nat
  ta : Desc
  tb : Desc
  ftz : Bool
  eater : Option CoreId
  detA : Byte := 0xFF
  detB : Byte := 0xFF
  deriving DecidableEq, Repr

/-- How a run ends. -/
inductive Run where
  | ok (s : State)
  /-- The foreign table is full (spec/08 R312). -/
  | full
  | fault (s : State) (code : FCode) (detail : Byte)

/-- Bytes of payload that a descriptor's shape and format name. -/
def Desc.plen (d : Desc) : Nat := (plenOf d.fmt d.rows.toNat d.cols.toNat d.bsize).getD 0

/-- The rows of an operand: shape and format come from the descriptor (spec/05 R182), bytes from core store. -/
def Core.operand (k : Core) (ftz : Bool) (a : Nat) (d : Desc) (c : Cart) : List (List Num) × Bool :=
  let c := { c with fmt := d.fmt, rows := d.rows, cols := d.cols, bsize := d.bsize, plen := BitVec.ofNat 16 d.plen }
  let x := decodeTile ftz c (k.loadBytes (a + 64) d.plen)
  (rowsOf d.cols.toNat d.rows.toNat x.1, x.2)

/-- Rows outside a segment take no part (spec/05 R196). -/
def onlyRows (lo hi : Nat) (m : List (List Num)) : List (List Num) :=
  (List.range 8).map fun i => if lo ≤ i ∧ i < hi then rowAt m i else []

/-- The check of one operand as its stream begins (spec/05 R183), with the replay's PCRC (spec/03 R114). An operand that
holds a valid tile of another format by the time of the repeat fails R61 first, so the model raises FORMAT_MISMATCH and
not CSUM_AT_USE; the spec gives no order of the two (log 93). -/
def Core.checkOperand (k : Core) (a : Nat) (d : Desc) (pcrc : Option W32) : Except FCode Tile :=
  match k.useTile a (some d.fmt) with
  | .error e => .error e
  | .ok t => if pcrc.any (· != t.cart.pcrc) then .error .csumAtUse else .ok t

/-- Records a use by the consuming core, when there is one. -/
def State.eat (s : State) (eater : Option CoreId) (c : Cart) : Consume :=
  match eater with
  | none => .ok s
  | some e => s.consumeTile e c

/-- Adds one pair, its operands checked and consumed when its stream begins. -/
def runPair (r : RunIn) (p : PairIn) (s : State) : Run :=
  let k := s.core r.owner
  match k.checkOperand p.a r.ta (p.pcrc.map (·.1)) with
  | .error e => .fault s e r.detA
  | .ok ta =>
    match k.checkOperand p.b r.tb (p.pcrc.map (·.2)) with
    | .error e => .fault s e r.detB
    | .ok tb =>
      let eater := if p.lo = 0 then r.eater else none
      match s.eat eater ta.cart with
      | .full => .full
      | .access => .fault s .access r.detA
      | .ok s =>
        match s.eat eater tb.cart with
        | .full => .full
        | .access => .fault s .access r.detB
        | .ok s =>
          let ma := k.operand r.ftz p.a r.ta ta.cart
          let mb := k.operand r.ftz p.b r.tb tb.cart
          let cut (m : List (List Num)) := m.map fun row => (row.drop p.lo).take (p.hi - p.lo)
          let a := cut (onlyRows p.rowLo p.rowHi ma.1)
          let survey := ta.cart.survey || tb.cart.survey
          let s := s.updCore r.owner fun k =>
            ((k.touchTag p.a ta.cart.plen.toNat).touchTag p.b tb.cart.plen.toNat).flag
              (if ma.2 || mb.2 then fFlushed else 0)
          .ok (s.updCore r.dst fun k =>
            let b := k.bank r.bank
            k.setBank r.bank { b.addPair (p.hi - p.lo) a (cut mb.1) with survey := b.survey || survey })

/-- Adds pairs in order; a failing pair ends the run, and earlier pairs stay (spec/05 R183). -/
def runPairs (r : RunIn) : List PairIn → State → Run
  | [], s => .ok s
  | p :: ps, s =>
    match runPair r p s with
    | .ok s => runPairs r ps s
    | x => x

/-! ### Starting a run -/

/-- Table 5-1: a format that the matrix unit accepts. -/
def matFmt (f : BitVec 4) : Bool := decide (f.toNat ≤ 9)

/-- The operand addresses of pair i (spec/05 R182). -/
def pairAddrs (a b capA capB n : Nat) : List (Nat × Nat) := (List.range n).map fun i => (a + i * capA, b + i * capB)

/-- R38, R179, R180 for the operands of a run, in that order; `capB` bytes of B lie at `tb.addr` unless they are
adapter tiles. The answer carries the own-store offsets. -/
def macOperands (c : CoreId) (ta tb : Desc) (n : Nat) (adapters : Bool) : Except FCode (Nat × Nat) :=
  match capacity ta, capacity tb with
  | some ca, some cb =>
    if ta.rows = 0 ∨ ta.rows.toNat > 8 ∨ tb.rows = 0 ∨ tb.rows.toNat > 16 ∨ ta.cols ≠ tb.cols then .error .descFormat
    else match ownTile c ta.addr (n * ca), (if adapters then some 0 else ownTile c tb.addr (n * cb)) with
      | some a, some b => if matFmt ta.fmt && matFmt tb.fmt then .ok (a, b) else .error .formatMismatch
      | _, _ => .error .access
  | _, _ => .error .formatMismatch

/-- Integer mode: both operands I8 with the long-path option clear (spec/03 R118). -/
def isIntRun (ta tb : Desc) (lp : Bool) : Bool := ta.fmt == fmtI8 && tb.fmt == fmtI8 && !lp

/-- Thresholds of Table 8-2. -/
def chkThreshold (rate : Nat) : Nat :=
  match rate with
  | 0 => 0
  | 1 => 1
  | 2 => 4
  | 3 => 16
  | 4 => 32
  | _ => 64

/-- The coverage decision of spec/08 R296. -/
def Core.coverage (k : Core) (ta tb : Desc) : Bool :=
  let idx : W64 := 0x8000000000000000 ||| (ta.tcoord.setWidth 64 <<< 32) ||| tb.tcoord.setWidth 64
  let h := srBits k.srkey ta.tensor ta.step idx
  k.forceCover || decide (h.toNat % 64 < chkThreshold (k.ctl.chkrate.toNat % 8))

/-- The decision is made once for a run, at its first mmac, mseg or mdefer. -/
def Core.decideCover (k : Core) (bn : Nat) (ta tb : Desc) : Core :=
  let b := k.bank bn
  if b.cover.isSome then k else k.setBank bn { b with cover := some (k.coverage ta tb) }

/-- Whether a bank's current run is of the other kind (spec/03 R118). -/
def Bank.otherKind (b : Bank) (int : Bool) : Bool := b.run.any (· != int)

/-- The refusals of a run by its bank: the other kind (R118), a thirty-third instruction of a tight run (R109). -/
def Bank.refuses (b : Bank) (int : Bool) : Option FCode :=
  if b.otherKind int then some .formatMismatch
  else if b.force.policy == polTight && !int && decide (32 ≤ b.replay.length) then some .descFormat
  else none

/-- The largest EXPHI_a + EXPHI_b + 1 over the pairs, none when a tile carries no finite bound (R103, R105). -/
def Core.pairBound (k : Core) (ps : List (Nat × Nat)) : Option Int :=
  let hi (a : Nat) : W16 := (Cart.parse (k.loadBytes a 64)).exphi
  let pbs := ps.map fun p => sInt (hi p.1) + sInt (hi p.2) + 1
  if ps.any fun p => hi p.1 == 0x8000 || hi p.2 == 0x8000 then none
  else match pbs with
    | [] => none
    | x :: r => some (r.foldl max x)

/-- Fixes an auto datum (spec/05 R183). -/
def Bank.fixDatum (b : Bank) (pb : Option Int) : Bank :=
  if b.fixed then b
  else match pb with
    | some x => { b with fixed := true, datum := datumFor b.force x }
    | none => b

/-- The log entry of a run (spec/03 R112). -/
def Core.logEnt (k : Core) (ta tb : Desc) (lp ftz : Bool) (ps : List PairIn) : LogEnt :=
  let pc (a : Nat) : W32 := (Cart.parse (k.loadBytes a 64)).pcrc
  ⟨ta, tb, lp, ftz, ps.map fun p => ⟨p.a, p.b, pc p.a, pc p.b, p.rowLo, p.rowHi⟩⟩

/-- Logs an instruction: the replay log of a tight run, the check log of a covered run (spec/03 R112, spec/08 R305). -/
def Bank.log (b : Bank) (e : LogEnt) : Bank :=
  let b := if b.tight then { b with replay := b.replay ++ [e] } else b
  if b.cover = some true then
    if b.clog.length < 32 then { b with clog := b.clog ++ [e] } else { b with clogFull := true }
  else b

/-- A bank in which an accumulating instruction of a kind begins (spec/03 R118). -/
def Bank.begin (b : Bank) (int : Bool) : Bank := { b with run := some int }

/-- The bank at the start of a run: its kind, its datum, its logs. -/
def Core.startRun (k : Core) (bn : Nat) (ta tb : Desc) (lp ftz : Bool) (ps : List PairIn) : Core :=
  let b := k.bank bn
  let int := isIntRun ta tb lp
  let b := if int then b else b.fixDatum (k.pairBound (ps.map fun p => (p.a, p.b)))
  k.setBank bn ((b.begin int).log (k.logEnt ta tb lp ftz ps))

/-! ### The repeat (spec/03 R113 to R115) -/

/-- The pairs of a log entry, verified against their PCRCs. -/
def LogEnt.pairsIn (e : LogEnt) : List PairIn :=
  e.pairs.map fun p =>
    { a := p.a, b := p.b, rowLo := p.rowLo, rowHi := p.rowHi, hi := e.ta.cols.toNat, pcrc := some (p.aPcrc, p.bPcrc) }

/-- Re-executes a log into a bank. An instruction that ran before an auto datum was fixed adds its finite products too, at the
datum of the repeat; the spec does not say whether it does (log 94). -/
def rerun (owner dst : CoreId) (bn : Nat) : List LogEnt → State → Run
  | [], s => .ok s
  | e :: es, s =>
    match runPairs { owner := owner, dst := dst, bank := bn, ta := e.ta, tb := e.tb, ftz := e.ftz, eater := none }
      e.pairsIn s with
    | .ok s => rerun owner dst bn es s
    | x => x

/-- Passes per product (spec/05 Table 5-1). -/
def passes (a b : BitVec 4) : Nat :=
  if a = fmtFp32 ∧ b = fmtFp32 then 4 else if a = fmtFp32 ∨ b = fmtFp32 then 2 else 1

/-- Core cycles that `t` products per cell take, the check cycles of a covered run among them (spec/05 R185). -/
def runCycles (t p : Nat) (covered : Bool) : Nat := t * p + if covered then (t * p + 15) / 16 else 0

/-- Core cycles that a repeat stalls the read: 16, the matrix time of the logged instructions, 8 of carry resolution
(spec/03 R116). -/
def Bank.repeatCycles (b : Bank) : Nat :=
  24 + (b.replay.map fun e =>
    runCycles (e.pairs.length * e.ta.cols.toNat) (passes e.ta.fmt e.tb.fmt) (b.cover == some true)).sum

/-- How a bank stands to a read: ready, or its repeat has begun and the read waits, or a fault. -/
inductive Ready where
  | ok (s : State)
  | repeats (s : State)
  | fault (s : State) (code : FCode) (detail : Byte)

/-- Readies a bank for a read: the overflow test, and one repeat of a tight run (R110 to R116). The repeat writes the
bank at once and holds the core for its cycles; the read that meets the bank after them is tested again (R113 step 4,
R115). A repeat consumes nothing, so the foreign table cannot stop it. -/
def State.readyBank (s : State) (c : CoreId) (bn : Nat) : Ready :=
  let b := (s.core c).bank bn
  if !b.overflows then .ok s
  else if b.force.policy = polTight ∧ !b.repeated then
    let s := s.updCore c fun k => { k.setBank bn b.toRepeat with repeatLeft := b.repeatCycles }
    match rerun c c bn b.replay s with
    | .fault s code det => .fault (s.updCore c fun k => { k with repeatLeft := 0 }) code det
    | .ok s => .repeats s
    | .full => .repeats s
  else .fault s .datumOverflow (dBank bn)

/-! ### The deferred queue (spec/05 R199 to R202) -/

/-- Products per cell of an entry. -/
def Defer.total (e : Defer) : Nat := e.n * e.ta.cols.toNat

/-- The pairs of an entry from product `lo` to product `hi` − 1 of each cell. -/
def Defer.pairs (e : Defer) (c : CoreId) (lo hi : Nat) : List PairIn :=
  let kk := e.ta.cols.toNat
  let a := (ownOff c e.ta.addr.toNat).getD 0
  let b := (ownOff c e.tb.addr.toNat).getD 0
  ((pairAddrs a b ((capacity e.ta).getD 0) ((capacity e.tb).getD 0) e.n).zipIdx.filterMap fun p =>
    let l := if lo ≤ p.2 * kk then 0 else lo - p.2 * kk
    let h := if hi < p.2 * kk + kk then hi - p.2 * kk else kk
    if l < h ∨ (kk = 0 ∧ lo = 0) then some { a := p.1.1, b := p.1.2, lo := l, hi := h } else none)

/-- The run of an entry in its own bank. -/
def Defer.runIn (e : Defer) (c : CoreId) : RunIn :=
  { owner := c, dst := c, bank := e.bank, ta := e.ta, tb := e.tb, ftz := e.ftz, eater := some c }

/-- What an entry does when it starts to run: its bank must still accept it; it is logged now (R200). -/
def State.startEntry (s : State) (c : CoreId) (e : Defer) : Run :=
  if e.started then .ok s
  else
    let k := s.core c
    match (k.bank e.bank).refuses (isIntRun e.ta e.tb e.lp) with
    | some code => .fault s code (dBank e.bank)
    | none => .ok (s.updCore c fun k => k.startRun e.bank e.ta e.tb e.lp e.ftz (e.pairs c 0 e.total))

/-- Removes an entry wherever it stands and ends its pending ranges. -/
def Core.dropEntry (k : Core) (id : Nat) : Core :=
  { k with defq := k.defq.filter (·.id != id)
           stage := match k.stage with | some (.deferred e) => if e.id = id then none else k.stage | x => x }.unpend (.defer id)

/-- Runs an entry to completion, from where it stands. A fault ends it and is raised at its mdefer. -/
def State.runEntry (s : State) (c : CoreId) (e : Defer) : Option State :=
  match s.startEntry c e with
  | .full => none
  | .fault s code det => some ((s.updCore c fun k => k.dropEntry e.id).raise c e.pc e.seq det code code.cls)
  | .ok s =>
    match runPairs (e.runIn c) (e.pairs c e.progress e.total) s with
    | .full => none
    | .ok s => some (s.updCore c fun k => k.dropEntry e.id)
    | .fault s code det => some ((s.updCore c fun k => k.dropEntry e.id).raise c e.pc e.seq det code code.cls)

/-- The entries of a core, the running one first. -/
def Core.entries (k : Core) : List Defer :=
  (match k.stage with | some (.deferred e) => [e] | _ => []) ++ k.defq

/-- What forcing comes to: done, or the core's own units are busy (cause 8), or the foreign table is full (4), or a
fault stopped the core. A state that waits keeps the marks of the entries forced. -/
inductive Forced where
  | ok (s : State)
  | wait (s : State) (cause : Nat)
  | stopped (s : State)

/-- Runs a list of entries to completion, in order. -/
def forceList (c : CoreId) : List Defer → State → Forced
  | [], s => if (s.core c).run = .running then .ok s else .stopped s
  | e :: es, s =>
    match s.runEntry c e with
    | none => .wait s 4
    | some s => forceList c es s

/-- Marks the entries that `want` names as forced (R202). -/
def Core.markForced (k : Core) (want : Defer → Bool) : Core :=
  let mark (e : Defer) : Defer := if want e then { e with forced := true } else e
  { k with defq := k.defq.map mark, lent := k.lent.map mark
           stage := match k.stage with | some (.deferred e) => some (.deferred (mark e)) | x => x }

/-- Forces the entries that `want` names; a stolen one is waited for (R202, R205). -/
def State.force (s : State) (c : CoreId) (want : Defer → Bool) : Forced :=
  if !(((s.core c).lent ++ (s.core c).entries).any want) then .ok s
  else
    let s := s.updCore c fun k => k.markForced want
    let k := s.core c
    if k.lent.any want || k.stage == some .instr then .wait s 8
    else forceList c (k.entries.filter want) s

/-- Forces what a write of `n` bytes at `a` would overtake, then tells which pending range still stands in its way
(R167, R202). -/
def State.forWrite (s : State) (c : CoreId) (a n : Nat) : Forced :=
  let ids := ((s.core c).pends.filter fun p => overlap64 p.lo p.len a n).filterMap fun p =>
    match p.owner with | .defer id => some id | _ => none
  match s.force c fun e => ids.contains e.id with
  | .ok s =>
    match (s.core c).triHeld a n, (s.core c).blocksWrite a n with
    | true, _ => .wait s 7
    | false, some cause => .wait s cause
    | false, none => .ok s
  | x => x

/-- A read of `n` bytes at `a` waits for a pending-write range (R167). -/
def Core.readBar (k : Core) (a n : Nat) : Option Nat := k.blocksRead a n

/-- What a clear, conversion, datum change or read of a bank waits for: its deferred entries, forced (R202), and an
mseg that still adds to it (spec/04 R168). -/
def State.forBank (s : State) (c : CoreId) (bn : Nat) : Forced :=
  match s.force c fun e => e.bank == bn with
  | .ok s => if (s.core c).mseg.any fun m => m.bank == bn then .wait s 8 else .ok s
  | x => x

/-- What else an instruction waits for: of several causes the first in order is charged (spec/04 R174). -/
def Forced.also (f : Forced) (bars : List Nat) : Forced :=
  match f with
  | .ok s => match firstCause bars with
    | some cause => .wait s cause
    | none => .ok s
  | .wait s cause => .wait s ((firstCause (cause :: bars)).getD cause)
  | x => x

/-- Continues with an instruction once the deferred entries it forces have run. -/
def Forced.andThen (f : Forced) (g : State → Res) : Res :=
  match f with
  | .ok t => g t
  | .wait t cause => .stall t cause
  | .stopped t => .park t

end Sys2Proof.Machine
end

