-- ==== Sys2Proof/Machine/Convert.lean ====
section
/-! DEFINITION. What conversions share: rounding with keyed random words, the histogram, the range check, survey
sampling, epochs and snapshots, overlay records (spec/05 R189, spec/02 R62 to R82, spec/08 R298 to R304,
spec/11 R424 to R427). -/

namespace Sys2Proof.Machine

/-- The mode that RMSEL selects (spec/05 Table 5-3). -/
def Core.rmode (k : Core) (rmsel : BitVec 2) : RMode :=
  let m := if rmsel = 0 then k.ctl.fmode.setWidth 2 else rmsel - 1
  if m = 0 then .rne else if m = 1 then .rtz else .sr

/-- The random word of an element (spec/02 R67). -/
def Core.random (k : Core) (td : Desc) (row col : Nat) : W32 :=
  let idx : W64 := td.ebase + BitVec.ofNat 64 row * td.rstride.setWidth 64 + BitVec.ofNat 64 col
  srBits k.srkey td.tensor td.step idx

/-- Elements with their random words, drawn under SR only. -/
def Core.withRandom (k : Core) (mode : RMode) (td : Desc) (xs : List Num) : List (Num × W32) :=
  let w := td.cols.toNat
  xs.zipIdx.map fun p => (p.1, if mode = .sr then k.random td (p.2 / w) (p.2 % w) else 0)

def Core.histBase (k : Core) : Int := (k.ctl.histb.setWidth 16).toInt

/-- Adds elements to a histogram slot; counters saturate (spec/02 R80, R81). -/
def Core.histAdd (k : Core) (slot : Bool) (es : List Elem) : Core :=
  { k with hist := es.foldl (fun h e =>
      Sparse.upd 0 h ((if slot then 68 else 0) + histBin k.histBase e) sat32) k.hist }

/-- Whether a format is an integer one whose specials are judged by their source (spec/02 R542). -/
def intFmt (f : BitVec 4) : Bool := f == 0x9 || f == 0xA

/-- The range check (spec/08 R300): a bound of 0x8000 checks nothing. -/
def rangeFails (fmt : BitVec 4) (bound exphi : W16) (src : List Num) (es : List Elem) : Bool :=
  bound != 0x8000
  && (es.any (fun e => e.val.isNan || e.val.isInf)
      || (intFmt fmt && src.any fun x => x.isNan || x.isInf)
      || (exphi != 0x8000 && decide (sInt bound < sInt exphi)))

/-! ### Survey sampling (spec/08 R302 to R304) -/

/-- Whether a survey write proceeds. -/
def State.surveyProceeds (s : State) (c : CoreId) (td : Desc) : Bool :=
  let rate := match s.partOf c with | some p => (s.part p).surveyRate | none => 0
  let h := srBits (s.core c).srkey td.tensor td.step (0xA000000000000000 ||| td.tcoord.setWidth 64)
  let below := if rate = 1 then 1 else if rate = 2 then 4 else 16
  rate != 0 && s.feature featSurvey && decide (h.toNat % 4096 < below)

def satAdd64 (a : W64) (n : Nat) : W64 :=
  if a.toNat + n > 0xFFFFFFFFFFFFFFFF then 0xFFFFFFFFFFFFFFFF else BitVec.ofNat 64 (a.toNat + n)

/-- Compares a survey run with its partner bank and updates the partition's counters. -/
def State.surveyCompare (s : State) (c : CoreId) (bn : Nat) : State :=
  let k := s.core c
  let b := k.bank bn
  let q := k.bank (if bn % 2 = 0 then bn + 1 else bn - 1)
  match s.partOf c with
  | none => s
  | some p =>
    if b.survey && q.opn && !q.survey && b.d == q.d && b.kcnt == q.kcnt then
      let ds := (List.range 128).map fun n => ((b.cell n).acc.toInt - (q.cell n).acc.toInt).natAbs
      let add (i : Nat) (f : W64 → W64) (m : Sparse W64) : Sparse W64 := Sparse.upd 0 m i f
      let m0 := add 0 (fun v => satAdd64 v 1) (s.part p).survey
      let m1 := add 1 (fun v => satAdd64 v (ds.filter (· != 0)).length) m0
      let m2 := add 2 (fun v => satAdd64 v (ds.foldl (· + ·) 0)) m1
      let m3 := add 3 (fun v => if v.toNat < ds.foldl max 0 then satAdd64 0 (ds.foldl max 0) else v) m2
      s.updPart p fun x => { x with survey := m3 }
    else s

/-! ### Overlay records (spec/11 R424 to R427) -/

/-- Whether the partition runs under overlay. -/
def State.overlayOn (s : State) (p : Nat) : Bool := s.feature featOverlay && (s.part p).ovlCfg.getLsbD 0

/-- The block of a record: its step and number. -/
def ovlBlock (r : OvlRec) : W32 × Nat := (r.step, r.ordinal / 64)

/-- Whether the next conversion would start a third unreleased block (R427). -/
def Ovl.full (o : Ovl) : Bool := decide (o.ord % 64 = 0) && decide (2 ≤ ((o.recs.map ovlBlock).eraseDups).length)

/-- The overlay state of core `k`, or of context k − 0xFF00 of partition `p`. -/
def State.ovl (s : State) (p k : Nat) : Ovl := if k < 0xFF00 then (s.core k).ovl else (s.coll p (k % 256)).ovl
def State.updOvl (s : State) (p k : Nat) (f : Ovl → Ovl) : State :=
  if k < 0xFF00 then s.updCore k fun x => { x with ovl := f x.ovl }
  else s.updColl p (k % 256) fun x => { x with ovl := f x.ovl }

/-- A record as digested: TENSOR and PCRC. -/
def OvlRec.key (r : OvlRec) : List Byte := leBytes 4 r.tensor.toNat ++ leBytes 4 r.pcrc.toNat
def OvlRec.bytes (r : OvlRec) : List Byte := r.key ++ leBytes 8 r.tick.toNat

/-- The partner's module. -/
def State.ovlPeer (s : State) (p : Nat) : BitVec 15 := ((s.part p).ovlCfg >>> 16).setWidth 15

/-- A packet to the partner about `k`: `k` in SRC, STEPNO, block number and two words from byte 0x2C, the partner's
partition in ARG (R425, R426; log 25). -/
def State.ovlPacket (s : State) (p k : Nat) (typ : PType) (step : W32) (blk n v : Nat) : Packet :=
  { typ := typ, src := BitVec.ofNat 16 k, dst := BitVec.ofNat 16 k, smod := s.modId, dlocal := s.ovlPeer p == s.modId
    dmod := s.ovlPeer p, arg := (((s.part p).ovlCfg >>> 4).setWidth 4).setWidth 32
    ext := extOf (step.toNat + 2 ^ 32 * blk + 2 ^ 64 * n + 2 ^ 96 * v) }

/-- The packets of a block's records, 16 to a packet; `n` bounds their number. -/
def ovrPackets (base : Packet) : Nat → Nat → List OvlRec → List Packet
  | 0, _, _ => []
  | n + 1, off, rs =>
    { base with off := BitVec.ofNat 32 off, payload := (rs.take 16).flatMap OvlRec.bytes, last := decide (rs.length ≤ 16) }
      :: (if rs.length ≤ 16 then [] else ovrPackets base n (off + 256) (rs.drop 16))

/-- Compares the two digests of a block, once both are held: the records are released, or leave as OVR (R425, R426). -/
def State.ovlCompare (s : State) (p k : Nat) (step : W32) (blk : Nat) : State :=
  let o := s.ovl p k
  let here (d : OvlDig) : Bool := d.step == step && d.block == blk
  match o.mine.find? here, o.peer.find? here with
  | some a, some b =>
    if a = b then s.updOvl p k fun o => { o with recs := o.recs.filter fun r => ovlBlock r != (step, blk) }
    else
      let rs := o.recs.filter fun r => ovlBlock r == (step, blk)
      s.sendAll (ovrPackets { s.ovlPacket p k .ovr step blk a.count a.digest.toNat with len := BitVec.ofNat 32 (16 * rs.length) } 4 0 rs)
  | _, _ => s

/-- Digests a complete block, or the last partial one, and sends the digest. -/
def State.ovlClose (s : State) (p k : Nat) (step : W32) (blk : Nat) : State :=
  let rs := (s.ovl p k).recs.filter fun r => ovlBlock r == (step, blk)
  let d : OvlDig := ⟨step, blk, rs.length, crc32c (rs.flatMap OvlRec.key)⟩
  let s := s.updOvl p k fun o => { o with mine := o.mine.filter (fun x => !(x.step == step && x.block == blk)) ++ [d] }
  (s.send (s.ovlPacket p k .ovd step blk d.count d.digest.toNat)).ovlCompare p k step blk

/-- Writes the record of a conversion of `k` in its slot, and sends the digest of a block it completes. -/
def State.ovlRecord (s : State) (p k : Nat) (step : W32) (tensor pcrc : W32) : State :=
  if !s.overlayOn p then s
  else
    let o := s.ovl p k
    let r : OvlRec := ⟨step, o.ord, tensor, pcrc, s.tick⟩
    let a := s.translate (((s.part p).ovlBuf >>> 12).toNat * 4096 + k * 2048 + o.ord % 128 * 16)
    let s := if a + 16 ≤ memTop then s.memWrite a r.bytes else s
    let s := s.updOvl p k fun o => { o with ord := o.ord + 1, recs := o.recs ++ [r] }
    if (o.ord + 1) % 64 = 0 then s.ovlClose p k step (o.ord / 64) else s

/-- The record of a core's conversion. -/
def State.overlayRecord (s : State) (c : CoreId) (tensor pcrc : W32) : State :=
  match s.partOf c with
  | none => s
  | some p => s.ovlRecord p c (s.core c).ctl.stepno tensor pcrc

/-! ### Epochs, snapshots (spec/08 R298, R310) -/

/-- Advances the epoch; every covered bank among `bs` is snapshotted under the new epoch. -/
def Core.newEpoch (k : Core) (bs : List Nat) : Core :=
  let e := k.epoch + 1
  { k with epoch := e
           snaps := k.snaps ++ ((bs.filter fun n => (k.bank n).cover == some true).map fun n => ⟨n, e, k.bank n, false⟩) }

/-- Whether a read of these banks would need a seventeenth snapshot (R298). -/
def Core.snapFull (k : Core) (bs : List Nat) : Bool :=
  decide (16 < k.snaps.length + (bs.filter fun n => (k.bank n).cover == some true).length)

/-- Why a conversion waits: the check engine's snapshots, or unreleased overlay blocks. -/
def State.convBar (s : State) (c : CoreId) (bs : List Nat) : Bool :=
  (s.core c).snapFull bs
  || (match s.partOf c with | some p => s.overlayOn p && (s.core c).ovl.full | none => false)

/-- The integer-mode report of the banks read (spec/03 R120): FSTAT.ISAT and INT_SATURATED with the count. -/
def State.reportSat (s : State) (c : CoreId) (pc : BitVec 18) (seq : Nat) (bs : List Nat) : State :=
  bs.foldl (fun s n =>
    let b := (s.core c).bank n
    if b.intmode && b.satCount != 0 then
      (s.updCore c fun k => k.flag fIsat).raise c pc seq (dBank n) .intSaturated .info (BitVec.ofNat 32 b.satCount)
    else s) s

/-- Readies every bank of a group, in order (spec/05 R189 step 2). -/
def readyBanks (c : CoreId) : List Nat → State → Ready
  | [], s => .ok s
  | b :: bs, s =>
    match s.readyBank c b with
    | .ok s => readyBanks c bs s
    | x => x

/-- Clears the banks of a group (spec/05 R189 step 8). -/
def Core.clearBanks (k : Core) (bs : List Nat) : Core := bs.foldl (fun k n => k.setBank n (k.bank n).clear) k

/-- Writes a converted tile, its histogram and flags, and its overlay record; then the range check (R189 steps 5 to
7, R190, spec/08 R300, R301). `src` are the exact values; `bound` is 0x8000 for no range check. -/
def convFinish (c : CoreId) (pc : BitVec 18) (seq : Nat) (td : Desc) (at_ : Nat) (o : Rounding) (hslot : Bool)
    (src : List Num) (datum bound : W16) (rstep : Bool) (flushed : Bool) (s : State) : Res :=
  let k := s.core c
  let w := writeElems td.fmt td.bsize o (k.withRandom o.mode td src)
  let cart := convCart td w.2 w.1 k.epoch (BitVec.ofNat 16 c) s.modId datum
  let s := s.updCore c fun k =>
    ((k.landTile at_ cart.bytes w.1).histAdd hslot w.2).flag (elemFlags w.2 ||| if flushed then fFlushed else 0)
  let s := s.overlayRecord c td.tensor cart.pcrc
  if rangeFails td.fmt bound cart.exphi src w.2 then
    if rstep then
      let s := s.updCore c fun k => { k with rangeFail := some (k.rangeFail.getD k.epoch) }
      .faultAs s .rangeStep .step dNone
    else .ok ((s.raise c pc seq dNone .rangeInfo .info).advanceFrontier c)
  else .ok (s.advanceFrontier c)

end Sys2Proof.Machine
end

