-- ==== Sys2Proof/Machine/Devices.lean ====
section
/-! DEFINITION. Device accesses: mesh routes and endpoints, the requests of cores, reads and writes by units of the module
(spec/04 R140, R141; spec/06 R219, R220; spec/07 R252 to R262, R271, R277, R543). -/

namespace Sys2Proof.Machine

/-! ### Mesh routes and endpoints (spec/06 R219, R220; spec/07 R258; spec/09 R342) -/

/-- Whether a coordinate lies between two others, ends included. -/
def between (a b x : Nat) : Bool := (decide (a ≤ x) && decide (x ≤ b)) || (decide (b ≤ x) && decide (x ≤ a))

/-- Whether the X-then-Y route from one position to another crosses the router of core `d` (R220). -/
def onRoute (a b d : CoreId) : Bool :=
  (coreY d == coreY a && between (coreX a) (coreX b) (coreX d))
  || (coreX d == coreX b && between (coreY a) (coreY b) (coreY d))

/-- Whether the way there or back leads through the router of a core behind a closed wrapper: transfers through it end with
ERR_ISOLATED (spec/06 R224). -/
def State.cut (s : State) (a b : CoreId) : Bool :=
  s.svr.closed.any fun x => match x with
    | .core d => onRoute a b d || onRoute b a d
    | _ => false

/-- The edge on which the controllers of a local address sit: north for H0 to H3, south for H4 to H7 (R258). -/
def memEdge (a : Nat) : BitVec 3 := if a / 4096 % 8 < 4 then 1 else 2

/-- The core beside the endpoint that serves a local address (R258). -/
def memHome (a : Nat) : CoreId :=
  coreAt (40 * (a / 4096 % 4) + 20 * (a / 32768 % 2) + a / 256 % 16) (if a / 4096 % 8 < 4 then 0 else 159)

/-- The core on the east edge beside which a packet meets the ports of margin die `die`, `y` being the row of the core that
sends it to the fabric or receives it (R342). -/
def fabricHome (die y : Nat) : CoreId := coreAt 159 (80 * die + y % 80)

/-- The margin die of a port: 0 for M2, 1 for M3 (spec/01 R16). -/
def dieOf (port : Nat) : Nat := port / 6

/-- The margin die of the port that the route table names for a module (R341). -/
def State.dieTo (s : State) (m : BitVec 15) : Nat := dieOf ((Sparse.get 0 s.fab.routes m.toNat).toNat % 16)

/-- The mesh position at which a packet for this module starts: its sender, the endpoint beside which it enters from the
fabric, or the transfer engines. -/
def State.startOf (s : State) (p : Packet) : CoreId :=
  if p.smod != s.modId then fabricHome (s.dieTo p.smod) (coreY p.dst.toNat)
  else if p.src = 0xFFFF then xferHome else p.src.toNat

/-- Whether the route of a packet of this module, or its answer's, leads through a closed router. -/
def State.cutPacket (s : State) (p : Packet) : Bool := s.cut (s.startOf p) p.dst.toNat

/-- The controller of a page: stack A[14:12], controller A[15] (spec/07 R257). -/
def controllerOf (page : Nat) : Block := .controller (page % 8) (page / 8 % 2)

/-- Whether a local range touches a controller behind a closed wrapper (spec/13 R479). -/
def State.memIsolated (s : State) (a n : Nat) : Bool := (pagesOf a n).any fun g => s.svr.closed.contains (controllerOf g)

/-- What a read of device bytes by a unit of this module comes to. -/
inductive DevRead where
  | bytes (bs : List Byte)
  | poison (page : Nat)
  | fault (code : FCode)

/-- Reads `n` bytes at a translated address for a unit that makes no mesh requests: a reduction engine, the queue front end,
the host interface. Board windows and core-store windows are for cores and transfer engines alone (spec/07 Table 7-1). -/
def State.unitRead (s : State) (a n : Nat) : DevRead :=
  match spaceOf a with
  | .memory =>
    if s.memIsolated a n then .fault .isolated
    else match s.poisonIn a n with
      | some g => .poison g
      | none => .bytes (s.mem.bytes.readBytes a n)
  | _ => .fault .access

/-- Such a unit writes bytes at a translated address: none where it may not or cannot. -/
def State.unitPut (s : State) (a : Nat) (bs : List Byte) : Option State :=
  match spaceOf a with
  | .memory => if s.memIsolated a bs.length then none else some (s.memWrite a bs)
  | _ => none

/-- A write of such a unit, without effect where it cannot be made. -/
def State.unitWrite (s : State) (a : Nat) (bs : List Byte) : State := (s.unitPut a bs).getD s

/-- Whether a write by another core or engine is held: a pending-read granule (spec/07 R287), a granule held for
triangulation (spec/08 R306). -/
def Core.holdsWrite (k : Core) (a n : Nat) : Bool :=
  (k.pends.any fun p => !p.wr && overlap64 p.lo p.len a n) || k.triHeld a n

/-! ### Requests (spec/07 R255, R258 to R260, R543) -/

/-- The module that a board-window address reaches. -/
def State.windowModule (s : State) (a : Nat) : BitVec 15 := s.boardPeer ((a - winBase 0) / memTop)

/-- Whether a translated address lies in another module. -/
def farAddr (a : Nat) : Bool := match spaceOf a with | .window _ => true | _ => false

/-- The position that serves a translated address. -/
def homeOf (a : Nat) : CoreId :=
  match spaceOf a with
  | .store d _ => d
  | _ => memHome (a % memTop)

/-- A memory request: to the core whose store holds the address, or to the endpoint of its controller, in this module or, for
a board window, in the module of that slot, where it names the local address (R255, R258, Table 7-2). -/
def State.reqPacket (s : State) (src : W16) (typ : PType) (tag : W32) (a n : Nat) : Packet :=
  let far := farAddr a
  { typ := typ
    edge := match spaceOf a with | .store _ _ => 0 | _ => memEdge (a % memTop)
    dst := BitVec.ofNat 16 (homeOf a), src := src, dlocal := !far, dmod := if far then s.windowModule a else 0
    smod := s.modId, msgid := tag, len := BitVec.ofNat 32 n, ext := extOf (if far then a % memTop else a) }

/-- Records an access of core `c` whose first request is for address `a`, with `n` answers to come. -/
def State.opened (s : State) (c : CoreId) (use : RemoteUse) (base a n : Nat) (pc : BitVec 18) (seq : Nat) : State :=
  let peer := if farAddr a then s.windowModule a else s.modId
  s.updCore c fun k => { k with
    msgid := k.msgid + 1, remotes := k.remotes ++ [⟨k.msgid, peer, homeOf a, farAddr a, use, base, n, [], pc, seq⟩] }

/-- Core `c` reads device bytes: the requests leave, each with the place of its bytes among those received. -/
def State.askFor (s : State) (c : CoreId) (use : RemoteUse) (base : Nat) (reqs : List (Nat × Nat × Nat)) (pc : BitVec 18)
    (seq : Nat) : State :=
  let tag := (s.core c).msgid
  (s.opened c use base (reqs.headD (0, 0, 0)).1 reqs.length pc seq).sendAll (reqs.map fun x =>
    { s.reqPacket (BitVec.ofNat 16 c) .mrd tag x.1 x.2.1 with off := BitVec.ofNat 32 x.2.2 })

/-- Core `c` writes device bytes: the write requests leave. -/
def State.putAt (s : State) (c : CoreId) (ws : List (Nat × List Byte)) (pencil : Bool) (pc : BitVec 18) (seq : Nat)
    (detail : Byte := dNone) : State :=
  let tag := (s.core c).msgid
  let a := (ws.headD (0, [])).1
  (s.opened c (.store detail) a a ws.length pc seq).sendAll (ws.map fun w =>
    { s.reqPacket (BitVec.ofNat 16 c) .mwr tag w.1 w.2.length with payload := w.2, pencil := pencil })

/-- Splits a range at 256-byte boundaries (spec/07 R259). `f` bounds the number of pieces. -/
def pieces : Nat → Nat → Nat → List (Nat × Nat)
  | 0, _, _ => []
  | f + 1, a, n =>
    if n = 0 then []
    else
      let m := if n < 256 - a % 256 then n else 256 - a % 256
      (a, m) :: pieces f (a + m) (n - m)

/-- The pieces of a range. -/
def pieces256 (a n : Nat) : List (Nat × Nat) := pieces (n / 256 + 2) a n

/-- Bytes from address `a` cut into pieces with their addresses. -/
def cutBytes (a : Nat) (bs : List Byte) : List (Nat × List Byte) :=
  (pieces256 a bs.length).map fun x => (x.1, (bs.drop (x.1 - a)).take x.2)

/-- The bytes of a core-store tile that a reader of it reads: the cartouche, and the payload its PLEN names. -/
def Core.tileSpan (k : Core) (a : Nat) : Nat := 64 + up64 (Cart.parse (k.loadBytes a 64)).plen.toNat

/-- Whether a core's outputs up to its most recent conversion are inked (spec/04 R141). -/
def Core.allInked (k : Core) : Bool := covers k.frontier k.epoch

/-- Whether a foreign entry on which epoch `e` depends was answered DEAD (spec/08 R316, R319). -/
def Core.dependsDead (k : Core) (e : W32) : Bool := k.foreign.any fun f => match f.isDead with | some v => covers e (v + 1) | none => false

/-- Bytes of a load as the register receives them (spec/04 Table 4-5). -/
def loadSize : LoadOp → Nat
  | .ldb => 1
  | .ldbu => 1
  | .ldh => 2
  | .ldhu => 2
  | .ldw => 4
  | .ldwu => 4
  | .ldd => 8

def loadExtend (op : LoadOp) (v : Nat) : W64 :=
  match op with
  | .ldb => (BitVec.ofNat 8 v).signExtend 64
  | .ldh => (BitVec.ofNat 16 v).signExtend 64
  | .ldw => (BitVec.ofNat 32 v).signExtend 64
  | .ldd => BitVec.ofNat 64 v
  | .ldbu => (BitVec.ofNat 8 v).setWidth 64
  | .ldhu => (BitVec.ofNat 16 v).setWidth 64
  | .ldwu => (BitVec.ofNat 32 v).setWidth 64

def storeBytesOf : StoreOp → Nat
  | .stb => 1
  | .sth => 2
  | .stw => 4
  | .std => 8

end Sys2Proof.Machine
end

