-- ==== Sys2Proof/Machine/Tiles.lean ====
section
/-! DEFINITION. Tile descriptors and tile instructions (spec/04 R144 to R151, spec/07 R265, R285 to R289). -/

namespace Sys2Proof.Machine

/-! ### Descriptors in memory (spec/04 Table 4-8) -/

/-- Reads a descriptor from 64 bytes; reserved bits and bytes read as zero (R147). -/
def descOf (bs : List Byte) : Desc :=
  { addr := BitVec.ofNat 64 (field bs 0 8), fmt := BitVec.ofNat 4 (field bs 8 1)
    bsize := BitVec.ofNat 2 (field bs 9 1 / 16), survey := (field bs 9 1).testBit 3
    rows := BitVec.ofNat 16 (field bs 0xA 2), cols := BitVec.ofNat 16 (field bs 0xC 2)
    version := BitVec.ofNat 32 (field bs 0x10 4), tensor := BitVec.ofNat 32 (field bs 0x14 4)
    step := BitVec.ofNat 32 (field bs 0x18 4), rstride := BitVec.ofNat 32 (field bs 0x1C 4)
    ebase := BitVec.ofNat 64 (field bs 0x20 8), tcoord := BitVec.ofNat 32 (field bs 0x28 4) }

/-- The CTL byte. -/
def descCtl (d : Desc) : Nat := 16 * d.bsize.toNat + if d.survey then 8 else 0

/-- The 64 bytes of a descriptor, reserved ones zero. -/
def descBytes (d : Desc) : List Byte :=
  leBytes 8 d.addr.toNat ++ leBytes 1 d.fmt.toNat ++ leBytes 1 (descCtl d) ++ leBytes 2 d.rows.toNat
  ++ leBytes 2 d.cols.toNat ++ leBytes 2 0 ++ leBytes 4 d.version.toNat ++ leBytes 4 d.tensor.toNat
  ++ leBytes 4 d.step.toNat ++ leBytes 4 d.rstride.toNat ++ leBytes 8 d.ebase.toNat ++ leBytes 4 d.tcoord.toNat
  ++ List.replicate 20 0

/-- Field selectors (spec/04 Table 4-9); none for a reserved value. -/
inductive DField where
  | addr | fmtctl | rows | cols | version | tensor | step | rstride | ebase | tcoord
  deriving DecidableEq, Repr

def dField (sel : BitVec 6) : Option DField :=
  [DField.addr, .fmtctl, .rows, .cols, .version, .tensor, .step, .rstride, .ebase, .tcoord][sel.toNat]?

/-- The value of a field, zero-extended. -/
def getField (d : Desc) : DField → W64
  | .addr => d.addr
  | .fmtctl => BitVec.ofNat 64 (d.fmt.toNat + 256 * descCtl d)
  | .rows => d.rows.setWidth 64
  | .cols => d.cols.setWidth 64
  | .version => d.version.setWidth 64
  | .tensor => d.tensor.setWidth 64
  | .step => d.step.setWidth 64
  | .rstride => d.rstride.setWidth 64
  | .ebase => d.ebase
  | .tcoord => d.tcoord.setWidth 64

/-- Sets a field from the low bits of a value; reserved bits are zero (R147). -/
def setField (d : Desc) (v : W64) : DField → Desc
  | .addr => { d with addr := v }
  | .fmtctl => { d with fmt := v.setWidth 4, bsize := (v >>> 12).setWidth 2, survey := v.getLsbD 11 }
  | .rows => { d with rows := v.setWidth 16 }
  | .cols => { d with cols := v.setWidth 16 }
  | .version => { d with version := v.setWidth 32 }
  | .tensor => { d with tensor := v.setWidth 32 }
  | .step => { d with step := v.setWidth 32 }
  | .rstride => { d with rstride := v.setWidth 32 }
  | .ebase => { d with ebase := v }
  | .tcoord => { d with tcoord := v.setWidth 32 }

/-- tadd accepts ADDR, VERSION, STEP, EBASE and TCOORD only (R147). -/
def taddField : DField → Bool
  | .addr => true
  | .version => true
  | .step => true
  | .ebase => true
  | .tcoord => true
  | _ => false

/-- The local offset of tdl and tds (R147). -/
def tileOff (a : W64) : Option Nat := if a.toNat % 64 = 0 ∧ a.toNat < storeSize then some a.toNat else none

def execTdl (c : CoreId) (td ra : Reg) (imm : BitVec 11) (s : State) : Host.Outcome State Fault Refusal :=
  issue c 4 [ra] (fun k =>
    if badT td then .fault s .featureUnsupported dNone
    else match tileOff (k.gr ra + imm.signExtend 64 * 64) with
      | none => .fault s .access dNone
      | some a =>
        match k.readBar a 64 with
        | some cause => .stall s cause
        | none =>
          if !k.clean a 64 then .fault s .csumAtUse dNone
          else .ok (s.updCore c fun k => k.setDesc td (descOf (k.loadBytes a 64)))) s

def execTds (c : CoreId) (td ra : Reg) (imm : BitVec 11) (s : State) : Host.Outcome State Fault Refusal :=
  issue c 4 [ra] (fun k =>
    if badT td then .fault s .featureUnsupported dNone
    else match tileOff (k.gr ra + imm.signExtend 64 * 64) with
      | none => .fault s .access dNone
      | some a =>
        (s.forWrite c a 64).andThen fun s => .ok (s.updCore c fun k => k.storeBytes a (descBytes (k.desc td)))) s

def execTset (c : CoreId) (td rb : Reg) (sel : BitVec 6) (s : State) : Host.Outcome State Fault Refusal :=
  issue c 4 [rb] (fun k =>
    if badT td then .fault s .featureUnsupported dNone
    else match dField sel with
      | none => .fault s .featureUnsupported dNone
      | some f => .ok (s.updCore c fun j => j.setDesc td (setField (k.desc td) (k.gr rb) f))) s

def execTget (c : CoreId) (rd ta : Reg) (sel : BitVec 6) (s : State) : Host.Outcome State Fault Refusal :=
  issue c 4 [rd] (fun k =>
    if badT ta then .fault s .featureUnsupported dNone
    else match dField sel with
      | none => .fault s .featureUnsupported dNone
      | some f => .ok (s.updCore c fun j => j.setG rd (getField (k.desc ta) f))) s

def execTadd (c : CoreId) (td rb : Reg) (sel : BitVec 6) (s : State) : Host.Outcome State Fault Refusal :=
  issue c 4 [rb] (fun k =>
    if badT td then .fault s .featureUnsupported dNone
    else match dField sel with
      | none => .fault s .featureUnsupported dNone
      | some f =>
        if taddField f then
          .ok (s.updCore c fun j => j.setDesc td (setField (k.desc td) (getField (k.desc td) f + k.gr rb) f))
        else .fault s .featureUnsupported dNone) s

def execTcopy (c : CoreId) (td ta : Reg) (s : State) : Host.Outcome State Fault Refusal :=
  issue c 4 [] (fun k =>
    if badT td || badT ta then .fault s .featureUnsupported dNone
    else .ok (s.updCore c fun j => j.setDesc td (k.desc ta))) s

/-! ### tld (R148) -/

/-- Where a tile is read or written. -/
inductive TilePlace where
  | own (a : Nat)
  | store (d : CoreId) (a : Nat)
  | memory (cart payload : Nat)
  | window (cart payload : Nat)
  | bad
  deriving DecidableEq, Repr

/-- Whether a place lies in another module. -/
def TilePlace.far : TilePlace → Bool
  | .window _ _ => true
  | _ => false

/-- The place that an ADDR names, with the access checks made for `n` bytes of tile in a core store, a whole slot in
memory (R148, R149, spec/07 R252 to R268). -/
def State.tilePlace (s : State) (c : CoreId) (write : Bool) (addr : W64) (n : Nat) : TilePlace :=
  match ownOff c addr.toNat with
  | some o => if o % 64 = 0 ∧ o + n ≤ storeSize then .own o else .bad
  | none =>
    let a := s.translate addr.toNat
    match s.partOf c with
    | none => .bad
    | some p =>
      match spaceOf a with
      | .store d off => if off % 64 = 0 ∧ off + n ≤ storeSize ∧ s.accessOk p write a n then .store d off else .bad
      | .memory =>
        if s.slotOk a ∧ s.accessOk p write a 4096 ∧ s.accessOk p write (s.cartAddr a) 64 then
          .memory (s.cartAddr a) a else .bad
      | .window _ =>
        if s.slotOk a ∧ s.accessOk p write a 4096 ∧ s.accessOk p write (s.cartAddr a) 64 then
          .window (s.cartAddr a) a else .bad
      | _ => .bad

/-- R148 steps 2 and 3 on a tile that has been read. -/
def tileAccept (cap : Nat) (cart : List Byte) (payload : Nat → List Byte) : Except FCode (List Byte) :=
  let plen := (Cart.parse cart).plen.toNat
  if !hcrcOk cart then .error .csumAtUse
  else if up64 (64 + plen) > cap then .error .descBounds
  else .ok (payload plen)

/-- The tile at an offset of the core's own store, as a tld of it reads it; `cap` bounds the tile. -/
def Core.readTile (k : Core) (a cap : Nat) : Except FCode (List Byte × List Byte) :=
  if !k.clean a 64 then .error .csumAtUse
  else match tileAccept cap (k.loadBytes a 64) (k.loadBytes (a + 64)) with
    | .error e => .error e
    | .ok p =>
      if a + 64 + p.length > storeSize then .error .access
      else if k.clean (a + 64) p.length then .ok (k.loadBytes a 64, p) else .error .csumAtUse

/-- The requests for a tile, each with its place among the bytes received: the cartouche, then the payload that a capacity
holds (spec/07 R259). A tile in a core store lies in one piece (R134). -/
def TilePlace.reqs (pl : TilePlace) (cap base : Nat) : List (Nat × Nat × Nat) :=
  let of (ca pa n : Nat) := (ca, 64, base) :: (pieces256 pa n).map fun x => (x.1, x.2, base + 64 + (x.1 - pa))
  match pl with
  | .store d a =>
    of (storeBase d + a) (storeBase d + a + 64) (if storeSize < a + cap then storeSize - a - 64 else cap - 64)
  | .memory ca pa => of ca pa (cap - 64)
  | .window ca pa => of ca pa (cap - 64)
  | _ => []

/-- Places a tile at its landing address with its transfer in flight until TRANSFER_DONE (R151, R167). -/
def Core.landFlight (k : Core) (dst cap : Nat) (cart payload : List Byte) : Core :=
  let id := k.uid
  ({ k.landTile dst cart payload with uid := k.uid + 1, flights := k.flights ++ [⟨id, false, false, k.seq⟩] } : Core).pend
    ⟨true, dst, cap, .xfer id⟩

/-- The prefetch slot for a source (R172). -/
def Core.slotFor (k : Core) (a : W64) : Option Slot := k.slots.find? fun x => x.addr == a

/-- Frees a prefetch slot, with the reads that were to fill it (R172). -/
def Core.freeSlot (k : Core) (i : Nat) : Core :=
  { k with slots := k.slots.filter (·.idx != i), remotes := k.remotes.filter fun r => r.use != .prefetch i }

/-- A wait for one of the 16 transfer slots (R151). -/
def Core.flightBar (k : Core) : List Nat := if 16 ≤ k.flights.length then [k.flightCause] else []

/-- Frees every prefetch slot (R172). -/
def Core.freeSlots (k : Core) : Core :=
  { k with slots := [], remotes := k.remotes.filter fun r => match r.use with | .prefetch _ => false | _ => true }

def execTld (c : CoreId) (td ts : Reg) (s : State) : Host.Outcome State Fault Refusal :=
  issue c 4 [] (fun k =>
    if badT td || badT ts then .fault s .featureUnsupported dNone
    else
      let d := k.desc td
      let src := k.desc ts
      match capacity d with
      | none => .fault s .formatMismatch (dDesc td)
      | some cap =>
        match ownTile c d.addr cap with
        | none => .fault s .access (dDesc td)
        | some dst =>
          let pl := s.tilePlace c false src.addr 64
          let bars := k.flightBar ++ (match pl with | .own a => (k.readBar a (k.tileSpan a)).toList | _ => [])
          ((s.forWrite c dst cap).also bars).andThen fun s =>
            let slot := k.slotFor src.addr
            let s := match slot with
              | some x => s.updCore c fun k => k.freeSlot x.idx
              | none => s
            match pl with
            | .bad => .fault s .access (dDesc ts)
            | _ =>
              let hit := match slot with
                | some ⟨_, _, _, some bs⟩ =>
                  if src.version ≠ 0 ∧ (Cart.parse (bs.take 64)).version = src.version then some bs else none
                | _ => none
              match hit, pl with
              | some bs, _ =>
                match tileAccept cap (bs.take 64) (fun n => (bs.drop 64).take n) with
                | .error e => .fault s e (dDesc (if e = .descBounds then td else ts))
                | .ok p => .ok (s.updCore c fun k => k.landFlight dst cap (bs.take 64) p)
              | none, .own a =>
                match k.readTile a cap with
                | .error e => .fault s e (dDesc (if e = .descBounds then td else ts))
                | .ok x => .ok (s.updCore c fun k => k.landFlight dst cap x.1 x.2)
              | none, _ =>
                -- the answers to its reads complete the tld
                let s := s.askFor c (.tile d k.uid ts td) dst (pl.reqs cap 0) k.pc k.seq
                .ok (s.updCore c fun k => ({ k with
                  uid := k.uid + 1, flights := k.flights ++ [⟨k.uid, false, pl.far, k.seq⟩] } : Core).pend
                    ⟨true, dst, cap, .xfer k.uid⟩)) s

/-! ### tst (R149, R150) -/

/-- Whether a checked tile of a producer may be written where only inked data goes (spec/08 R318, R319). -/
inductive InkWait where
  | go | wait | dead
  deriving DecidableEq, Repr

/-- The state of inking of a tile that core `c` has consumed: its own epochs by its frontier and dead ranges, a
foreign one by the answer to its query; a retired entry was inked. -/
def State.inkWait (s : State) (c : CoreId) (t : Cart) : InkWait :=
  let k := s.core c
  if !t.pencil then .go
  else if t.module == s.modId && t.core.toNat == c then
    if (s.ink c).isDead t.epoch then .dead else if covers k.frontier t.epoch then .go else .wait
  else match k.foreign.find? fun f => f.pmod == t.module && f.pcore == t.core with
    | none => .go
    | some f =>
      if f.isDead.isSome then .dead
      else match f.covered with
        | some v => if covers v t.epoch then .go else .wait
        | none => .wait

/-- Whether this instruction's use of the tile was recorded at an earlier attempt. -/
def Core.heldHere (k : Core) (t : Cart) : Bool :=
  match k.hold with
  | some h => h.seq == k.seq && h.pmod == t.module && h.pcore == t.core && h.epoch == t.epoch
  | none => false

/-- A payload filled with zeros to a tile slot's 4,096 bytes (spec/02 R45). -/
def slotFill (payload : List Byte) : List Byte := payload ++ List.replicate (4096 - payload.length) 0

/-- The writes of a tile to its place, in pieces: the payload, zeros behind it in a tile slot, and the cartouche after
them. -/
def TilePlace.writes (pl : TilePlace) (raw payload : List Byte) : List (Nat × List Byte) :=
  match pl with
  | .store d a => cutBytes (storeBase d + a) (tileBytes raw payload)
  | .memory ca pa => cutBytes pa (slotFill payload) ++ [(ca, raw)]
  | .window ca pa => cutBytes pa (slotFill payload) ++ [(ca, raw)]
  | _ => []

/-- Writes a tile to its place: in the own store at once, elsewhere by write requests (R149). -/
def State.writeTile (s : State) (c : CoreId) (pl : TilePlace) (raw payload : List Byte) (pencil : Bool) (pc : BitVec 18)
    (seq : Nat) (detail : Byte) : State :=
  match pl with
  | .own a => s.updCore c fun k => k.storeBytes a (tileBytes raw payload)
  | _ => s.putAt c (pl.writes raw payload) pencil pc seq detail

/-- Whether a place lies in an INK region of the core's partition (spec/07 R271). -/
def State.placeInk (s : State) (c : CoreId) (pl : TilePlace) : Bool :=
  let p := (s.partOf c).getD 16
  match pl with
  | .memory ca pa => s.inkRegion p pa 4096 || s.inkRegion p ca 64
  | .window ca pa => s.inkRegion p pa 4096 || s.inkRegion p ca 64
  | _ => false

/-- A tst after its checks: the hold for inking, then the write; the source stays pending-read until TRANSFER_DONE. -/
def tstWrite (c : CoreId) (td : Reg) (t : Tile) (pl : TilePlace) (s : State) : Res :=
  let k := s.core c
  match (if s.placeInk c pl then s.inkWait c t.cart else InkWait.go) with
  | .dead => .fault s .access (dDesc td)
  | .wait =>
    .stall (s.updCore c fun k => { k with hold := some ⟨k.seq, t.cart.module, t.cart.core, t.cart.epoch⟩ }) 4
  | .go =>
    let s := s.writeTile c pl t.raw t.payload (t.cart.pencil && !s.placeInk c pl) k.pc k.seq (dDesc td)
    .ok (s.updCore c fun j =>
      (({ j with uid := k.uid + 1, flights := j.flights ++ [⟨k.uid, true, pl.far, k.seq⟩] } : Core).touchTag t.at_
        t.cart.plen.toNat).pend ⟨false, t.at_, 64 + up64 t.cart.plen.toNat, .xfer k.uid⟩)

def execTst (c : CoreId) (td ts : Reg) (s : State) : Host.Outcome State Fault Refusal :=
  issue c 4 [] (fun k =>
    if badT td || badT ts then .fault s .featureUnsupported dNone
    else
      let src := k.desc ts
      match ownTile c src.addr 64 with
      | none => .fault s .access (dDesc ts)
      | some a =>
        let span := k.tileSpan a
        let pl := s.tilePlace c true (k.desc td).addr span
        let bars := k.flightBar ++ (k.readBar a span).toList
        ((match pl with | .own o => s.forWrite c o span | _ => .ok s).also bars).andThen fun s =>
          if pl = TilePlace.bad then .fault s .access (dDesc td)
          else match (s.core c).useTile a (some src.fmt) with
            | .error e => .fault s e (dDesc ts)
            | .ok t =>
              if (s.core c).heldHere t.cart then tstWrite c td t pl s
              else match s.consumeTile c t.cart with
                | .full => .stall s 4
                | .access => .fault s .access (dDesc ts)
                | .ok s => tstWrite c td t pl s) s

/-- A tld has written its last byte, or a tst has read its source: its slot and pending range end (R151, R167). A tld whose
tile has not come is not done. -/
def execTransferDone (c : CoreId) (id : Nat) (s : State) : Host.Outcome State Fault Refusal :=
  let k := s.core c
  if !coreExists c || k.awaits id then .next s
  else .next (s.updCore c fun k => { k with flights := k.flights.filter (·.id != id) }.unpend (.xfer id))

/-! ### The end of a running mseg (spec/05 R183, R197) -/

/-- Ends a running mseg; its operands stay pending-read until the operand stage frees. -/
def Core.endMseg (k : Core) : Core := { k with mseg := none }

/-- An adapter buffer whose load was given up holds no adapter. -/
def loadedOnly (t : Option AdapterTag) : Option AdapterTag := if t.any (·.loaded) then t else none

/-- A fault of an mseg that has issued: its loads and its run end, and it is raised at the instruction. -/
def State.failMseg (s : State) (c : CoreId) (m : MsegRun) (code : FCode) : State :=
  (s.updCore c fun k =>
    let k := k.endMseg
    { k with stage := none, abuf0 := loadedOnly k.abuf0, abuf1 := loadedOnly k.abuf1
             remotes := k.remotes.filter fun r => r.use != .adapter 0 && r.use != .adapter 1
             pends := k.pends.filter fun p => match p.owner with
               | .abuf _ => false
               | .stage => false
               | _ => true }).raise c m.pc m.seq dNone code code.cls

end Sys2Proof.Machine
end

