-- ==== Sys2Proof/Machine/Message.lean ====
section
/-! DEFINITION. Messages, remote accumulation and arrivals on landing (spec/04 R152 to R158, spec/06 R227 to R235,
spec/03 R128). -/

namespace Sys2Proof.Machine

/-! ### Arrivals (spec/06 R245, R246) -/

/-- An arrival of core `c` at a waypoint: bytes 0x2C to 0x2F name the producer of a landed tile or contribution, byte
0x30 tells such an arrival from a warr (log 26). -/
def State.arrivalPacket (s : State) (c : CoreId) (wp : W16) (pencil : Bool) (epoch : W32) (landed : Option (BitVec 15 × W16)) :
    Packet :=
  { typ := .warr, edge := 5, dst := BitVec.ofNat 16 (wpHomeCore wp.toNat), src := BitVec.ofNat 16 c, smod := s.modId
    wpid := wp, pencil := pencil, epoch := epoch
    ext := match landed with
      | some (m, k) => extOf (k.toNat + 2 ^ 16 * m.toNat + 2 ^ 32)
      | none => 0 }

/-- Whether a waypoint is homed on the partition's sheets (R233, R236). -/
def State.wpOk (s : State) (p w : Nat) : Bool := (s.part p).hasSheet (wpHome w)

/-- The arrival that core `c` makes after a landing; a waypoint homed outside its partition is refused (R233). -/
def State.arriveFor (s : State) (c : CoreId) (wp : W16) (pencil : Bool) (epoch : W32) (pmod : BitVec 15) (pcore : W16) :
    State :=
  match s.partOf c with
  | none => s
  | some p =>
    if s.wpOk p wp.toNat then s.send (s.arrivalPacket c wp pencil epoch (some (pmod, pcore)))
    else s.raiseJob p (some c) .access .job

/-! ### Destinations (spec/04 R152, spec/06 R233, spec/09 R359) -/

/-- Where a destination word leads. -/
inductive Dest where
  | core (d : W16)
  | context (ctx : Nat)
  | away (m : BitVec 15) (d : W16)
  | bad
  deriving DecidableEq, Repr

/-- Reads a destination word for core `c`; `ctxOk` says that collective contexts may be named (xsend). A core of the own
module outside the partition is refused by the router, not here (R233). -/
def State.dest (s : State) (c : CoreId) (w : W64) (ctxOk : Bool) : Dest :=
  let d : W16 := w.setWidth 16
  let m : BitVec 15 := (w >>> 16).setWidth 15
  let loc := w.getLsbD 31
  match s.partOf c with
  | none => .bad
  | some p =>
    if 0xFF00 ≤ d.toNat then (if loc && ctxOk then .context (d.toNat % 256) else .bad)
    else if loc || m == s.modId then .core d
    else if s.inPlan p m then .away m d else .bad

/-- The request of a message or contribution: MRTS, or the first ACC segment (R227, R229). -/
def State.request (s : State) (c : CoreId) (m : Send) : Packet :=
  let base : Packet :=
    { typ := .mrts, edge := if 0xFF00 ≤ m.dst.toNat then 4 else 0, dst := m.dst, src := BitVec.ofNat 16 c
      dlocal := m.dlocal, dmod := m.dmod, smod := s.modId, wpid := m.wp, warr := m.warr, pencil := m.pencil
      chan := m.chan, msgid := m.msgid, len := BitVec.ofNat 32 m.len, epoch := m.epoch }
  if m.acc then { base with typ := .acc, arg := m.datum.setWidth 32, payload := m.data.take 256 } else base

/-- A packet of core `c` to its own module enters the mesh; where `ok` is false its router discards it and reports ACCESS
against the core's job (R233). -/
def State.routed (s : State) (c : CoreId) (ok : Bool) (p : Packet) : State :=
  if ok then s.send p
  else match s.partOf c with
    | some q => s.raiseJob q (some c) .access .job
    | none => s

/-- Whether a send leads to another module, a context, or a core of the sender's partition. -/
def State.within (s : State) (c : CoreId) (m : Send) : Bool :=
  !m.dlocal || decide (0xFF00 ≤ m.dst.toNat)
  || match s.partOf c with
    | some q => (s.part q).hasCore m.dst.toNat
    | none => false

/-- The request of a send leaves. -/
def State.sendRequest (s : State) (c : CoreId) (m : Send) : State := s.routed c (s.within c m) (s.request c m)

/-- Segment or payload packets of a send from byte `off`, 256 bytes each; `n` bounds their number. -/
def segments (base : Packet) (total : Nat) : Nat → Nat → List Byte → List Packet
  | 0, _, _ => []
  | n + 1, off, bs =>
    if bs.isEmpty then []
    else { base with off := BitVec.ofNat 32 off, payload := bs.take 256, last := decide (total ≤ off + 256) }
      :: segments base total n (off + 256) (bs.drop 256)

/-- Whether two sends go to one destination core and channel (R228). -/
def sameChannel (a b : Send) : Bool :=
  !a.acc && !b.acc && a.dst == b.dst && a.dlocal == b.dlocal && a.dmod == b.dmod && a.chan == b.chan

/-- Ends a send: its source range is released, and the next message to the same channel is asked for (R228). -/
def State.endSend (s : State) (c : CoreId) (m : Send) : State :=
  let s := s.updCore c fun k =>
    { k with sends := k.sends.filter (·.msgid != m.msgid) }.unpend (.send m.msgid)
  match (s.core c).sends.find? fun x => x.phase == .queued && sameChannel x m with
  | some x =>
    (s.updCore c fun k => { k with sends := k.sends.map fun y =>
      if y.msgid = x.msgid then { y with phase := .asked } else y }).sendRequest c { x with phase := .asked }
  | none => s

/-- Starts a send of core `c` (R156, R227, R228). -/
def State.beginSend (s : State) (c : CoreId) (m : Send) : State :=
  let busy := (s.core c).sends.any fun x => sameChannel x m
  let m := { m with phase := if busy then .queued else .asked }
  let s := s.updCore c fun k => { k with msgid := k.msgid + 1, sends := k.sends ++ [m] }
  if busy then s else s.sendRequest c m

/-- The source of a send has been read and its packets have left: it is in flight until the last of them lands (R156). -/
def State.sentSend (s : State) (c : CoreId) (m : Send) : State :=
  (s.endSend c m).updCore c fun k => { k with sent := k.sent ++ [m] }

/-- The parts of a destination. -/
def destParts : Dest → W16 × Bool × BitVec 15
  | .core d => (d, true, 0)
  | .context x => (BitVec.ofNat 16 (0xFF00 + x), true, 0)
  | .away m d => (d, false, m)
  | .bad => (0, true, 0)

/-- The source tile of xsend, xacc: read, checked by R61 and consumed (R155, R157, R312). -/
def sendTile (c : CoreId) (ts : Reg) (need : Option (BitVec 4)) (s : State) (g : Tile → State → Res) : Res :=
  let k := s.core c
  match ownTile c (k.desc ts).addr 64 with
  | none => .fault s .access (dDesc ts)
  | some a =>
    match k.readBar a (k.tileSpan a) with
    | some cause => .stall s cause
    | none =>
      match k.useTile a need with
      | .error e => .fault s e (dDesc ts)
      | .ok t =>
        match s.consumeTile c t.cart with
        | .full => .stall s 4
        | .access => .fault s .access (dDesc ts)
        | .ok s => g t (s.updCore c fun k => k.touchTag a t.cart.plen.toNat)

def execXsend (c : CoreId) (ra ts : Reg) (ch : BitVec 4) (warr : Bool) (wp : W16) (s : State) :
    Host.Outcome State Fault Refusal :=
  issue c 8 [ra] (fun k =>
    if badT ts then .fault s .featureUnsupported dNone
    else if 8 ≤ k.sends.length then .stall s 1
    else match s.dest c (k.gr ra) true with
      | .bad => .fault s .access dNone
      | d =>
        sendTile c ts (some (k.desc ts).fmt) s fun t s =>
          let bytes := tileBytes t.raw t.payload
          let p := destParts d
          let m : Send :=
            { msgid := k.msgid, acc := false, phase := .asked, dst := p.1, dlocal := p.2.1, dmod := p.2.2
              chan := ch.setWidth 8, addr := t.at_, len := bytes.length, data := [], datum := 0, warr := warr, wp := wp
              pencil := t.cart.pencil, epoch := k.epoch, pc := k.pc, seq := k.seq }
          .ok ((s.updCore c fun k => k.pend ⟨false, t.at_, bytes.length, .send m.msgid⟩).beginSend c m)) s

def execXrecv (c : CoreId) (td : Reg) (ch : BitVec 4) (s : State) : Host.Outcome State Fault Refusal :=
  issue c 4 [] (fun k =>
    if badT td then .fault s .featureUnsupported dNone
    else
      let d := k.desc td
      match capacity d with
      | none => .fault s .formatMismatch (dDesc td)
      | some cap =>
        match ownTile c d.addr cap with
        | none => .fault s .access (dDesc td)
        | some a =>
          if 16 ≤ k.recvs.length ∨ 4 ≤ (k.recvs.filter fun r => r.chan == ch.toNat).length then .stall s 1
          else (s.forWrite c a cap).andThen fun s =>
            .ok (s.updCore c fun k =>
              ({ k with uid := k.uid + 1, recvs := k.recvs ++ [⟨k.uid, ch.toNat, d, none, k.seq⟩] } : Core).pend
                ⟨true, a, cap, .recv k.uid⟩)) s

/-- The 16 bytes of an LP128 element (spec/03 R123, R110). -/
def lp128Bytes (d : Int) (x : Num) : List Byte := leBytes 16 (roundLong 128 d x).code

/-- xacc of a bank: the read of R97 and R110, an epoch of its own (spec/08 R310), and the overlay record. -/
def xaccBank (c : CoreId) (k : Core) (b : Nat) (s : State) (g : List Byte → W16 → State → Res) : Res :=
  match s.forBank c b with
  | .wait t cause => .stall t cause
  | .stopped t => .park t
  | .ok s =>
    if s.convBar c [b] then .stall s 7
    else match s.readyBank c b with
      | .repeats s => .stall s 6
      | .fault s e det => .fault s e det
      | .ok s =>
        let bk := (s.core c).bank b
        let data := (List.range 128).flatMap fun n => lp128Bytes bk.d (bk.value n)
        let s := (s.reportSat c k.pc k.seq [b]).updCore c fun k => k.newEpoch [b]
        let s := s.overlayRecord c (Config.overlayTensor 1) (crc32c data)
        g data (BitVec.ofInt 16 bk.d) (s.advanceFrontier c)

/-- The contribution that xacc queues. -/
def xaccSend (c : CoreId) (k : Core) (d : Dest) (bank : BitVec 2) (warr : Bool) (wp : W16) (at_ : Nat) (data : List Byte)
    (datum : W16) (pencil : Bool) (s : State) : State :=
  let p := destParts d
  s.beginSend c
    { msgid := k.msgid, acc := true, phase := .asked, dst := p.1, dlocal := p.2.1, dmod := p.2.2, chan := bank.setWidth 8
      addr := at_, len := data.length, data := data, datum := datum, warr := warr, wp := wp, pencil := pencil, epoch := (s.core c).epoch
      pc := k.pc, seq := k.seq }

def execXacc (c : CoreId) (ra src : Reg) (bank : BitVec 2) (tile warr : Bool) (wp : W16) (s : State) :
    Host.Outcome State Fault Refusal :=
  issue c 8 [ra] (fun k =>
    if (if tile then badT src else badBank src) then .fault s .featureUnsupported dNone
    else if 8 ≤ k.sends.length then .stall s 1
    else match s.dest c (k.gr ra) false with
      | .bad => .fault s .access dNone
      | d =>
        if tile then
          sendTile c src (some fmtLp128) s fun t s =>
            if t.cart.rows ≠ 8 ∨ t.cart.cols ≠ 16 then .fault s .descFormat (dDesc src)
            else
              let s := s.updCore c fun j => j.pend ⟨false, t.at_, 64 + 2048, .send k.msgid⟩
              .ok (xaccSend c k d bank warr wp t.at_ t.payload t.cart.datum t.cart.pencil s)
        else xaccBank c k src.toNat s fun data datum s => .ok (xaccSend c k d bank warr wp 0 data datum true s)) s

/-! ### The exchange at the receiver -/

/-- R224, R232, and the plan for a packet of another module: the refusal code, if any. -/
def State.rejects (s : State) (p : Packet) : Option Byte :=
  let d := p.dst.toNat
  if s.svr.closed.contains (.core d) || s.cutPacket p then some rcIsolated
  else match s.partOf d with
    | none => some rcAccess
    | some q => if p.smod == s.modId || s.inPlan q p.smod then none else some rcAccess

/-- The local slots of a context: LCNT, or T for a ring (spec/09 Table 9-5). An open instance has them from the descriptor it
read (spec/10 R391); before one opens they are those of the table. -/
def State.ctxSlots (s : State) (part ctx : Nat) : Nat :=
  let k := s.coll part ctx
  match (if k.opn then k.desc else none) with
  | some d => if d.op = 3 then d.tiles else d.lcnt
  | none =>
    let a := s.translate ((s.part part).ctab.toNat + 64 * ctx)
    if s.mem.bytes.readLE a 1 % 16 = 3 then s.mem.bytes.readLE (a + 2) 2 else s.mem.bytes.readLE (a + 4) 2

/-- Contributions to the contexts of the sender's partition: a free slot of the instance (spec/09 R359). -/
def State.ctxFree (s : State) (part ctx : Nat) : Bool := decide ((s.coll part ctx).slotsUsed < s.ctxSlots part ctx)

/-- The reduction engine that serves a context: 0 in M2, 1 in M3 (spec/09 R356). -/
def engineOf (ctx : Nat) : Block := .reductionEngine (ctx % 256 / 128)

def execMrts (p : Packet) (s : State) : Host.Outcome State Fault Refusal :=
  match s.arrive p with
  | none => .next s
  | some s =>
    if 0xFF00 ≤ p.dst.toNat then
      match s.partOf p.src.toNat with
      | none => .next s
      | some q =>
        if s.svr.closed.contains (engineOf (p.dst.toNat % 256)) then .next (s.send (s.reply p .mgnt rcIsolated))
        else if (s.part q).ctab = 0 ∨ (s.part q).gtab = 0 then .next (s.send (s.reply p .mgnt rcAccess))
        else if s.ctxFree q (p.dst.toNat % 256) then
          .next ((s.updColl q (p.dst.toNat % 256) fun x => { x with slotsUsed := x.slotsUsed + 1 }).send
            (s.reply p .mgnt rcOk))
        else .next (s.send (s.reply p .mgnt rcBounds))
    else match s.rejects p with
      | some code => .next (s.send (s.reply p .mgnt code))
      | none =>
        let c := p.dst.toNat
        match (s.core c).recvs.find? fun r => r.chan == p.chan.toNat % 16 && r.bound.isNone with
        | none => .next (s.send (s.reply p .mgnt rcNone))
        | some r =>
          if (capacity r.td).getD 0 < p.len.toNat then .next (s.send (s.reply p .mgnt rcBounds))
          else
            let s' := s.updCore c fun k => { k with recvs := k.recvs.map fun x =>
              if x.id = r.id then { x with bound := some ⟨p.smod, p.src, p.msgid⟩ } else x }
            .next (s'.send (s.reply p .mgnt rcOk))

/-- A refusal reaches the sender: the fault is raised at its xsend or xacc, and the send ends (R227, R232). -/
def State.failSend (s : State) (c : CoreId) (m : Send) (code : FCode) : State :=
  let det := if m.acc then dBank (m.chan.toNat % 4) else dChan (m.chan.toNat % 16)
  (s.endSend c m).raise c m.pc m.seq det code code.cls

/-- A message or contribution that has left meets a closed wrapper: ISOLATED is raised at its instruction (R232). -/
def State.lostSend (s : State) (c : CoreId) (acc : Bool) (msgid : W32) : State :=
  match (s.core c).sent.find? fun m => m.acc == acc && m.msgid == msgid with
  | some m =>
    let det := if m.acc then dBank (m.chan.toNat % 4) else dChan (m.chan.toNat % 16)
    (s.updCore c fun k => { k with sent := k.sent.filter (· != m) }).raise c m.pc m.seq det .isolated .job
  | none => s

/-- The packet that cancels a bound message (R227). -/
def State.cancelPacket (s : State) (c : CoreId) (m : Send) : Packet :=
  { s.request c m with typ := .mdata, code := rcCancel, last := true }

/-- MGNT for a message that core `c` has given up: a cancel answers OK, and the message is forgotten (R227). -/
def State.lateGrant (s : State) (c : CoreId) (m : Send) (code : Byte) : State :=
  let s := s.updCore c fun k => { k with givenUp := k.givenUp.filter (·.msgid != m.msgid) }
  if code = rcOk then s.send (s.cancelPacket c m) else s

def execMgnt (p : Packet) (s : State) : Host.Outcome State Fault Refusal :=
  match s.arrive p with
  | none => .next s
  | some s =>
    let c := p.dst.toNat
    let k := s.core c
    match k.sends.find? fun m => !m.acc && m.msgid == p.msgid && m.phase == .asked with
    | none =>
      match k.givenUp.find? fun m => m.msgid == p.msgid with
      | some m => .next (s.lateGrant c m p.code)
      | none => .next (if p.code = rcIsolated then s.lostSend c false p.msgid else s)
    | some m =>
      if p.code = rcOk then
        if !k.clean m.addr m.len then
          .next ((s.failSend c m .csumAtUse).send (s.cancelPacket c m))
        else
          -- the tile is read now (step 5)
          let bytes := k.loadBytes m.addr m.len
          let base := { s.request c m with typ := .mdata, pencil := (Cart.parse (bytes.take 64)).pencil }
          .next ((s.sendAll (segments base m.len (m.len / 256 + 1) 0 bytes)).sentSend c m)
      else if p.code = rcBounds then .next (s.failSend c m .descBounds)
      else if p.code = rcNone then
        .next (s.updCore c fun k => { k with sends := k.sends.map fun x =>
          if x.msgid = m.msgid then { x with phase := .retry } else x })
      else if p.code = rcIsolated then .next (s.failSend c m .isolated)
      else if p.code = rcAccess then .next (s.failSend c m .access)
      else .next s

/-- 64 mesh cycles after NONE the engine asks again (R227). -/
def execMrtsRetry (c : CoreId) (msgid : W32) (s : State) : Host.Outcome State Fault Refusal :=
  match (s.core c).sends.find? fun m => !m.acc && m.msgid == msgid && m.phase == .retry with
  | none => .next s
  | some m =>
    .next ((s.updCore c fun k => { k with sends := k.sends.map fun x =>
      if x.msgid = m.msgid then { x with phase := .asked } else x }).sendRequest c m)

/-- A cancelled message to a context of the sender's partition: what has come of it is dropped, its slot is free. -/
def State.dropContribution (s : State) (p : Packet) : State :=
  match s.partOf p.src.toNat with
  | none => s
  | some q =>
    { s.updColl q (p.dst.toNat % 256) fun x => { x with slotsUsed := x.slotsUsed - 1 } with
      net := s.net.filter fun x =>
        !(x.typ == .mdata && x.smod == p.smod && x.src == p.src && x.dst == p.dst && x.msgid == p.msgid) }

/-- The end of a landing: the tag, the pending range, the arrival (R227, spec/07 R285). -/
def State.landed (s : State) (c : CoreId) (r : Recv) (a : Nat) (p : Packet) : State :=
  let k := s.core c
  let cart := Cart.parse (k.loadBytes a 64)
  let tag : Tag := ⟨a, cart.plen.toNat, crc32c (k.loadBytes (a + 64) cart.plen.toNat)⟩
  let s := s.updCore c fun k => ({ k with recvs := k.recvs.filter (·.id != r.id) }.unpend (.recv r.id)).putTag tag
  if p.warr then s.arriveFor c p.wpid cart.pencil cart.epoch cart.module cart.core else s

/-- The posted receive that a payload belongs to. -/
def Core.boundTo (k : Core) (p : Packet) : Option Recv :=
  k.recvs.find? fun r => r.bound == some ⟨p.smod, p.src, p.msgid⟩

/-- A message that its sender gives up: the receive is released, or the slot of a context (R227). -/
def execCancel (p : Packet) (s : State) : Host.Outcome State Fault Refusal :=
  match s.arrive p with
  | none => .next s
  | some s =>
    if 0xFF00 ≤ p.dst.toNat then .next (s.dropContribution p)
    else
    let who : Binding := ⟨p.smod, p.src, p.msgid⟩
    let free (r : Recv) : Recv := if r.bound = some who then { r with bound := none } else r
    .next (s.updCore p.dst.toNat fun k => { k with recvs := k.recvs.map free })

/-- Whether a packet reaches a core behind a closed wrapper, or crosses a closed router. -/
def State.cutOff (s : State) (p : Packet) : Bool := s.svr.closed.contains (.core p.dst.toNat) || s.cutPacket p

/-- A payload for a core. One for a collective context stays on its way until its CONTRIBUTION (log 27). -/
def landPayload (p : Packet) (s : State) : Host.Outcome State Fault Refusal :=
  if 0xFF00 ≤ p.dst.toNat then .next s
  else if (s.core p.dst.toNat).triHeld
      (((s.core p.dst.toNat).boundTo p).elim 0 (fun r => (ownOff p.dst.toNat r.td.addr.toNat).getD 0) + p.off.toNat)
      p.payload.length then .next s
  else match s.arrive p with
  | none => .next s
  | some s =>
    let c := p.dst.toNat
    if s.cutOff p then
      -- the receive is free for another message
      let free (r : Recv) : Recv := if r.bound = some ⟨p.smod, p.src, p.msgid⟩ then { r with bound := none } else r
      .next ((s.updCore c fun k => { k with recvs := k.recvs.map free }).send (s.reply p .mgnt rcIsolated))
    else match (s.core c).boundTo p with
    | none => .next s
    | some r =>
      let a := (ownOff c r.td.addr.toNat).getD 0
      if (capacity r.td).getD 0 < p.off.toNat + p.payload.length then .next s
      else
        let s := s.updCore c fun k => k.storeBytes (a + p.off.toNat) p.payload
        .next (if p.last then s.landed c r a p else s)

/-- MDATA: a payload, or with CODE CANCEL the end of a message that its sender gives up (R227, Table 6-3). -/
def execMdata (p : Packet) (s : State) : Host.Outcome State Fault Refusal :=
  if p.code = rcCancel then execCancel p s else landPayload p s

/-! ### Remote accumulation (R229, R230) -/

def execAcc (p : Packet) (s : State) : Host.Outcome State Fault Refusal :=
  match s.arrive p with
  | none => .next s
  | some s =>
    let c := p.dst.toNat
    let who : Binding := ⟨p.smod, p.src, p.msgid⟩
    let place (x : Stage) : Stage :=
      { x with data := Memory.writeBytes x.data p.off.toNat (p.payload.take (2048 - p.off.toNat)), got := x.got + 256 }
    if p.off = 0 then
      match s.rejects p with
      | some code => .next (s.send (s.reply p .accrsp code))
      | none =>
        if 2 ≤ (s.core c).stages.length then .next (s.send (s.reply p .accrsp rcFull))
        else
          let st := place
            { who := who, bank := p.chan.toNat % 4, datum := p.arg.setWidth 16, data := [], got := 0, warr := p.warr
              wp := p.wpid, pencil := p.pencil, epoch := p.epoch }
          .next ((s.updCore c fun k => { k with stages := k.stages ++ [st] }).send (s.reply p .accrsp rcOk))
    else if s.cutOff p then .next (s.send (s.reply p .accrsp rcIsolated))
    else
      .next (s.updCore c fun k => { k with stages := k.stages.map fun x =>
        if x.who = who ∧ x.got < 2048 then place x else x })

def execAccrsp (p : Packet) (s : State) : Host.Outcome State Fault Refusal :=
  match s.arrive p with
  | none => .next s
  | some s =>
    let c := p.dst.toNat
    match (s.core c).sends.find? fun m => m.acc && m.msgid == p.msgid && m.phase == .asked with
    | none => .next (if p.code = rcIsolated then s.lostSend c true p.msgid else s)
    | some m =>
      if p.code = rcOk then
        .next ((s.sendAll ((segments (s.request c m) 2048 8 0 m.data).drop 1)).sentSend c m)
      else if p.code = rcFull then
        .next (s.updCore c fun k => { k with sends := k.sends.map fun x =>
          if x.msgid = m.msgid then { x with phase := .retry } else x })
      else if p.code = rcIsolated then .next (s.failSend c m .isolated)
      else if p.code = rcAccess then .next (s.failSend c m .access)
      else .next s

def execAccRetry (c : CoreId) (msgid : W32) (s : State) : Host.Outcome State Fault Refusal :=
  match (s.core c).sends.find? fun m => m.acc && m.msgid == msgid && m.phase == .retry with
  | none => .next s
  | some m =>
    .next ((s.updCore c fun k => { k with sends := k.sends.map fun x =>
      if x.msgid = m.msgid then { x with phase := .asked } else x }).sendRequest c m)

/-- The 128 elements of a staged contribution (spec/03 R123, R128). -/
def Stage.elements (x : Stage) : List Num :=
  (wideCodes 16 128 (Memory.readBytes x.data 0 2048)).map (elemVal fmtLp128 false (sInt x.datum))

/-- The refusals of R104, R109 and R118 for a contribution. Of an integer run on a bank whose auto datum is not fixed the
spec does not say which is raised; the model raises FORMAT_MISMATCH (log 95). -/
def Bank.refusesPartial (b : Bank) : Option FCode :=
  if b.otherKind false then some .formatMismatch
  else if !b.fixed then some .descFormat
  else if b.tight then some .descFormat
  else none

def execXaccApply (c : CoreId) (slot : Nat) (s : State) : Host.Outcome State Fault Refusal :=
  let k := s.core c
  match k.stages[slot]? with
  | none => .next s
  | some x =>
    if x.got < 2048 then .next s
    else
      let done (s : State) : State := s.updCore c fun k => { k with stages := k.stages.filter (· != x) }
      match (k.bank x.bank).refusesPartial with
      | some code => .next ((done s).raise c k.pc k.seq (dBank x.bank) code code.cls)
      | none =>
        match (if x.pencil then s.consume c x.who.smod x.who.src x.epoch else Consume.ok s) with
        | .full => .next s
        | .access => .next ((done s).raise c k.pc k.seq (dBank x.bank) .access .job)
        | .ok s =>
          let s := done (s.updCore c fun k => k.setBank x.bank ((k.bank x.bank).addPartial x.elements))
          .next (if x.warr then s.arriveFor c x.wp x.pencil x.epoch x.who.smod x.who.src else s)

end Sys2Proof.Machine
end

