-- ==== Sys2Proof/Machine/MemoryCtl.lean ====
section
/-! DEFINITION. Mesh links, memory controllers, core-store windows, scrub and retirement, the tile and region
registers (spec/06 R224, R226; spec/07 R257 to R278, R543; spec/13 R479 for cores). -/

namespace Sys2Proof.Machine

/-! ### Isolation of a core (spec/13 R479, spec/06 R232) -/

/-- The sends of core `c` that lead to core `d` of this module end with ERR_ISOLATED. -/
def State.cutSends (s : State) (d c : CoreId) : State :=
  ((s.core c).sends.filter fun m => m.dlocal && m.dst.toNat == d).foldl (fun s m => s.failSend c m .isolated) s

/-- Receives of a core bound to a message of core `d` are released, and staging slots that wait for the rest of its
contributions. -/
def Core.unbindFrom (k : Core) (m : BitVec 15) (d : CoreId) : Core :=
  let free (r : Recv) : Recv :=
    match r.bound with
    | some b => if b.smod = m ∧ b.src.toNat = d then { r with bound := none } else r
    | none => r
  { k with recvs := k.recvs.map free
           stages := k.stages.filter fun x => !(x.who.smod == m && x.who.src.toNat == d && decide (x.got < 2048)) }

/-- Entries of a victim that the closed core had stolen end ISOLATED; its own stolen entries go with it. -/
def State.cutSteals (s : State) (d : CoreId) : State :=
  let s := match (s.core d).stolen with
    | none => s
    | some x =>
      (s.updCore x.victim fun k =>
        ({ k with lent := k.lent.filter (·.id != x.entry.id) } : Core).unpend (.defer x.entry.id)).raise
        x.victim x.entry.pc x.entry.seq dNone .isolated .job
  { s with cores := Sparse.mapVals {} s.cores fun _ k =>
      match k.stolen with
      | some x => if x.victim = d then { k.setBank 4 {} with stolen := none } else k
      | none => k }

/-- Closes the wrapper of a core: its transfers end, the block is reset. An answer that it has sent has crossed the wrapper. -/
def State.closeCore (s : State) (d : CoreId) : State :=
  if s.svr.closed.contains (.core d) then s
  else
    let s := s.updSvr fun v => { v with closed := v.closed ++ [.core d] }
    let s := (s.cores.map (·.1)).foldl (fun s c => if c = d then s else s.cutSends d c) s
    let s := s.cutSteals d
    let s := { s with cores := Sparse.mapVals {} s.cores fun _ k => k.unbindFrom s.modId d }
    { s with cores := Sparse.erase s.cores d
             net := s.net.filter fun p => !(p.smod == s.modId && p.src.toNat == d && !p.rsp) }

/-- A quarantine that takes effect at the next job boundary (spec/15 R528), with the code of the fault behind it. -/
def State.quarantineLater (s : State) (b : Block) (code : Option FCode) : State :=
  if s.svr.quarantines.contains b then s
  else s.updSvr fun v => { v with quarantines := v.quarantines ++ [b], causes := v.causes ++ (code.toList.map fun c => (b, c.byte)) }

/-! ### Mesh links (spec/06 R224, R226) -/

/-- A replay of a packet on the link into the router of core `c` from direction `dir`: the sixteenth consecutive
failure closes the core's wrapper, and the core is replaced by an inset at the next job boundary. -/
def execLinkReplay (c : CoreId) (dir : BitVec 2) (failed : Bool) (s : State) : Host.Outcome State Fault Refusal :=
  if !coreExists c then .next s
  else
    let key := 4 * c + dir.toNat
    let n := if failed then Sparse.get 0 s.mem.linkFails key + 1 else 0
    if n < 16 then .next (s.updMem fun m => { m with linkFails := Sparse.put 0 m.linkFails key n })
    else
      .next (((s.updMem fun m => { m with linkFails := Sparse.put 0 m.linkFails key 0 }).closeCore c).quarantineLater (.core c) none)

/-- A router discards a packet of a reserved type and reports it to the surveyor (R226). -/
def execReservedPacket (p : Packet) (s : State) : Host.Outcome State Fault Refusal :=
  if p.typ = .rsv0E ∨ p.typ = .rsv0F then
    match s.arrive p with
    | none => .next s
    | some s => .next { s with notices := s.notices ++ [p.typ] }
  else .next s

/-! ### Controllers (spec/07 R257 to R262, R269, R273, R277) -/

/-- Appends an entry; in a full history the oldest entry without a quarantine gives way (spec/15, "Field service"). -/
def pushHistory (h : List HistEntry) (e : HistEntry) : List HistEntry :=
  if h.length < 4096 then h ++ [e]
  else match h.find? fun x => !x.quarantine with
    | some x => h.erase x ++ [e]
    | none => h

/-- The record of a retirement (R275, R278). -/
def Mram.retire (m : Mram) (tick : W64) (page : Nat) : Mram :=
  { m with pagesRetired := m.pagesRetired ++ [page]
           history := pushHistory m.history
             { block := controllerOf page, place := none, code := none, tick := tick, quarantine := false, page := some page } }

/-- Whether a page is being copied to a spare: requests to it are held (R275). -/
def State.copying (s : State) (a n : Nat) : Bool := s.mem.copies.any fun x => (pagesOf a n).contains x.1

/-- The address of a memory packet (Table 7-2). -/
def memAddr (p : Packet) : Nat := extField p 0x2C 8

/-- The transfer of an engine. -/
def State.engine (s : State) (e : Nat) : Option Xfer := Sparse.get none s.mem.engines e
def State.setEngine (s : State) (e : Nat) (x : Option Xfer) : State :=
  s.updMem fun m => { m with engines := Sparse.put none m.engines e x }

/-- The engine that runs the transfer of a tag, with the transfer: MSGID of its requests (log 28). -/
def State.engineOfTag (s : State) (tag : W32) : Option (Nat × Xfer) :=
  match s.engine (tag.toNat % 16) with
  | some x => if x.tag = tag then some (tag.toNat % 16, x) else none
  | none => none

/-- The partition on whose table a request is checked: a core's, a transfer's, or that of another module's job (R268,
R269). -/
def State.requester (s : State) (p : Packet) : Option Nat :=
  if p.smod != s.modId then s.partOfModule p.smod
  else if p.src = 0xFFFF then (s.engineOfTag p.msgid).map fun x => x.2.part
  else s.partOf p.src.toNat

/-- Whether a request covers 1 to 256 bytes of one 256-byte block (R259). -/
def requestOk (a n : Nat) : Bool := decide (0 < n) && decide (a / 256 = (a + n - 1) / 256)

/-- Whether a request stands at the endpoint that serves its address (R258). -/
def atEndpoint (p : Packet) (a : Nat) : Bool := p.edge == memEdge a && p.dst.toNat == memHome a

/-- The refusal of a request at the target, if any: its form and endpoint, plan, region table, a closed router or
controller. -/
def State.refuseRequest (s : State) (p : Packet) (write : Bool) (a n : Nat) : Option Byte :=
  match s.requester p with
  | none => some rcAccess
  | some q =>
    if !requestOk a n || decide (memTop < a + n) || !atEndpoint p a || !s.permits q write a n then some rcAccess
    else if write && p.pencil && s.inkRegion q a n then some rcAccess
    else if s.cutPacket p || s.memIsolated a n then some rcIsolated
    else none

/-- 24 hours of model time, in ticks of 1 ns. -/
def day : Nat := 86400000000000

/-- The corrected reads of a page within the latest 24 hours (R275). -/
def State.recent (s : State) (page : Nat) : List Nat :=
  (Sparse.get [] s.mem.corrections page).filter fun t => decide (s.now < t + day)

/-- A corrected error in a read (R273): CECNT, and the page's reads with corrections (R275). -/
def State.corrected (s : State) (page : Nat) : State :=
  (s.updStack (stackOf page) fun t => { t with cecnt := sat16 t.cecnt }).updMem fun m =>
    { m with corrections := Sparse.put [] m.corrections page (s.recent page ++ [s.now]) }

/-- The answer to a read. -/
def State.readReply (s : State) (p : Packet) (a n : Nat) : Packet :=
  { s.reply p .mrdr rcOk with len := p.len, off := p.off, payload := s.mem.bytes.readBytes a n }

/-- A write request at a controller; a poisoned page discards it (R277), and it waits for a page that is being copied (R275). -/
def execMwr (p : Packet) (s : State) : Host.Outcome State Fault Refusal :=
  if p.typ ≠ .mwr ∨ memTop ≤ memAddr p ∨ s.copying (memAddr p) p.payload.length then .next s
  else match s.arrive p with
  | none => .next s
  | some s =>
    let a := memAddr p
    match s.refuseRequest p true a p.payload.length with
    | some code => .next (s.send (s.reply p .mwrr code))
    | none => .next ((s.memWrite a p.payload).send (s.reply p .mwrr rcOk))

/-! ### Responses at the requester -/

/-- The fault of a refused access (spec/06 Table 6-3, spec/09 R355). -/
def refusalFault (code : Byte) : FCode :=
  if code = rcIsolated then .isolated else if code = rcPoison then .linkLost else .access

/-- Ends a transfer: the record of its XFER command, the engine free. A fault is an event of its class and acts only
through the command (spec/12 R444). -/
def State.endXfer (s : State) (e : Nat) (x : Xfer) (st : Status) (detail : W64) : State :=
  let s := s.setEngine e none
  let s := match st with
    | .fault code => s.event { code := code, cls := code.cls, part := some x.part, step := s.stepNo x.part, detail := detail }
    | _ => s
  s.finishFront x.q st 0 detail true

/-- Ends an access of a core: its record, its flight and its pending range. -/
def Core.dropRemote (k : Core) (r : Remote) : Core :=
  let k := { k with remotes := k.remotes.filter (· != r) }
  match r.use with
  | .tile _ f _ _ => { k with flights := k.flights.filter (·.id != f) }.unpend (.xfer f)
  | .prefetch i => k.freeSlot i
  | _ => k

/-- DETAIL of a fault of an access that has issued: the descriptor register that names the refused place, as at issue. -/
def RemoteUse.detail (code : FCode) : RemoteUse → Byte
  | .tile _ _ ts td => dDesc (if code = .descBounds then td else ts)
  | .store det => det
  | _ => dNone

/-- An access of a core fails: its instruction raises the fault, the mseg for an adapter; a prefetch raises none. -/
def State.failRemote (s : State) (c : CoreId) (r : Remote) (code : FCode) : State :=
  match r.use, (s.core c).mseg with
  | .prefetch _, _ => s.updCore c fun k => k.dropRemote r
  | .adapter _, none => s.updCore c fun k => k.dropRemote r
  | .adapter _, some m => s.failMseg c m code
  | _, _ => (s.updCore c fun k => k.dropRemote r).raise c r.pc r.seq (r.use.detail code) code code.cls

/-- An access of a core is answered POISON in its own module: the core stops, unless it was a prefetch (R277). -/
def State.poisonRemote (s : State) (c : CoreId) (r : Remote) : State :=
  let s := s.updCore c fun k => k.dropRemote r
  match r.use with
  | .prefetch _ => s
  | u => s.poisonStop c r.pc r.seq (u.detail .memUncorrectable)

/-- The last response of an access: the load's register, or the tile after the checks of tld (spec/04 R140, R148). What a
prefetch, an adapter or an issuing mseg asked for stays until it is used. -/
def State.remoteDone (s : State) (c : CoreId) (r : Remote) : State :=
  match r.use with
  | .load rd op =>
    s.updCore c fun k => (k.dropRemote r).setG rd (loadExtend op (leNat (Memory.readBytes r.data 0 (loadSize op))))
  | .store _ => s.updCore c fun k => k.dropRemote r
  | .tile td _ _ _ =>
    match tileAccept ((capacity td).getD 0) (Memory.readBytes r.data 0 64) (Memory.readBytes r.data 64) with
    | .error e => s.failRemote c r e
    | .ok payload =>
      -- the transfer stays in flight until TRANSFER_DONE
      s.updCore c fun k =>
        { k with remotes := k.remotes.filter (· != r) }.landTile r.base (Memory.readBytes r.data 0 64) payload
  | _ => s

/-- The outstanding access that a response belongs to. -/
def Core.remoteOf (k : Core) (p : Packet) : Option Remote := k.remotes.find? fun r => r.tag == p.msgid && r.left != 0

/-- One response counted; `put` adds the data of a read. -/
def State.remoteStep (s : State) (p : Packet) (put : Remote → Remote) : State :=
  let c := p.dst.toNat
  match (s.core c).remoteOf p with
  | none => s
  | some r =>
    if p.code = rcPoison ∧ !r.far then (s.poisonRemote c r).uncorrectable (s.mem.poisoned.headD 0) (some c) (s.partOf c)
    else if p.code ≠ rcOk then s.failRemote c r (refusalFault p.code)
    else
      let r' := put { r with left := r.left - 1 }
      let s := s.updCore c fun k => { k with remotes := k.remotes.map fun x => if x = r then r' else x }
      if r'.left = 0 then s.remoteDone c r' else s

/-- Whether a response is the last of a tld whose landing range is held for triangulation (spec/08 R306). -/
def State.landingHeld (s : State) (p : Packet) : Bool :=
  p.code == rcOk && match (s.core p.dst.toNat).remoteOf p with
  | some r => match r.use with
    | .tile td _ _ _ => r.left == 1 && (s.core p.dst.toNat).triHeld r.base ((capacity td).getD 0)
    | _ => false
  | none => false

/-! ### Core-store windows (R254, R543) -/

/-- An access through a core-store window at the target core's store. A held write has no effect yet. -/
def execWindowAccess (p : Packet) (s : State) : Host.Outcome State Fault Refusal :=
  match spaceOf (memAddr p) with
  | .store d off =>
    let n := if p.typ = .mwr then p.payload.length else p.len.toNat
    let ok : Bool := match s.requester p with | some q => s.storeOk q d off n | none => false
    if p.typ = .mwr ∧ ok ∧ (s.core d).holdsWrite off n ∧ !s.svr.closed.contains (.core d) then .next s
    else match s.arrive p with
      | none => .next s
      | some s =>
        let kind : PType := if p.typ = .mwr then .mwrr else .mrdr
        if p.typ ≠ .mwr ∧ p.typ ≠ .mrd then .next s
        else if !ok || p.smod != s.modId || !requestOk off n || p.edge != 0 || p.dst.toNat != d then
          .next (s.send (s.reply p kind rcAccess))
        else if s.cutPacket p || s.svr.closed.contains (.core d) then .next (s.send (s.reply p kind rcIsolated))
        else if p.typ = .mwr then
          .next ((s.updCore d fun k => k.storeBytes off p.payload).send (s.reply p .mwrr rcOk))
        else if (s.core d).clean off n then
          .next (s.send { s.reply p .mrdr rcOk with len := p.len, off := p.off, payload := (s.core d).loadBytes off n })
        else
          -- the double error raises CSUM_AT_USE on the read that finds it (R288)
          if p.src = 0xFFFF then
            match s.engineOfTag p.msgid with
            | some x => .next (s.endXfer x.1 x.2 (.fault .csumAtUse) (BitVec.ofNat 64 x.2.next))
            | none => .next s
          else
            match (s.core p.src.toNat).remotes.find? fun r => r.tag == p.msgid with
            | some r => .next (s.failRemote p.src.toNat r .csumAtUse)
            | none => .next s
  | _ => .next s

/-! ### Scrub and retirement (R274 to R276) -/

/-- Patrol scrub of one line: `err` as for a read request. -/
def execPatrolScrub (line : Nat) (err : BitVec 2) (s : State) : Host.Outcome State Fault Refusal :=
  if s.rst.inReset ∨ memTop / 64 ≤ line then .next s
  else
    let page := line / 64
    if 2 ≤ err.toNat then .next (s.uncorrectable page none none)
    else if err = 1 ∧ !s.mem.poisoned.contains page then .next (s.corrected page)
    else .next s

/-- Retirement of a page whose reads were corrected three times within 24 hours: its copy begins, and ends 4 µs later
(log 64). `uncorr` tells that the copy meets an uncorrectable error. -/
def execPageRetire (page : Nat) (uncorr : Bool) (s : State) : Host.Outcome State Fault Refusal :=
  let n := stackOf page
  if s.rst.inReset ∨ memTop / 4096 ≤ page ∨ (s.recent page).length < 3 ∨ s.mem.poisoned.contains page
      ∨ s.copying (4096 * page) 1 then .next s
  else if uncorr then .next (s.uncorrectable page none none)
  else if (s.stack n).spares = 0 then .next (s.updStack n fun t => { t with nospare := true })
  else
    .next ((s.updStack n fun t => { t with retiring := true }).updMem fun m => { m with copies := m.copies ++ [(page, s.now + 4000)] })

/-- A page has been copied: its requests are served from the spare, and the surveyor records the retirement (R275). -/
def State.copied (s : State) (page : Nat) : State :=
  let s := s.updMem fun m => { m with
    copies := m.copies.filter fun x => x.1 != page, corrections := Sparse.put [] m.corrections page [] }
  let s := s.updStack (stackOf page) fun t =>
    { t with spares := t.spares - 1, nospare := decide (t.spares = 1)
             retiring := s.mem.copies.any fun x => stackOf x.1 == stackOf page }
  s.nvWrite fun m => m.retire s.tick page

/-- The copies that have ended. -/
def State.copyTick (s : State) : State :=
  ((s.mem.copies.filter fun x => decide (x.2 ≤ s.now)).map (·.1)).foldl State.copied s

/-! ### Registers (R264, R272) -/

/-- Whether any job is attached to the module. -/
def State.attached (s : State) : Bool := s.parts.any fun e => e.2.job.isSome

def memTileMask : W64 := 0x01FF01FF

def execMemTileCfgWrite (v : W64) (s : State) : Host.Outcome State Fault Refusal :=
  let v := v &&& memTileMask
  if s.rst.inReset ∨ s.attached ∨ 0x8000000000 < tileBase v + tileSize v + tileSize v / 64 then .next s
  else .next (s.updMem fun m => { m with tileCfg := v })

def execRegionTableWrite (part n : Nat) (word1 : Bool) (v : W64) (s : State) : Host.Outcome State Fault Refusal :=
  if s.rst.inReset ∨ 16 ≤ part ∨ 256 ≤ n then .next s
  else if (s.part part).job.isSome then
    .next (s.event { code := .access, cls := .job, part := some part, step := s.stepNo part
                     detail := Config.eventDetail FCode.access.byte.toNat 0xFFFF s.tick })
  else if word1 then
    .next (s.updMem fun m => { m with rgn1 := Sparse.put 0 m.rgn1 (rgnKey part n) (v &&& 0xFFFFFFFFFFFFF000) })
  else .next (s.updMem fun m => { m with rgn0 := Sparse.put 0 m.rgn0 (rgnKey part n) (v &&& 0xFFFFFFFFFFFFFFF0) })

end Sys2Proof.Machine
end

