-- ==== Sys2Proof/Machine/Transfer.lean ====
section
/-! DEFINITION. Transfer engines (spec/07 R279 to R284, spec/12 R444). -/

namespace Sys2Proof.Machine

def kindBytes : Byte := 0
def kindTiles : Byte := 1

def XDesc.srcHost (d : XDesc) : Bool := d.flags.getLsbD 0
def XDesc.dstHost (d : XDesc) : Bool := d.flags.getLsbD 1
def XDesc.verify (d : XDesc) : Bool := d.flags.getLsbD 2
def XDesc.warr (d : XDesc) : Bool := d.flags.getLsbD 3
def XDesc.tiles (d : XDesc) : Bool := d.kind == kindTiles

/-- The length on each side (R280). -/
def XDesc.srcLen (d : XDesc) : Nat := if d.tiles then d.count.toNat * 4096 else d.len.toNat
def XDesc.dstLen (d : XDesc) : Nat :=
  if d.tiles then d.count.toNat * (if d.dstHost then 4160 else 4096) else d.len.toNat

/-- Reads a descriptor (Table 7-7). -/
def XDesc.parse (bs : List Byte) : XDesc :=
  { kind := BitVec.ofNat 8 (field bs 0 1), flags := BitVec.ofNat 8 (field bs 1 1), count := BitVec.ofNat 16 (field bs 2 2)
    len := BitVec.ofNat 32 (field bs 4 4), src := BitVec.ofNat 64 (field bs 8 8), dst := BitVec.ofNat 64 (field bs 0x10 8)
    srclo := BitVec.ofNat 64 (field bs 0x18 8), srchi := BitVec.ofNat 64 (field bs 0x20 8)
    dstlo := BitVec.ofNat 64 (field bs 0x28 8), dsthi := BitVec.ofNat 64 (field bs 0x30 8)
    wp := BitVec.ofNat 32 (field bs 0x38 4), rsv := BitVec.ofNat 32 (field bs 0x3C 4) }

/-! ### The checks (R280, R281) -/

/-- A device range as address ranges, its part in the board window of the own slot translated (R255, R280). -/
def State.ownRanges (s : State) (a n : Nat) : List (Nat × Nat) :=
  let lo := winBase s.slot
  let hi := winBase (s.slot + 1)
  let m := if a + n < lo then a + n else lo
  let l := if a < lo then lo else a
  let h := if a + n < hi then a + n else hi
  let r := if a < hi then hi else a
  [(a, m - a), (l - lo, h - l), (r, a + n - r)]

/-- Check 1. -/
def State.xferFormat (s : State) (d : XDesc) : Bool :=
  let meet (a b : Nat × Nat) : Bool :=
    decide (0 < a.2) && decide (0 < b.2) && decide (a.1 < b.1 + b.2) && decide (b.1 < a.1 + a.2)
  let src := if d.srcHost then [(d.src.toNat, d.srcLen)] else s.ownRanges d.src.toNat d.srcLen
  let dst := if d.dstHost then [(d.dst.toNat, d.dstLen)] else s.ownRanges d.dst.toNat d.dstLen
  decide (1 < d.kind.toNat) || decide (d.flags.toNat ≥ 16) || decide (2 ^ 20 ≤ d.wp.toNat) || d.rsv != 0
  || (if d.tiles then d.len != 0 || d.srcHost || d.src.toNat % 4096 != 0 || d.dst.toNat % 4096 != 0
      else d.count != 0 || d.verify)
  || (d.srcHost == d.dstHost && src.any fun a => dst.any (meet a))

/-- Check 2. -/
def xferBounds (d : XDesc) : Bool :=
  decide (d.src.toNat < d.srclo.toNat) || decide (d.srchi.toNat < d.src.toNat + d.srcLen)
  || decide (d.dst.toNat < d.dstlo.toNat) || decide (d.dsthi.toNat < d.dst.toNat + d.dstLen)

/-- Whether every tile slot of a device range, and its cartouche slots, may be accessed (R265, R268). -/
def State.slotsOk (s : State) (p : Nat) (write : Bool) (a count : Nat) : Bool :=
  s.slotOk a && s.slotOk (a + 4096 * (count - 1)) && s.accessOk p write a (4096 * count)
  && s.accessOk p write (s.cartAddr a) (64 * count)

/-- Whether the arrival of a transfer of partition `p` names a slot with a module of the job's plan (R246, R280). A local
waypoint homed outside the partition is no ground here: its packet is discarded on its way (spec/06 R233). -/
def State.xferWpOk (s : State) (p : Nat) (wp : W32) : Bool :=
  let slot := wp.toNat / 65536 % 8
  if wp.getLsbD 19 || slot == s.slot then true
  else (s.otherModules p).contains (s.boardPeer slot)

/-- Check 3. -/
def State.xferAccess (s : State) (p : Nat) (d : XDesc) : Bool :=
  let src := s.translate d.src.toNat
  let dst := s.translate d.dst.toNat
  let srcOk := d.srcHost || (if d.tiles then s.slotsOk p false src d.count.toNat else s.accessOk p false src d.srcLen)
  let dstOk := d.dstHost || (if d.tiles then s.slotsOk p true dst d.count.toNat else s.accessOk p true dst d.dstLen)
  let ink :=
    if d.tiles then true
    else if d.dstHost then !d.srcHost && s.inkRegion p src d.srcLen
    else d.srcHost || !s.inkRegion p dst d.dstLen
  srcOk && dstOk && ink && (!d.warr || s.xferWpOk p d.wp)

/-- The first failing check. -/
def State.xferCheck (s : State) (p : Nat) (d : XDesc) : Option FCode :=
  if s.xferFormat d then some .descFormat
  else if xferBounds d then some .descBounds
  else if d.srcLen = 0 ∧ d.dstLen = 0 then none
  else if !s.xferAccess p d then some .access
  else none

/-! ### Bytes -/

/-- The tag of engine `e`'s next transfer. -/
def State.nextTag (s : State) (e : Nat) : W32 := BitVec.ofNat 32 (16 * s.mem.xferNo + e)

/-- An engine reads device bytes: the requests leave from M1, each with the place of its bytes in the transfer. -/
def State.engineAsk (s : State) (e : Nat) (x : Xfer) (reqs : List (Nat × Nat × Nat)) : State :=
  (s.setEngine e (some { x with fetched := true, left := x.left + reqs.length })).sendAll (reqs.map fun r =>
    { s.reqPacket 0xFFFF .mrd x.tag r.1 r.2.1 with off := BitVec.ofNat 32 r.2.2 })

/-- An engine writes device bytes by write requests. -/
def State.enginePut (s : State) (e : Nat) (x : Xfer) (ws : List (Nat × List Byte)) (pencil : Bool) : State :=
  (s.setEngine e (some { x with acks := x.acks + ws.length })).sendAll (ws.map fun w =>
    { s.reqPacket 0xFFFF .mwr x.tag w.1 w.2.length with payload := w.2, pencil := pencil })

/-- The bytes of a BYTES transfer from byte `off` on reach its destination. -/
def State.placeBytes (s : State) (e : Nat) (x : Xfer) (off : Nat) (bs : List Byte) : State :=
  if x.d.dstHost then (s.setEngine e (some x)).hostData (x.d.dst.toNat + off) bs
  else s.enginePut e x (cutBytes (s.translate x.d.dst.toNat + off) bs) false

/-- Starts a BYTES transfer: host bytes leave for the destination, device bytes are asked for. -/
def State.startBytes (s : State) (e : Nat) (x : Xfer) : State :=
  let n := x.d.srcLen
  if x.d.srcHost then s.placeBytes e x 0 (s.host.mem.readBytes x.d.src.toNat n)
  else
    let a := s.translate x.d.src.toNat
    s.engineAsk e x ((pieces256 a n).map fun r => (r.1, r.2, r.1 - a))

/-- A free engine takes the transfer that waits longest. Host reads wait for the link (spec/12 R432). -/
def execTransferStart (e : Nat) (s : State) : Host.Outcome State Fault Refusal :=
  if s.rst.inReset ∨ 16 ≤ e ∨ (s.engine e).isSome ∨ s.svr.closed.contains .transferEngines then .next s
  else match s.mem.waiting with
    | [] => .next s
    | y :: rest =>
      if y.d.srcHost && !s.host.linkUp then .next s
      else
        let x := { y with tag := s.nextTag e }
        let t := (s.updMem fun m => { m with waiting := rest, xferNo := m.xferNo + 1 }).setEngine e (some x)
        match s.xferCheck x.part x.d with
        | some code => .next (t.endXfer e x (.fault code) 0)
        | none => if x.d.tiles || x.d.srcLen == 0 then .next t else .next (t.startBytes e x)

/-! ### Responses (R259, R277, R283) -/

/-- A response to engine `e` other than OK ends its transfer; POISON of this module's own memory ends in its reset. -/
def State.engineRefused (s : State) (e : Nat) (x : Xfer) (p : Packet) : State :=
  let index : W64 := BitVec.ofNat 64 x.next
  if p.code = rcPoison ∧ p.smod = s.modId then
    (s.endXfer e x (.fault .memUncorrectable) index).uncorrectable (s.mem.poisoned.headD 0) none (some x.part)
  else s.endXfer e x (.fault (refusalFault p.code)) index

/-- A read response: an access of a core, or of a transfer engine, whose answers come to the west edge. -/
def execMrdr (p : Packet) (s : State) : Host.Outcome State Fault Refusal :=
  if p.edge = 0 ∧ s.landingHeld p then .next s
  else match s.arrive p with
  | none => .next s
  | some s =>
    if p.edge = 0 then .next (s.remoteStep p fun r => { r with data := Memory.writeBytes r.data p.off.toNat p.payload })
    else match s.engineOfTag p.msgid with
    | none => .next s
    | some (e, x) =>
      if p.code ≠ rcOk then .next (s.engineRefused e x p)
      else
        let y := { x with left := x.left - 1 }
        if x.d.tiles then
          .next (s.setEngine e (some { y with got := Memory.writeBytes y.got p.off.toNat p.payload }))
        else .next (s.placeBytes e y p.off.toNat p.payload)

def execMwrr (p : Packet) (s : State) : Host.Outcome State Fault Refusal :=
  match s.arrive p with
  | none => .next s
  | some s =>
    if p.edge = 0 then .next (s.remoteStep p id)
    else match s.engineOfTag p.msgid with
    | none => .next s
    | some (e, x) =>
      if p.code ≠ rcOk then .next (s.engineRefused e x p)
      else .next (s.setEngine e (some { x with acks := x.acks - 1 }))

/-! ### Tiles (R283) -/

/-- Whether a pencilled tile is inked, as its producer's ink block tells; an engine asks the block of another module by
a QUERY (spec/08 R316 to R318). -/
def State.tileInk (s : State) (x : Xfer) (t : Cart) : InkWait :=
  if !t.pencil then .go
  else if t.module != s.modId then
    match x.answer with
    | none => .wait
    | some ok => if ok then .go else .dead
  else if 0xFF00 ≤ t.core.toNat then
    let k := s.coll x.part (t.core.toNat % 256)
    if k.dead.any fun r => inRange r t.epoch then .dead else if covers k.frontier t.epoch then .go else .wait
  else if (s.ink t.core.toNat).isDead t.epoch then .dead
  else if (s.ink t.core.toNat).inked t.epoch then .go
  else .wait

/-- The checks of a cartouche: HCRC, R61 step 2. -/
def tileCheck (cart : List Byte) : Option FCode :=
  if !hcrcOk cart then some .csumAtUse else if !shapeOk (Cart.parse cart) then some .formatMismatch else none

/-- Writes the next tile of a transfer: the payload filled to 4,096 bytes, then the cartouche. -/
def State.putTile (s : State) (e : Nat) (x : Xfer) (cart payload : List Byte) (pencil : Bool) : State :=
  let i := x.next
  let y := { x with next := i + 1, asked := false, answer := none, fetched := false, got := [] }
  let body := slotFill payload
  if x.d.dstHost then
    let a := x.d.dst.toNat
    ((s.setEngine e (some y)).hostData (a + 4096 * i) body).hostData (a + 4096 * x.d.count.toNat + 64 * i) cart
  else
    let a := s.translate (x.d.dst.toNat + 4096 * i)
    s.enginePut e y (cutBytes a body ++ [(s.cartAddr a, cart)]) pencil

/-- Whether a tile transfer holds pencilled tiles until they are inked: its destination is host memory, or its slots or its
cartouche slots lie in an INK region, as the entry that covers the whole transfer says (R268, R271, R283). -/
def State.xferInk (s : State) (x : Xfer) : Bool :=
  let a := s.translate x.d.dst.toNat
  x.d.dstHost || s.inkRegion x.part a (4096 * x.d.count.toNat) || s.inkRegion x.part (s.cartAddr a) (64 * x.d.count.toNat)

/-- The requests for the next tile of a transfer: one cartouche read and sixteen payload reads (R259). -/
def State.tileReqs (s : State) (x : Xfer) : List (Nat × Nat × Nat) :=
  let a := s.translate (x.d.src.toNat + 4096 * x.next)
  (s.cartAddr a, 64, 0) :: (pieces256 a 4096).map fun r => (r.1, r.2, 64 + (r.1 - a))

/-- One tile of a TILES transfer: its bytes are asked for; once they have come it is checked, held for inking, and
written. -/
def execTileTransfer (e : Nat) (s : State) : Host.Outcome State Fault Refusal :=
  match s.engine e with
  | none => .next s
  | some x =>
    if !x.d.tiles || decide (x.d.count.toNat ≤ x.next) || s.rst.inReset then .next s
    else if !x.fetched then .next (s.engineAsk e x (s.tileReqs x))
    else if x.left ≠ 0 then .next s
    else
      let stop (code : FCode) : Host.Outcome State Fault Refusal :=
        .next (s.endXfer e x (.fault code) (BitVec.ofNat 64 x.next))
      let cart := Memory.readBytes x.got 0 64
      let c := Cart.parse cart
      match tileCheck cart with
      | some code => stop code
      | none =>
        let payload := Memory.readBytes x.got 64 c.plen.toNat
        -- with VERIFY, R61 step 4
        if x.d.verify && crc32c payload != c.pcrc then stop .csumAtUse
        else
          let ink := s.xferInk x
          match (if ink then s.tileInk x c else InkWait.go) with
          | .dead => stop .access
          | .wait =>
            if c.module == s.modId || x.asked then .next s
            else .next ((s.setEngine e (some { x with asked := true })).send
              { s.inkQuery 0xFFFF c.module c.core c.epoch with msgid := x.tag })
          | .go => .next (s.putTile e x cart payload (c.pencil && !ink))

/-! ### Completion (R284) -/

/-- The arrival of a transfer, from an edge endpoint. -/
def State.xferArrival (s : State) (wp : W32) : State :=
  let w : W16 := wp.setWidth 16
  let slot := wp.toNat / 65536 % 8
  let here := wp.getLsbD 19 || slot == s.slot
  s.send { s.arrivalPacket 0xFFFF w false 0 none with dlocal := here, dmod := if here then 0 else s.boardPeer slot }

def execTransferComplete (e : Nat) (s : State) : Host.Outcome State Fault Refusal :=
  match s.engine e with
  | none => .next s
  | some x =>
    if (x.d.tiles ∧ x.next < x.d.count.toNat) ∨ x.left ≠ 0 ∨ x.acks ≠ 0 ∨ s.rst.inReset then .next s
    else
      let s := if x.d.warr then s.xferArrival x.d.wp else s
      .next (s.endXfer e x .ok 0)

end Sys2Proof.Machine
end

