-- ==== Sys2Proof/Machine/Check.lean ====
section
/-! DEFINITION. The check engine's comparison and triangulation (spec/08 R293 to R299, R305 to R309). -/

namespace Sys2Proof.Machine

/-! ### The comparison -/

/-- The first failing row and column (R295): rows are lines 0 to 7, columns lines 8 to 23. -/
def Bank.failing (b : Bank) : Option Nat × Option Nat :=
  let bad (lo n : Nat) : Option Nat := (List.range n).find? fun i => match b.lines[lo + i]? with
    | some l => !l.passes
    | none => false
  (bad 0 8, bad 8 16)

/-- The core that reruns for core `c` (R307). -/
def State.neighbour (s : State) (p : Nat) (c : CoreId) : CoreId :=
  if (s.part p).hasCore (coreAt (coreX c + 1) (coreY c)) then coreAt (coreX c + 1) (coreY c)
  else coreAt (coreX c - 1) (coreY c)

/-- The check engine compares the oldest snapshot that is not held, and counts the lines left out (R294). A failure records
the core, the bank, the epoch and the first failing row and column (R295; DETAIL's layout of them is a free value, log 83), and
holds the epoch and the neighbour. -/
def execGraticuleCompare (c : CoreId) (s : State) : Host.Outcome State Fault Refusal :=
  if s.rst.inReset ∨ s.svr.closed.contains (.core c) then .next s
  else match (s.core c).snaps.find? fun x => !x.held, s.partOf c with
    | some x, some p =>
      let s := s.updSvr fun v => { v with linesExcluded := v.linesExcluded + (x.bank.lines.filter (·.excluded)).length }
      if x.bank.checks then
        .next ((s.updCore c fun k => { k with snaps := k.snaps.erase x }).advanceFrontier c)
      else
        let n := s.neighbour p c
        let s := s.event { code := .graticule, cls := .info, part := some p, core := some c, step := s.stepNo p
                           detail := Config.graticuleDetail x.ab x.epoch x.bank.failing.1 x.bank.failing.2 }
        let hold (y : Snap) : Snap := if y = x then { y with held := true } else y
        let s := s.updCore c fun k => { k with snaps := k.snaps.map hold }
        let s := s.updCore n fun k => { k with triHold := true }
        let f := x.bank.failing
        .next (s.updPart p fun y => { y with tris := y.tris ++ [⟨c, n, x.ab, x.epoch, f.1, f.2⟩] })
    | _, _ => .next s

/-! ### Triangulation (R307 to R309) -/

/-- The cells of row i, or of column i − 8. -/
def lineCells (i : Nat) : List Nat :=
  if i < 8 then (List.range 16).map fun j => 16 * i + j else (List.range 8).map fun r => 16 * r + (i - 8)

/-- The check register of row i, or of column i − 8. -/
def lineKey (i : Nat) : Nat := if i < 8 then keyCC i else keyCR (i - 8)

/-- The sums of the 8 rows and 16 columns of a bank, its mirrored terms removed. -/
def Bank.lineSums (b : Bank) : List Int :=
  (List.range 24).map fun i =>
    (lineCells i).foldl (fun t n => t + (b.cell n).acc.toInt) 0 - (b.chkReg (lineKey i)).mirror.toInt

/-- The check registers with the mirrored terms removed. -/
def Bank.unmirrored (b : Bank) : Sparse ChkReg :=
  Sparse.mapVals {} b.chk fun _ r => { r with acc := r.acc - r.mirror, mirror := 0 }

/-- Outcomes of Table 8-3. -/
inductive TriOutcome where
  | checker | core | operand | unresolved
  deriving DecidableEq, Repr

/-- The steal bank of the neighbour as the rerun starts: clear, at the failing bank's datum, check cells active. -/
def Bank.forRerun (b : Bank) : Bank :=
  { written := b.written, force := b.force, datum := b.datum, fixed := true, run := b.run, cover := some true }

/-- Compares a rerun with the snapshot (Table 8-3). -/
def triJudge (snap rerun : Bank) : TriOutcome :=
  if rerun.lineSums = snap.lineSums then .checker
  else
    let mixed : Bank := { rerun with chk := snap.unmirrored }
    if (mixed.lines.take 24).all Line.passes && rerun.checks then .core else .operand

/-- The rerun on the neighbour and its outcome. A full log, and an operand that fails its check, leave it unresolved
(R308). The neighbour's own registers are not touched: only its steal bank works. -/
def State.triOutcome (s : State) (t : Tri) (b : Bank) : TriOutcome :=
  if b.clogFull then .unresolved
  else
    let s := s.updCore t.neighbour fun k => k.setBank 4 b.forRerun
    match rerun t.core t.neighbour 4 b.clog s with
    | .ok s => triJudge b ((s.core t.neighbour).bank 4)
    | _ => .unresolved

/-- The snapshot that a triangulation holds. -/
def Core.heldSnap (k : Core) (t : Tri) : Option Snap :=
  k.snaps.find? fun x => x.held && x.ab == t.ab && x.epoch == t.epoch

/-- Ends a triangulation: the snapshot goes, the neighbour resumes unless another one holds it. -/
def State.dropTri (s : State) (p : Nat) (t : Tri) (x : Snap) : State :=
  let s := s.updCore t.core fun k => { k with snaps := k.snaps.erase x }
  let s := s.updPart p fun y => { y with tris := y.tris.erase t }
  if (s.part p).tris.any fun u => u.neighbour == t.neighbour then s
  else s.updCore t.neighbour fun k => { k with triHold := false }

/-- The report of an outcome: its code and class; an unresolved one reports GRATICULE again. -/
def TriOutcome.report : TriOutcome → FCode × FClass
  | .checker => (.triChecker, .info)
  | .core => (.triCore, .step)
  | .operand => (.triOperand, .step)
  | .unresolved => (.graticule, .info)

/-- The event of an outcome. -/
def State.triEvent (s : State) (p : Nat) (c : CoreId) (o : TriOutcome) : State :=
  s.event { code := o.report.1, cls := o.report.2, part := some p, core := some c, step := s.stepNo p
            detail := Config.eventDetail o.report.1.byte.toNat c s.tick }

/-- An epoch that is never inked: it fails its own check. -/
def Core.failEpoch (k : Core) (e : W32) : Core :=
  { k with rangeFail := some (match k.rangeFail with | some f => nearer k.frontier f e | none => e) }

/-- What follows an outcome (Table 8-3, R309). -/
def State.triEnd (s : State) (p : Nat) (t : Tri) (x : Snap) (o : TriOutcome) : State :=
  let s := (s.dropTri p t x).triEvent p t.core o
  match o with
  | .checker =>
    let s := s.updCore t.core fun k => { k with suspect := true, checkerHits := k.checkerHits + 1 }
    let s := if 2 ≤ (s.core t.core).checkerHits then s.quarantineLater (.core t.core) (some .triChecker) else s
    s.advanceFrontier t.core
  | .core =>
    ((s.updCore t.core fun k => { k.failEpoch t.epoch with forceCover := true }).quarantineLater (.core t.core) (some .triCore)).smudgeSend p
  | _ => (s.updCore t.core fun k => k.failEpoch t.epoch).smudgeSend p

/-- The oldest triangulation of a core. -/
def Part.triOf (x : Part) (c : CoreId) : Option Tri := x.tris.find? fun t => t.core == c

/-- The oldest triangulation of a core, with its partition and snapshot. -/
def State.triFor (s : State) (c : CoreId) : Option (Nat × Tri × Snap) :=
  match s.partOf c with
  | none => none
  | some p =>
    match (s.part p).triOf c with
    | none => none
    | some t =>
      match (s.core c).heldSnap t with
      | none => none
      | some x => some (p, t, x)

/-- The rerun runs once the neighbour's steal bank is free (R307 step 2). -/
def execTriangulation (c : CoreId) (s : State) : Host.Outcome State Fault Refusal :=
  match s.triFor c with
  | none => .next s
  | some (p, t, x) =>
    if (s.core t.neighbour).stolen.isSome ∨ s.svr.closed.contains (.core t.neighbour) then .next s
    else .next ((s.updCore t.neighbour fun k => k.setBank 4 {}).triEnd p t x (s.triOutcome t x.bank))

/-- 1 ms after the failure. -/
def execTriangulationTimeout (c : CoreId) (s : State) : Host.Outcome State Fault Refusal :=
  match s.triFor c with
  | none => .next s
  | some (p, t, x) => .next (s.triEnd p t x .unresolved)

end Sys2Proof.Machine
end

