-- ==== Sys2Proof/Machine/Ink.lean ====
section
/-! DEFINITION. Ink blocks and their notices (spec/08 R312 to R319, Table 8-9). -/

namespace Sys2Proof.Machine

/-- Kinds of ink packets (Table 8-9). -/
def inkFrontier : Nat := 0
def inkQuery : Nat := 1
def inkInked : Nat := 2
def inkSubscribed : Nat := 3
def inkNotyet : Nat := 4
def inkDead : Nat := 5

def kindOf (p : Packet) : Nat := p.arg.toNat % 256
def pcoreOf (p : Packet) : W16 := BitVec.ofNat 16 (extField p 0x2C 2)
def pmodOf (p : Packet) : BitVec 15 := BitVec.ofNat 15 (extField p 0x2E 2)

/-- A transfer engine asks with SRC 0xFFFF and its number in MSGID, a context c of partition p with SRC 0xFF00 + c and
0x1000 + p in MSGID (log 28). -/
def ctxTag (part : Nat) : W32 := BitVec.ofNat 32 (0x1000 + part)
def tagPart (m : W32) : Option Nat := if 0x1000 ≤ m.toNat ∧ m.toNat < 0x1010 then some (m.toNat - 0x1000) else none

/-- An answer or notice to a consumer. -/
def State.inkNotice (s : State) (kind : Nat) (pcore : W16) (cmod : BitVec 15) (ccore : W16) (msgid e : W32) : Packet :=
  { s.inkPacket kind s.modId pcore e with
    dst := ccore, edge := if ccore.toNat < 0xFF00 then 0 else 4, dlocal := cmod == s.modId, dmod := cmod, msgid := msgid }

/-- Whether two subscriptions are of one consumer for one producer (R316). -/
def sameSub (a b : Sub) : Bool :=
  a.producer == b.producer && a.cmod == b.cmod && a.ccore == b.ccore && (decide (a.ccore.toNat < 0xFF00) || a.msgid == b.msgid)

/-! ### The block of a sheet -/

/-- Answers the subscriptions of a producer that its frontier has passed or that have become dead. -/
def State.notify (s : State) (c : CoreId) : State :=
  let b := s.ink c
  let due (x : Sub) : Bool := x.producer == c && (covers b.frontier x.epoch || b.isDead x.epoch)
  let ps := (s.subs.filter due).map fun x =>
    if b.isDead x.epoch then s.inkNotice inkDead (BitVec.ofNat 16 c) x.cmod x.ccore x.msgid x.epoch
    else s.inkNotice inkInked (BitVec.ofNat 16 c) x.cmod x.ccore x.msgid b.frontier
  { s with subs := s.subs.filter fun x => !due x }.sendAll ps

/-- A core's new frontier at its block (R315). -/
def execFrontier (p : Packet) (s : State) : Host.Outcome State Fault Refusal :=
  if p.typ ≠ .ink ∨ kindOf p ≠ inkFrontier ∨ p.smod ≠ s.modId then .next s
  else match s.arrive p with
  | none => .next s
  | some s =>
    let c := p.src.toNat
    let s := s.updInk c fun b => if covers b.frontier p.epoch then b else { b with frontier := p.epoch }
    .next (s.notify c)

/-- The answer to a query: at a block with frontier `f`, dead epochs `dead`, subscriptions `subs` and `room` for one
more. The second part is the subscription to record. -/
def inkAnswer (f : W32) (dead : W32 → Bool) (subs : List Sub) (room : Bool) (x : Sub) : Nat × W32 × List Sub :=
  if dead x.epoch then (inkDead, x.epoch, subs)
  else if covers f x.epoch then (inkInked, f, subs)
  else if subs.any (sameSub x) then (inkSubscribed, x.epoch, subs.map fun y => if sameSub x y then x else y)
  else if room then (inkSubscribed, x.epoch, subs ++ [x])
  else (inkNotyet, x.epoch, subs)

/-- Whether a replaced subscription is meant: its earlier SUBSCRIBED stands, and no new answer is sent (R316). -/
def inkSilent (a : Nat) (subs : List Sub) (x : Sub) : Bool := a == inkSubscribed && subs.any (sameSub x)

/-- The partition on whose account a query comes. -/
def State.queryPart (s : State) (p : Packet) : Option Nat :=
  if p.smod != s.modId then s.partOfModule p.smod
  else if p.src.toNat < 0xFF00 then s.partOf p.src.toNat
  else tagPart p.msgid

/-- A query at the block of a core's sheet. -/
def State.queryCore (s : State) (p : Packet) (x : Sub) (inPart : Bool) : State :=
  let b := s.ink x.producer
  let sheet := sheetOf x.producer
  let room := decide ((s.subs.filter fun y => sheetOf y.producer == sheet).length < 16384)
  let a := inkAnswer b.frontier (fun e => b.isDead e || !inPart) s.subs room x
  let quiet := inkSilent a.1 s.subs x
  let t : State := { s with subs := a.2.2 }
  if quiet then t else t.send (t.inkNotice a.1 (pcoreOf p) p.smod p.src p.msgid a.2.1)

/-- A query at the reduction engine of a context (R317). -/
def State.queryContext (s : State) (p : Packet) (x : Sub) (part ctx : Nat) : State :=
  let k := s.coll part ctx
  let a := inkAnswer k.frontier (fun e => k.dead.any fun r => inRange r e) k.subs (decide (k.subs.length < 16384)) x
  let quiet := inkSilent a.1 k.subs x
  let t := s.updColl part ctx fun k => { k with subs := a.2.2 }
  if quiet then t else t.send (t.inkNotice a.1 (pcoreOf p) p.smod p.src p.msgid a.2.1)

/-- A query of a consumer. One of another module about a core outside its job's partition is answered DEAD (R544). -/
def execQuery (p : Packet) (s : State) : Host.Outcome State Fault Refusal :=
  if p.typ ≠ .ink ∨ kindOf p ≠ inkQuery then .next s
  else match s.arrive p with
  | none => .next s
  | some s =>
    let c := (pcoreOf p).toNat
    let x : Sub := ⟨c, p.smod, p.src, p.msgid, p.epoch⟩
    if 0xFF00 ≤ c then
      match s.queryPart p with
      | some part => .next (s.queryContext p x part (c % 256))
      | none => .next s
    else if !coreExists c && p.smod == s.modId then .next s
    else if p.smod = s.modId then .next (s.queryCore p x true)
    else match s.partOfModule p.smod with
      | some part => .next (s.queryCore p x ((s.part part).hasCore c))
      | none => .next (s.queryCore p x false)

/-! ### The consumer -/

/-- The frontier that a context's foreign entries allow (R370: its own checks count as passed). -/
def Coll.frontierNow (k : Coll) : W32 :=
  match (k.foreign.flatMap fun f => f.marks.map fun m => m.2 + 1).filter fun b => covers k.epoch b with
  | [] => k.epoch
  | b :: r => r.foldl (nearer k.frontier) b - 1

/-- Moves a context's frontier and answers the subscriptions it now covers. -/
def State.advanceContext (s : State) (part ctx : Nat) : State :=
  let k := s.coll part ctx
  let f := k.frontierNow
  if covers k.frontier f then s
  else
    let dead (e : W32) : Bool := k.dead.any fun r => inRange r e
    let due (x : Sub) : Bool := covers f x.epoch || dead x.epoch
    let me : W16 := BitVec.ofNat 16 (0xFF00 + ctx)
    let ps := (k.subs.filter due).map fun x =>
      if dead x.epoch then s.inkNotice inkDead me x.cmod x.ccore x.msgid x.epoch
      else s.inkNotice inkInked me x.cmod x.ccore x.msgid f
    (s.updColl part ctx fun k => { k with frontier := f, subs := k.subs.filter fun x => !due x }).sendAll ps

/-- Who an answer is for. -/
inductive InkTo where
  | core (c : CoreId)
  | engine (e : Nat)
  | context (part ctx : Nat)
  | nobody
  deriving DecidableEq, Repr

def inkTo (p : Packet) : InkTo :=
  if p.dst.toNat < 0xFF00 then .core p.dst.toNat
  else match tagPart p.msgid with
    | some part => .context part (p.dst.toNat % 256)
    | none => if p.msgid.toNat < 16 then .engine p.msgid.toNat else .nobody

/-- INKED tells held arrivals whose producer has inked them (spec/06 R245). -/
def HeldArr.inked (p : Packet) (h : HeldArr) : HeldArr :=
  match h.producer with
  | some (m, c, e) => if m = (pmodOf p) ∧ c = (pcoreOf p) ∧ covers p.epoch e then { h with producer := none } else h
  | none => h

/-- Records an engine's answer. -/
def State.engineAnswer (s : State) (e : Nat) (ok : Bool) : State :=
  match s.engine e with
  | some x => if x.asked then s.setEngine e (some { x with answer := some ok }) else s
  | none => s

/-- INKED at the consumer: entries retire or advance, and its frontier follows. -/
def execInked (p : Packet) (s : State) : Host.Outcome State Fault Refusal :=
  if p.typ ≠ .ink ∨ kindOf p ≠ inkInked then .next s
  else match s.arrive p with
  | none => .next s
  | some s =>
    match inkTo p with
    | .core c =>
      let s := s.updCore c fun k =>
        { k with foreign := foreignInked k.foreign (pmodOf p) (pcoreOf p) p.epoch, heldArrs := k.heldArrs.map (HeldArr.inked p) }
      .next (s.advanceFrontier c)
    | .context part ctx =>
      let s := s.updColl part ctx fun k => { k with foreign := foreignInked k.foreign (pmodOf p) (pcoreOf p) p.epoch }
      .next (s.advanceContext part ctx)
    | .engine e => .next (s.engineAnswer e true)
    | .nobody => .next s

/-- SUBSCRIBED: the consumer awaits INKED. -/
def execSubscribed (p : Packet) (s : State) : Host.Outcome State Fault Refusal :=
  if p.typ ≠ .ink ∨ kindOf p ≠ inkSubscribed then .next s
  else match s.arrive p with
  | none => .next s
  | some s => .next s

/-- Marks a foreign entry for another query. -/
def Foreign.refused (p : Packet) (f : Foreign) : Foreign :=
  if f.pmod = pmodOf p ∧ f.pcore = (pcoreOf p) then { f with again := true } else f

/-- Marks a held arrival for another query. -/
def HeldArr.refused (p : Packet) (h : HeldArr) : HeldArr :=
  match h.producer with
  | some (m, c, e) => if m = (pmodOf p) ∧ c = (pcoreOf p) ∧ e = p.epoch then { h with again := true } else h
  | none => h

/-- NOTYET: the consumer asks again later. An engine asks at its next attempt to move the tile. -/
def execNotyet (p : Packet) (s : State) : Host.Outcome State Fault Refusal :=
  if p.typ ≠ .ink ∨ kindOf p ≠ inkNotyet then .next s
  else match s.arrive p with
  | none => .next s
  | some s =>
    match inkTo p with
    | .core c =>
      .next (s.updCore c fun k =>
        { k with foreign := k.foreign.map (Foreign.refused p), heldArrs := k.heldArrs.map (HeldArr.refused p) })
    | .context part ctx => .next (s.updColl part ctx fun k => { k with foreign := k.foreign.map (Foreign.refused p) })
    | .engine e =>
      match s.engine e with
      | some x => .next (s.setEngine e (some { x with asked := false }))
      | none => .next s
    | .nobody => .next s

/-- 1,024 mesh cycles after NOTYET the query leaves again. For a core, `k` counts its foreign entries and then its held
arrivals; for context c, named 0xFF00 + c, it is 64 × partition + entry. -/
def execNotyetRetry (c : CoreId) (k : Nat) (s : State) : Host.Outcome State Fault Refusal :=
  if 0xFF00 ≤ c then
    let part := k / 64
    match (s.coll part (c % 256)).foreign[k % 64]? with
    | some f =>
      if f.again then
        let s := s.updColl part (c % 256) fun x => { x with foreign := x.foreign.set (k % 64) { f with again := false } }
        .next (s.send { s.inkQuery (BitVec.ofNat 16 c) f.pmod f.pcore f.epoch with msgid := ctxTag part })
      else .next s
    | none => .next s
  else
    let x := s.core c
    match x.foreign[k]?, x.heldArrs[k - x.foreign.length]? with
    | some f, _ =>
      if f.again then
        .next ((s.updCore c fun j => { j with foreign := j.foreign.set k { f with again := false } }).send
          (s.inkQuery (BitVec.ofNat 16 c) f.pmod f.pcore f.epoch))
      else .next s
    | none, some h =>
      match h.again, h.producer with
      | true, some (m, d, e) =>
        .next ((s.updCore c fun j =>
            { j with heldArrs := j.heldArrs.set (k - x.foreign.length) { h with again := false } }).send
          (s.inkQuery (BitVec.ofNat 16 c) m d e))
      | _, _ => .next s
    | none, none => .next s

/-- Whether a held arrival is never accepted: its own epoch, or what it landed, is dead (R319). -/
def State.arrDead (s : State) (c : CoreId) (p : Packet) (h : HeldArr) : Bool :=
  (match h.own with
    | some e => (s.ink c).isDead e || (s.core c).dependsDead e
    | none => false)
  || (match h.producer with
    | some (m, d, e) => m == (pmodOf p) && d == (pcoreOf p) && e == p.epoch
    | none => false)

/-- DEAD at the consumer: what depends on the epoch is never inked, and the arrivals it holds end with ACCESS. Other
holds end when their instruction is tried again. -/
def execDead (p : Packet) (s : State) : Host.Outcome State Fault Refusal :=
  if p.typ ≠ .ink ∨ kindOf p ≠ inkDead then .next s
  else match s.arrive p with
  | none => .next s
  | some s =>
    match inkTo p with
    | .core c =>
      let s := s.updCore c fun k => { k with foreign := foreignDead k.foreign (pmodOf p) (pcoreOf p) p.epoch }
      let hs := (s.core c).heldArrs.filter (s.arrDead c p)
      let s := s.updCore c fun k => { k with heldArrs := k.heldArrs.filter fun h => !hs.contains h }
      let k := s.core c
      .next (hs.foldl (fun s _ => s.raise c k.pc k.seq dNone .access .job) s)
    | .context part ctx =>
      .next (s.updColl part ctx fun k => { k with foreign := foreignDead k.foreign (pmodOf p) (pcoreOf p) p.epoch })
    | .engine e => .next (s.engineAnswer e false)
    | .nobody => .next s

end Sys2Proof.Machine
end

