-- ==== Sys2Proof/Machine/Smudge.lean ====
section
/-! DEFINITION. Smudges, restarts and the ink commit (spec/08 R321 to R331, spec/04 R176, spec/09 R368, R371,
spec/10 R395, spec/11 R414, R428). -/

namespace Sys2Proof.Machine

/-! ### Discarding a partition's work (R323) -/

/-- Whether a packet of this module belongs to the work of the partition's cores: a message, a waypoint packet, an ink
query or answer, or an overlay digest that leaves or reaches one of them. Frontier updates and the arrivals of
transfer engines stay. -/
def Part.ownsPacket (x : Part) (m : BitVec 15) (p : Packet) : Bool :=
  let out := p.smod == m && p.src.toNat < 0xFF00 && x.hasCore p.src.toNat
  let home := p.smod == m && p.src == 0xFFFF && (p.dlocal || p.dmod == m) && x.hasCore p.dst.toNat
  match p.typ with
  | .ink => out && kindOf p != inkFrontier || home
  | .warm => out
  | .warr => out
  | .wqry => out
  | .wrsp => out || home
  | .wdone => out || home
  | .mrts => out
  | .mgnt => out || home || (p.smod == m && x.hasCore p.dst.toNat)
  | .mdata => out
  | .acc => out
  | .accrsp => out
  | .ovd => out
  | .ovr => out
  | _ => false

/-- What a core loses when a smudge is applied; it stops as for a step-class fault (Table 4-25). Its prefetch slots are free
(spec/04 R172), and its message engine answers an OK of a core with CANCEL (spec/06 R227); contexts begin anew. -/
def Core.smudged (k : Core) : Core :=
  if k.run = .off then k
  else
    let k := ((k.stop .stopStep k.seq).setBank 4 {}).freeSlots
    { k with sends := [], sent := []
             givenUp := (k.givenUp ++ k.sends.filter fun m => m.phase == .asked && !m.acc).filter fun m => decide (m.dst.toNat < 0xFF00)
             pends := k.pends.filter fun p => match p.owner with | .send _ => false | _ => true
             foreign := [], heldArrs := [], hold := none, repeatLeft := 0, snaps := [], rangeFail := none, stolen := none, lent := []
             triHold := false, ovl := { peer := k.ovl.peer } }

/-- The epochs above the frontier become a dead range, the last four of which the ink block holds (R315, R323). -/
def State.deaden (s : State) (c : CoreId) : State :=
  let k := s.core c
  if covers k.frontier k.epoch then s
  else s.updInk c fun b => { b with dead := ((k.frontier + 1, k.epoch) :: b.dead).take 4 }

/-- The waypoints of a partition return to their launch values (spec/06 R238). -/
def State.resetWps (s : State) (x : Part) : State :=
  { s with wps := s.wps.filter fun e => !x.hasSheet (wpHome e.1) }

/-- Drops a partition's packets and waypoint values. -/
def State.discardWork (s : State) (x : Part) : State :=
  let s := s.resetWps x
  { s with net := s.net.filter fun p => !x.ownsPacket s.modId p }

/-! ### Carry logs and collectives (spec/09 R368, R371) -/

/-- Whether a context keeps a carry log that it writes. -/
def Coll.logs (k : Coll) : Option Nat :=
  match k.desc with
  | some d => if d.carry ≠ 0 ∧ !d.replay then some d.carry else none
  | none => none

/-- Copies the 4-byte word at `src` of a carry log's header to `dst`. -/
def State.carryHeader (s : State) (a src dst : Nat) : State :=
  let a := s.translate a
  match s.unitRead (a + src) 4 with
  | .bytes bs => s.unitWrite (a + dst) bs
  | _ => s

/-- The contexts of a partition that hold anything. -/
def State.contexts (s : State) (part : Nat) : List Nat :=
  (s.fab.colls.filter fun e => e.1 / 256 == part).map fun e => e.1 % 256

/-- A context after a smudge: no instance, slots and carries free, credits as at the start; its epochs above its
frontier are dead. -/
def Coll.smudged (k : Coll) (committed : W32) : Coll :=
  { desc := k.desc
    lastStep := match k.lastStep with | some v => if v ≤ committed then some v else none | none => none
    epoch := k.epoch, frontier := k.epoch
    dead := if covers k.frontier k.epoch then k.dead else ((k.frontier + 1, k.epoch) :: k.dead).take 4
    subs := k.subs, ovl := { peer := k.ovl.peer } }

/-- Aborts every collective of a partition without delivery; `roll` takes its carry logs back to COMMITTED. -/
def State.endColls (s : State) (part : Nat) (roll : Bool) : State :=
  (s.contexts part).foldl (fun s ctx =>
    let s := match (if roll then (s.coll part ctx).logs else none) with
      | some a => s.carryHeader a 4 0
      | none => s
    let s := s.updColl part ctx fun k => k.smudged (s.part part).commitStep
    let k := s.coll part ctx
    let dead (x : Sub) : Bool := k.dead.any fun r => inRange r x.epoch
    let me : W16 := BitVec.ofNat 16 (0xFF00 + ctx)
    let gone (x : Sub) : Bool := (x.cmod == s.modId && (s.part part).hasCore x.ccore.toNat) || dead x
    let ps := (k.subs.filter fun x => dead x && x.cmod != s.modId).map fun x =>
      s.inkNotice inkDead me x.cmod x.ccore x.msgid x.epoch
    (s.updColl part ctx fun k => { k with subs := k.subs.filter fun x => !gone x }).sendAll ps) s

def State.abortColls (s : State) (part : Nat) : State := s.endColls part true

/-! ### Applying a smudge -/

/-- A TILES transfer of the partition that holds a tile of a now-dead epoch for inking ends with ACCESS. -/
def State.endDeadHold (s : State) (part e : Nat) : State :=
  match s.engine e with
  | none => s
  | some x =>
    if x.part ≠ part ∨ !x.d.tiles ∨ x.d.count.toNat ≤ x.next then s
    else
      let a := s.translate (x.d.src.toNat + 4096 * x.next)
      let ink := x.d.dstHost || s.inkRegion part (s.translate (x.d.dst.toNat + 4096 * x.next)) 4096
      match s.unitRead (s.cartAddr a) 64 with
      | .bytes cart =>
        if ink && (tileCheck cart).isNone && s.tileInk x (Cart.parse cart) == .dead then
          s.endXfer e x (.fault .access) (BitVec.ofNat 64 x.next)
        else s
      | _ => s

/-- Triangulations in progress end with their outcome recorded and no further action. -/
def State.endTris (s : State) (part : Nat) : State :=
  let ts := (s.part part).tris
  let s := ts.foldl (fun s t =>
    match (s.core t.core).heldSnap t with
    | some x => s.triEvent part t.core (s.triOutcome t x.bank)
    | none => s) s
  s.updPart part fun x => { x with tris := [] }

/-- R323 for partition `part`; `keep` tells that its cores stay stopped until the next launch (spec/09 R377). -/
def State.applySmudge (s : State) (part : Nat) (tr : Nat) (keep : Bool) : State :=
  let x := s.part part
  let s := s.endTris part
  let cs := x.cores.filter fun c => (s.core c).run != .off
  let s := cs.foldl State.deaden s
  let s := s.updCores x fun _ k =>
    let k := k.smudged
    if keep && k.run == .stopStep then { k with run := .stopJob } else k
  let s := s.discardWork x
  let s := s.abortColls part
  -- subscriptions of the partition's own cores are dropped, those on now-dead epochs are answered DEAD
  let s : State := { s with subs := s.subs.filter fun y => !(y.cmod == s.modId && x.hasCore y.ccore.toNat) }
  let s := cs.foldl (fun s c => (s.advanceFrontier c).notify c) s
  let s := (List.range 16).foldl (fun s e => s.endDeadHold part e) s
  s.updPart part fun x =>
    { x with smudging := some ⟨tr, false, keep⟩, voted := false, votes := []
             running := x.running.map fun r => { r with attempts := r.attempts + 1 } }

/-- A smudge applied after its restart tick also stops the job (spec/09 R346). -/
def State.takeSmudge (s : State) (part : Nat) (tr : Nat) (keep : Bool) : State :=
  if tr < s.tick.toNat then (s.applySmudge part tr true).stopJob part .linkLost else s.applySmudge part tr keep

/-- A smudge for partition `part` (R322); none acts once the ink commit has ended the attempt's restore state (R329). Until the restart, smudges of the attempt being smudged move the restart
tick, before and after ATTEMPT has advanced (log 29). -/
def execSmudge (part : Nat) (p : Packet) (s : State) : Host.Outcome State Fault Refusal :=
  let mine := if p.smod == s.modId then s.sheetPart (sheetOf p.dst.toNat) == some part
    else (s.otherModules part).contains p.smod
  if p.typ ≠ .smudge ∨ !mine then .next s
  else match s.arrive p with
  | none => .next s
  | some s =>
    let x := s.part part
    let a : Byte := p.arg.setWidth 8
    let tr := p.time.toNat
    if x.job.isNone ∨ x.committed then .next s
    else match x.smudging with
      | none => if a = x.attempt then .next (s.takeSmudge part tr false) else .next s
      | some m =>
        if a = (if m.quiesced then x.attempt - 1 else x.attempt) then
          .next (s.updPart part fun x => { x with smudging := some { m with tr := max m.tr tr } })
        else if m.quiesced ∧ a = x.attempt then .next (s.takeSmudge part tr m.keep)
        else .next s

/-- The discarding is complete; ATTEMPT advances (R323). -/
def execQuiesced (part : Nat) (s : State) : Host.Outcome State Fault Refusal :=
  match (s.part part).smudging with
  | none => .next s
  | some m =>
    if m.quiesced then .next s
    else
      .next ((s.discardWork (s.part part)).updPart part fun x =>
        { x with attempt := x.attempt + 1, smudging := some { m with quiesced := true } })

/-! ### Restart (R324, spec/04 R176) -/

/-- A core as it restarts. Core store with its tags, STEPPC, IDLE_n, CYCLE, ICOUNT, CFAULT and the epochs stay, and the
messages that a late MGNT still cancels (spec/06 R227). -/
def Core.restarted (k : Core) : Core :=
  { run := .running, pc := k.steppc, steppc := k.steppc
    banks := Sparse.tabulate {} 4 fun n => Bank.clear { written := Sparse.get {} k.restoreDat n }
    store := k.store, dblErr := k.dblErr, tags := k.tags
    ctl := k.restore, restore := k.restore, restoreDat := k.restoreDat
    idle := k.idle, idleBase := k.idleBase, cycle := k.cycle, icount := k.icount, busy := k.busy, busyBase := k.busyBase
    cfault := k.cfault, epoch := k.epoch, frontier := k.frontier
    seq := k.seq, msgid := k.msgid, uid := k.uid, givenUp := k.givenUp, ovl := k.ovl
    suspect := k.suspect, forceCover := k.forceCover, checkerHits := k.checkerHits }

/-- At the restart tick every core restarts, but one that a job-class fault or an abort keeps stopped. -/
def execRestart (part : Nat) (s : State) : Host.Outcome State Fault Refusal :=
  match (s.part part).smudging with
  | none => .next s
  | some m =>
    if !m.quiesced ∨ s.tick.toNat < m.tr then .next s
    else
      let s := s.updPart part fun x => { x with smudging := none }
      .next (s.updCores (s.part part) fun _ k => if k.run = .stopStep then k.restarted else k)

/-! ### The commit (R326 to R330) -/

/-- The conditions of R327. -/
def State.votes (s : State) (part : Nat) : Bool :=
  let x := s.part part
  x.job.isSome && x.running.isSome && !x.voted && x.smudging.isNone && x.cwp != 0xFFFF
  && s.wpOk part x.cwp.toNat && (s.wp x.cwp.toNat).state == .complete
  && x.cores.all fun c => (s.core c).run == .halted

/-- The last partial overlay block of each context is digested when its partition's cores have halted (spec/11 R425; log 25). -/
def State.closeContexts (s : State) (part : Nat) : State :=
  if s.overlayOn part then
    (s.contexts part).foldl (fun s ctx =>
      let o := s.ovl part (0xFF00 + ctx)
      if o.ord % 64 = 0 then s else s.ovlClose part (0xFF00 + ctx) (s.stepNo part) (o.ord / 64)) s
  else s

def execCommitVote (part : Nat) (s : State) : Host.Outcome State Fault Refusal :=
  if !s.votes part || s.rst.inReset then .next s
  else
    let x := s.part part
    let pk : Packet :=
      { typ := .vote, src := 0xFFFF, dlocal := false, smod := s.modId, arg := x.attempt.setWidth 32, time := s.tick
        edge := 5, ext := extOf (s.stepNo part).toNat }
    let s := (s.closeContexts part).updPart part fun x => { x with voted := true, votes := x.votes ++ [(s.modId, s.tick)] }
    .next (s.sendAll ((s.otherModules part).map fun m => { pk with dmod := m }))

/-- The commit tick, once the votes of every module of the job are held (R329). -/
def State.commitTick (s : State) (part : Nat) : Option Nat :=
  let x := s.part part
  if x.voted && x.smudging.isNone && (s.otherModules part).all fun m => x.votes.any fun v => v.1 == m then
    some (x.votes.foldl (fun t v => max t v.2.toNat) 0 + 1000 * x.smdelay.toNat)
  else none

/-- A vote of another module (R328); the last one after the commit tick stops the job (spec/09 R346). -/
def execVote (part : Nat) (p : Packet) (s : State) : Host.Outcome State Fault Refusal :=
  if p.typ ≠ .vote ∨ !(s.otherModules part).contains p.smod then .next s
  else match s.arrive p with
  | none => .next s
  | some s =>
    let x := s.part part
    match x.running with
    | none => .next s
    | some r =>
      let same := p.arg.setWidth 8 == x.attempt && extField p 0x2C 4 == r.step.toNat
      if !same || x.votes.any (fun v => v.1 == p.smod) then .next s
      else
        let s := s.updPart part fun x => { x with votes := x.votes ++ [(p.smod, p.time)] }
        match s.commitTick part with
        | some tc => if tc < s.tick.toNat then .next (s.stopJob part .linkLost) else .next s
        | none => .next s

/-- CHK_PART_p_COMMIT (Table 8-7). -/
def Part.commitWord (x : Part) : W64 :=
  (x.commitStep.setWidth 64 <<< 32) ||| (x.attempt.setWidth 64 <<< 1) ||| (if x.vsel then 1 else 0)

/-- The increase of a core's IDLE_n, modulo 2^48, since the previous commit. -/
def Core.idleSince (k : Core) (n : Nat) : Nat :=
  ((Sparse.get 0 k.idle n).toNat + 2 ^ 48 - (Sparse.get 0 k.idleBase n).toNat % 2 ^ 48) % 2 ^ 48

/-- SVR_PART_p_IDLE_n and SVR_PART_p_CYCLES (spec/10 R395). -/
def State.shareSums (s : State) (part : Nat) : State :=
  let x := s.part part
  let ks := x.cores.map s.core
  let s := s.updPart part fun x => { x with
    idle := Sparse.tabulate 0 8 fun n => BitVec.ofNat 64 (ks.foldl (fun t k => t + k.idleSince n) 0)
    cycles := BitVec.ofNat 64 (ks.foldl (fun t k => t + (k.busy - k.busyBase)) 0) }
  s.updCores x fun _ k => { k with idleBase := k.idle, busyBase := k.busy }

/-- The return copy of a STEP (spec/12 R443 step 5): what it reads, or the fault of its read. -/
def State.returnCopy (s : State) (r : StepRun) : State × Status :=
  if r.rlen = 0 then (s, .ok)
  else match s.unitRead (s.translate r.rsrc.toNat) r.rlen.toNat with
    | .bytes bs => (s.hostData r.rdst.toNat bs, .ok)
    | .fault e => (s, .fault e)
    | .poison _ => (s, .fault .memUncorrectable)

/-- The ink commit at tick T_c: the commit register and cell, the end of the restore state, CTICK, the carry logs, then the
STEP's return copy and its record. -/
def execInkCommit (part : Nat) (s : State) : Host.Outcome State Fault Refusal :=
  match s.commitTick part, (s.part part).running with
  | some tc, some r =>
    if s.tick.toNat < tc ∨ s.rst.inReset then .next s
    else
      let s := s.updPart part fun x => { x with
        vsel := !x.vsel, commitStep := r.step, attempt := 0, ctick := BitVec.ofNat 64 tc, voted := false, votes := []
        committed := true }
      let x := s.part part
      let s := s.updCores x fun _ k => { k with restore := {}, restoreDat := [] }
      let s := if x.ccell = 0 then s else s.unitWrite (s.translate x.ccell.toNat) (leBytes 8 x.commitWord.toNat)
      let s := (s.contexts part).foldl (fun s ctx => match (s.coll part ctx).logs with
        | some a => s.carryHeader a 0 4
        | none => s) s
      let s := s.shareSums part
      let y := s.returnCopy r
      .next (y.1.finishStep part y.2 true)
  | _, _ => .next s

end Sys2Proof.Machine
end

