-- ==== Sys2Proof/Machine/Meridian.lean ====
section
/-! DEFINITION. The meridian unit, launches (spec/11 R397 to R415, R424). -/

namespace Sys2Proof.Machine

/-! ### Ports and routes (spec/09 R341) -/

def Port.up (o : Port) : Bool := o.state == .up4 || o.state == .up2
/-- The number of live lanes. -/
def Port.live (o : Port) : Nat := ((List.range 4).filter fun i => o.lanes.getLsbD i).length

/-- The UP port whose partner is a given T4 module. -/
def State.directPort (s : State) (m : BitVec 15) : Option Nat :=
  (List.range 12).find? fun n => (s.port n).up && (s.port n).peerv && (s.port n).pkind == 0 && (s.port n).peer == m

/-- The port that the route table names for a module. -/
def State.routePort (s : State) (m : BitVec 15) : Option Nat :=
  let b := Sparse.get 0 s.fab.routes m.toNat
  if routeValid b && decide (b.toNat % 16 < 12) then some (b.toNat % 16) else none

/-- A packet leaves by port `n`, whatever the route table says. -/
def State.postOn (s : State) (n : Nat) (p : Packet) : State := s.updPort n fun o => { o with direct := o.direct ++ [p] }

/-! ### Time transfer (R399 to R409) -/

def roleAlone : BitVec 2 := 0
def roleRoot : BitVec 2 := 1
def roleLink : BitVec 2 := 2
def roleEdge : BitVec 2 := 3

/-- The count in sixths of a tick, with a stamp's sixths 0 to 5. -/
def State.stamp (s : State) (sixths : Nat) : Int := 6 * (s.tick.toNat : Int) + (sixths % 6 : Nat)

/-- A stamp's tick and sixths. -/
def stampTick (x : Int) : W64 := BitVec.ofInt 64 (x / 6)
def stampSixths (x : Int) : Nat := (x % 6).toNat

/-- A MER packet of a kind to a module (Table 11-1). -/
def State.merPacket (s : State) (kind : Nat) (m : BitVec 15) (t : Int) (ext : Nat) : Packet :=
  { typ := .mer, src := 0xFFFF, dlocal := false, dmod := m, smod := s.modId, edge := 4, arg := BitVec.ofNat 32 kind
    time := stampTick t, ext := extOf (stampSixths t + ext) }

/-- A stamp of a MER packet: 8 bytes and a sixth. -/
def merStamp (t sixths : Nat) : Int := 6 * (t : Int) + sixths

/-- Whether this module takes time from another one. -/
def Meridian.follower (m : Meridian) : Bool := m.role == roleLink || m.role == roleEdge

/-- MER_STATUS.OFFSET of an offset in twelfths of a tick: ps, to the nearest (log 30). -/
def offsetReg (t : Int) : W32 :=
  let ps := (t * 1000 + 6) / 12
  if -(2 ^ 31) ≤ ps ∧ ps < 2 ^ 31 then BitVec.ofInt 32 ps else Config.offsetPast t

/-- One valid update with offset `t` in twelfths of a tick (R404 to R406). -/
def State.merUpdate (s : State) (t : Int) : State :=
  let m := s.mer
  let lock := if m.lock = .free then .acquiring else m.lock
  let small := decide (t.natAbs ≤ 24)
  let good := if small then m.good + 1 else 0
  let step := lock == .acquiring && decide (12000 < t.natAbs) && !s.attached
  let lock := match lock with
    | .acquiring => if 16 ≤ good then .locked else .acquiring
    | .holdover => if small then .locked else .holdover
    | x => x
  (if step then s.hwSet 0x10008 0x200 else s).updMer fun m => { m with
    lock := lock, good := good, offsetPs := offsetReg t
    count := if step then BitVec.ofInt 64 ((12 * (m.count.toNat : Int) - t) / 12) else m.count
    stepped := m.stepped || step
    theta := if step then 0 else t }

/-- TREQ leaves by UPPORT, whose margin die stamps it in the tick of the crossing, `sixths` into it (R399, R400); through a
forwarder its DMOD is a free value (log 98). -/
def execTreqSend (sixths : Nat) (s : State) : Host.Outcome State Fault Refusal :=
  let n := s.mer.upport.toNat
  if s.mer.role ≠ roleLink ∨ s.rst.inReset ∨ !(s.port n).up then .next s
  else .next (s.postOn n (s.merPacket 1 (if (s.port n).pkind = 0 then (s.port n).peer else Config.upstream) 0
      (sixths % 6)))

/-- Where and when the header of a MER packet crossed a port: as the port noted it, or now by the port the command names. -/
def State.crossed (s : State) (p : Packet) (port : Nat) : Nat × W64 :=
  match s.mer.arrived.find? fun x => x.1 == p with
  | some x => x.2
  | none => (port, s.tick)

/-- A MER packet has been taken up. -/
def State.merTaken (s : State) (p : Packet) : State := s.updMer fun m => { m with arrived := m.arrived.filter fun x => x.1 != p }

/-- TREQ at the upstream: TRSP with t2 and CORRQ leaves by the port on which it came, which stamps t3, `sixths3` into the
tick (R399). -/
def execTreq (p : Packet) (port sixths2 sixths3 : Nat) (s : State) : Host.Outcome State Fault Refusal :=
  if p.typ ≠ .mer ∨ p.arg.toNat % 256 ≠ 1 then .next s
  else match s.arrive p with
  | none => .next s
  | some s =>
    let x := s.crossed p port
    let ext := sixths3 % 6 + 2 ^ 32 * x.2.toNat + 2 ^ 96 * (sixths2 % 6) + 2 ^ 128 * extField p 0x3C 2
    .next ((s.merTaken p).postOn x.1 (s.merPacket 2 p.smod 0 ext))

/-- TRSP at the follower (R400). -/
def execTrsp (p : Packet) (port sixths : Nat) (s : State) : Host.Outcome State Fault Refusal :=
  if p.typ ≠ .mer ∨ p.arg.toNat % 256 ≠ 2 then .next s
  else match s.arrive p with
  | none => .next s
  | some s =>
    let x := s.crossed p port
    let s := s.merTaken p
    match s.mer.treqSent with
    | none => .next s
    | some t1 =>
      if s.mer.role ≠ roleLink ∨ x.1 ≠ s.mer.upport.toNat then .next s
      else
        let t2 := merStamp (extField p 0x30 8) (extField p 0x38 1)
        let t3 := merStamp p.time.toNat (extField p 0x2C 1)
        let a := t2 - t1 - extField p 0x3C 2
        let b := merStamp x.2.toNat (sixths % 6) - t3 - extField p 0x3E 2
        let ns := ((a + b) / 12).toNat
        .next ((s.updMer fun m =>
          { m with treqSent := none, delay := BitVec.ofNat 16 (min ns 65535) }).merUpdate (b - a))

/-- The modules of this board that this one knows: partners of its ports and modules of its route table (log 30). -/
def State.boardModules (s : State) : List (BitVec 15) :=
  let known := (s.fab.ports.filter fun e => e.2.peerv && e.2.pkind == 0).map fun e => e.2.peer
  ((known ++ s.routedModules).filter fun m => m != s.modId && m.toNat / 8 == s.modId.toNat / 8).eraseDups

/-- An EDGE packet leaves by its route, and by the port whose partner the module is where the route table names none (log
98). -/
def State.sendEdge (s : State) (p : Packet) : State :=
  match s.routePort p.dmod, s.directPort p.dmod with
  | some _, _ => s.send p
  | none, some n => s.postOn n p
  | none, none => s

/-- A rising edge of MER_SYNC_IN: latched; a module that is no EDGE follower sends EDGE on its board (R402, R403). -/
def execMerSyncEdge (sixths : Nat) (s : State) : Host.Outcome State Fault Refusal :=
  if s.rst.inReset then .next s
  else
    let t := s.stamp sixths
    let s := s.updMer fun m => { m with latches := (t :: m.latches).take 4, edgeAt := some s.now }
    if s.mer.role = roleEdge then .next s
    else .next (s.boardModules.foldl (fun s m => s.sendEdge (s.merPacket 3 m t 0)) s)

/-- EDGE from the board reference (R402). -/
def execEdge (p : Packet) (s : State) : Host.Outcome State Fault Refusal :=
  if p.typ ≠ .mer ∨ p.arg.toNat % 256 ≠ 3 then .next s
  else match s.arrive p with
  | none => .next s
  | some s =>
    let s := s.merTaken p
    let t := merStamp p.time.toNat (extField p 0x2C 1)
    if s.mer.role ≠ roleEdge ∨ p.smod ≠ s.boardPeer s.mer.bref.toNat then .next s
    else match s.mer.latches.find? fun l => decide ((l - t).natAbs ≤ 6 * 25000) with
      | none => .next s
      | some l => .next (s.merUpdate (2 * (l - t)))

/-- Four exchange intervals without an update (R405). -/
def execHoldoverEntry (s : State) : Host.Outcome State Fault Refusal :=
  if s.mer.follower ∧ (s.mer.lock = .locked ∨ s.mer.lock = .acquiring) then
    .next (s.updMer fun m => { m with lock := .holdover, good := 0 })
  else .next s

/-- The partitions with a job that has not been stopped. -/
def State.runningJobs (s : State) : List Nat :=
  (List.range 16).filter fun p => (s.part p).job.isSome && !(s.part p).stopped

/-- After `ms` milliseconds in HOLDOVER, or with an offset above 50 ns, the jobs stop (R409). -/
def execMeridianLoss (ms : Nat) (s : State) : Host.Outcome State Fault Refusal :=
  if s.mer.follower ∧ ((s.mer.lock = .holdover ∧ 100 ≤ ms) ∨ 600 < s.mer.theta.natAbs) then
    .next (s.runningJobs.foldl (fun s p => s.stopJob p .linkLost) s)
  else .next s

/-- MER_CFG (Table 11-2, R406, R415). -/
def execMerCfgWrite (v : W64) (s : State) : Host.Outcome State Fault Refusal :=
  if s.rst.inReset ∨ s.attached then .next s
  else
    let role : BitVec 2 := v.setWidth 2
    let m := s.mer
    let m := { m with bref := (v >>> 13).setWidth 3, upport := (v >>> 8).setWidth 4, role := role }
    if role = roleAlone ∨ role = roleRoot then .next { s with mer := { m with lock := .locked } }
    else .next { s with mer := { m with lock := .free, latches := [], good := 0, theta := 0, treqSent := none } }

def execMerSet (v : W64) (s : State) : Host.Outcome State Fault Refusal :=
  if s.rst.inReset ∨ s.attached ∨ s.mer.follower then .next s
  else .next (s.updMer fun m => { m with count := v })

/-! ### Launch (R411 to R413, spec/04 R131) -/

/-- A write of MER_PART_p_LAUNCH by the host: the cancel of R413, or a launch at entry address 0. -/
def State.hostLaunch (s : State) (part : Nat) (v : W64) : State :=
  let x := s.part part
  if v = 0 ∧ x.lstate = .pending ∧ s.tick.toNat + 10000 ≤ x.launch.toNat then
    s.updPart part fun x => { x with launch := 0, lstate := .none }
  else s.launchWrite part v 0

def execMerPartLaunchWrite (part : Nat) (v : W64) (s : State) : Host.Outcome State Fault Refusal :=
  if s.rst.inReset ∨ 16 ≤ part then .next s else .next (s.hostLaunch part v)

def execLaunchCancel (part : Nat) (s : State) : Host.Outcome State Fault Refusal :=
  if s.rst.inReset ∨ 16 ≤ part then .next s else .next (s.hostLaunch part 0)

/-- A core as it starts at a launch. Its core store stays, and what outlives a step: numbers of messages and
instructions, the marks of R309, the overlay records and digests not yet compared. R131 lists what a launch sets and does not
name the histogram slots; that both are then empty is the model's choice, as R176 has it for a restart (log 94). -/
def Core.launched (k : Core) (entry : W32) : Core :=
  let a : BitVec 18 := entry.setWidth 18 &&& 0x3FFFC
  { run := .running, pc := a, steppc := a, store := k.store, dblErr := k.dblErr, tags := k.tags
    seq := k.seq, msgid := k.msgid, uid := k.uid, givenUp := k.givenUp
    ovl := { k.ovl with ord := 0 }
    suspect := k.suspect, forceCover := k.forceCover, checkerHits := k.checkerHits }

/-- The overlay ordinals of a partition's contexts restart with the step (R424). -/
def State.beginStep (s : State) (part : Nat) : State :=
  (s.contexts part).foldl (fun s ctx => s.updColl part ctx fun k => { k with ovl := { k.ovl with ord := 0 } }) s

/-- At the launch tick every core starts. Epochs restart with EPOCH, so the ink blocks start over for these cores. -/
def execLaunch (part : Nat) (s : State) : Host.Outcome State Fault Refusal :=
  let x := s.part part
  if x.lstate ≠ .pending ∨ s.tick.toNat < x.launch.toNat ∨ s.rst.inReset then .next s
  else
    let on (c : CoreId) : Bool := !s.svr.closed.contains (.core c)
    let s := s.updCores x fun c k => if on c then k.launched x.entry else k
    let s := (s.discardWork x).beginStep part
    let s := { s with inks := s.inks.filter fun e => !x.hasCore e.1
                      subs := s.subs.filter fun y => !x.hasCore y.producer && !(y.cmod == s.modId && x.hasCore y.ccore.toNat) }
    .next (s.updPart part fun x =>
      { x with lstate := .launched, committed := false, tris := [], smudging := none, stopped := false, voted := false, votes := [] })

end Sys2Proof.Machine
end

