-- ==== Sys2Proof/Machine/Power.lean ====
section
/-! DEFINITION. Power, frequency steps, energy (spec/14; fixed-frequency mode, spec/11 R420, R421). -/

namespace Sys2Proof.Machine

/-! ### Steps (R485 to R489, Table 14-1) -/

/-- Core clock periods in twelfths of a ns, F0 to F7. -/
def stepPeriod (k : Nat) : Nat := [6, 7, 8, 9, 10, 12, 16].getD k 24

/-- Rated full-activity power in W (Table 14-1). -/
def ratedPower (k : Nat) : Nat := [5890, 4520, 3600, 3030, 2640, 2110, 1610].getD k 1180

/-- The voltage of a step in mV, from the identity EEPROM (R485). -/
def State.stepVolt (s : State) (k : Nat) : Nat := s.svr.idrom.readLE (0x70 + 2 * k) 2

/-- One step slower, at most F7. -/
def slower (k : BitVec 3) : BitVec 3 := if k = 7 then 7 else k + 1
/-- One step faster, at most F0. -/
def faster (k : BitVec 3) : BitVec 3 := if k = 0 then 0 else k - 1
/-- The slower of two steps. -/
def slowest (a b : BitVec 3) : BitVec 3 := if a.toNat < b.toNat then b else a

/-- The grade's highest permitted step; F0 needs the feature STEPF0 (spec/00 R4, spec/01 R36, spec/12 R453). -/
def State.gradeLimit (s : State) : BitVec 3 := if s.gradeA && s.feature featF0 then 0 else 1

/-- The step that R488 gives without fixed-frequency mode. -/
def State.openStep (s : State) : BitVec 3 :=
  slowest (slowest s.pwr.req s.gradeLimit) (slowest s.pwr.clim s.pwr.tlim)

/-- The granted step (R488, R420, R421). -/
def State.granted (s : State) : BitVec 3 :=
  if s.pwr.fixed.active then s.pwr.fixed.step
  else match s.pwr.fixed.floor with
    | some f => slowest s.openStep f
    | none => s.openStep

/-- PWR_STEP.LIMIT (R489, Table 14-3). -/
def State.limitCode (s : State) : Nat :=
  let g := s.granted
  let floor := match s.pwr.fixed.floor with
    | some f => f == g && g != s.openStep
    | none => false
  if s.pwr.fixed.active || floor then 4
  else if g = s.pwr.req then 0
  else if g = s.pwr.tlim then 3
  else if g = s.pwr.clim then 2
  else 1

/-- A switch of the core clock: 20 ns without cycles, then issue held for 32 cycles (R487). -/
def Power.switch (p : Power) (k : BitVec 3) : Power := { p with clock := k, stop := 20, hold := 32, clkPhase := 0 }

/-- Acts on the granted step: a slower one switches the clock, a faster one slews the voltage first (R486). -/
def State.regrant (s : State) : State :=
  let g := s.granted
  s.updPwr fun p =>
    if p.clock.toNat < g.toNat then { p.switch g with target := g, slewing := false }
    else { p with target := g, slewing := p.clock != g }

/-- The voltage reaches a faster step's target. -/
def execClockSwitch (s : State) : Host.Outcome State Fault Refusal :=
  if s.pwr.slewing ∧ !s.rst.inReset then
    .next (s.updPwr fun p => { p.switch p.target with slewing := false })
  else .next s

/-! ### Fixed-frequency mode (spec/11 R421) -/

/-- A break of fixed-frequency mode; `cause` as in Table 11-7. -/
def State.fixedBreak (s : State) (cause : BitVec 2) : State :=
  if s.pwr.fixed.active then
    ((s.hwSet 0x20018 0x200).updPwr fun p => { p with fixed := { p.fixed with
      active := false, broken := true, bcause := cause, floor := some (slower p.fixed.step) } }).regrant
  else s

/-- ACTIVE by the test of R421. -/
def State.fixedTest (s : State) : State :=
  let s := s.updPwr fun p => { p with fixed := { p.fixed with
    active := p.fixed.en && decide (ratedPower p.fixed.step.toNat ≤ p.cap.toNat) } }
  s.regrant

def execPwrFixedWrite (v : W64) (s : State) : Host.Outcome State Fault Refusal :=
  if s.rst.inReset then .next s
  else
    let s := s.updPwr fun p => { p with fixed := { p.fixed with broken := p.fixed.broken && !(s.clears 0x20018 v).getLsbD 9 } }
    if s.attached then .next s
    else
      let f := s.pwr.fixed
      let f := { f with
        step := slowest ((v >>> 4).setWidth 3) s.gradeLimit
        en := if s.feature featFixed then v.getLsbD 0 else f.en }
      .next ((s.updPwr fun p => { p with fixed := f }).fixedTest)

/-! ### Estimates (R490) and cap control (R492 to R496) -/

/-- Whether an estimate scaled to step `k` exceeds `pct` per cent of the cap in use: P_shared + Σ D_s × (f_k V_k²) / (f_g V_g²),
multiplied by M / Ē in MEASURE mode (R498), compared exactly. -/
def State.exceeds (s : State) (e : Estimate) (g k pct : Nat) : Bool :=
  let dyn := e.sheets.foldl (· + ·) 0
  let num := stepPeriod g * s.stepVolt k ^ 2
  let den := stepPeriod k * s.stepVolt g ^ 2
  let m : Nat × Nat := if s.pwr.measure then s.pwr.estScale.getD (1, 1) else (1, 1)
  decide (pct * 10 * s.pwr.capUsed.toNat * den * m.2 < (e.shared * den + dyn * num) * m.1)

/-- E_g, unscaled. -/
def estTotal (e : Estimate) : Nat := e.sheets.foldl (· + ·) e.shared

/-- The fastest step no faster than g that keeps the cap, or F7 (R493). -/
def State.capStep (s : State) (e : Estimate) (g : Nat) : BitVec 3 :=
  match (List.range 8).find? fun k => decide (g ≤ k) && !s.exceeds e g k 100 with
  | some k => BitVec.ofNat 3 k
  | none => 7

/-- A rule of the interval acts on CLIM: the slowest step that any one rule would give alone (R496). -/
def Power.limitTo (p : Power) (k : BitVec 3) : Power :=
  { p with clim := if p.climActed then slowest p.clim k else k, climActed := true }

/-- R493 and R494 at one estimate. -/
def State.capRules (s : State) (e : Estimate) : State :=
  let g := s.granted.toNat
  let above := if s.exceeds e g g 100 then s.pwr.overEst + 1 else 0
  let room := if 0 < g ∧ !s.exceeds e g (g - 1) 95 then s.pwr.headroom + 1 else 0
  let barred := s.pwr.barred - 1
  let s := s.updPwr fun p =>
    { p with climBase := p.clim, climActed := false, overEst := above, headroom := room, barred := barred }
  if 2 ≤ above then s.updPwr fun p => p.limitTo (s.capStep e g)
  else if 10 ≤ room ∧ barred = 0 then s.updPwr fun p => { p.limitTo (faster p.climBase) with headroom := 0 }
  else s

/-- The first reading at or above 95 °C throttles (R502). -/
def State.throttleStart (s : State) (junction : Int) : State :=
  if 95 ≤ junction ∧ !s.pwr.throt then
    let t := slower s.granted
    (s.updPwr fun p => { p with tlim := t, throt := true }).fixedBreak 1
  else s

def execActivityEstimate (e : Estimate) (s : State) : Host.Outcome State Fault Refusal :=
  if s.rst.inReset then .next s
  else
    let s := s.updPwr fun p => { p with
      capUsed := p.cap, ests := (estTotal e :: p.ests).take 10, tjmax := BitVec.ofInt 8 e.junction }
    .next ((s.capRules e).throttleStart e.junction).regrant

/-- 1 ms above 95 °C, or 10 ms at or below 90 °C (R502). -/
def execThrottleStep (junction : Int) (s : State) : Host.Outcome State Fault Refusal :=
  if s.rst.inReset then .next s
  else
    let s := s.updPwr fun p => { p with tjmax := BitVec.ofInt 8 junction }
    if !s.pwr.throt then .next ((s.throttleStart junction).regrant)
    else if 95 ≤ junction then
      .next ((s.updPwr fun p => { p with tlim := slower p.tlim }).fixedBreak 1).regrant
    else if junction ≤ 90 then
      .next (s.updPwr fun p => { p with tlim := faster p.tlim, throt := faster p.tlim != 0 }).regrant
    else .next s

/-! ### Measurements (R491, R495, R497 to R500) -/

/-- Ten times D = M − Ē in mW, with n estimates of sum `sum`: n × D, for comparison with n × a share of the cap. -/
def disagreement (m n sum : Nat) : Int := (n * (100 * m) : Nat) - (sum : Int)

/-- The record of POWER_DISAGREE for M in 0.1 W: its layout of M, Ē and the sign is a free value (log 83). -/
def State.disagreeEvent (s : State) (m : Nat) (up : Bool) : State :=
  s.event { code := .powerDisagree, cls := .info, detail := Config.disagreeDetail m s.pwr.ests up }

/-- A disagreement at its fifth measurement (R498 to R500). -/
def State.disagree (s : State) (m : Nat) (up : Bool) : State :=
  let s := if s.pwr.disRaised then s else (s.updPwr fun p => { p with disRaised := true, calmRaise := 0 }).disagreeEvent m up
  if up then
    (s.updPwr fun p => { p.limitTo (slower p.climBase) with measure := true, calmMode := 0, posDis := 0 }).fixedBreak 2
  else (s.hwSet 0x20010 0x40).updPwr fun p => { p with sensflag := true, negDis := 0 }

/-- The comparison of M with the estimates. -/
def State.judge (s : State) (m : Nat) : State :=
  let n := s.pwr.ests.length
  let sum := s.pwr.ests.foldl (· + ·) 0
  if n = 0 then s
  else
    let d := disagreement m n sum
    let cap := n * 1000 * s.pwr.capUsed.toNat
    let big := decide (cap < 5 * d.natAbs)
    let calm := decide (10 * d.natAbs ≤ cap)
    let s := s.updPwr fun p => { p with
      est := BitVec.ofNat 16 (sum / n / 1000), estScale := some (100 * m * n, sum)
      posDis := if big && decide (0 < d) then p.posDis + 1 else 0
      negDis := if big && decide (d < 0) then p.negDis + 1 else 0
      calmMode := if calm then p.calmMode + 1 else 0, calmRaise := if calm then p.calmRaise + 1 else 0 }
    let s := s.updPwr fun p => { p with
      measure := p.measure && decide (p.calmMode < 100), disRaised := p.disRaised && decide (p.calmRaise < 100) }
    if 5 ≤ s.pwr.posDis then s.disagree m true else if 5 ≤ s.pwr.negDis then s.disagree m false else s

/-- M above the cap at five consecutive measurements (R495, R421). -/
def State.overCap (s : State) (m : Nat) : State :=
  let above := if 10 * s.pwr.capUsed.toNat < m then s.pwr.overMeas + 1 else 0
  let s := s.updPwr fun p => { p with overMeas := above }
  if above < 5 then s
  else
    let s := s.updPwr fun p => { p with overMeas := 0 }
    let s := if s.pwr.sensflag then s
      else s.updPwr fun p => { p.limitTo (slower p.climBase) with barred := 100 }
    s.fixedBreak 3

/-! ### Energy (R504 to R508) -/

/-- The interval's energy in µJ. -/
def Power.interval (p : Power) (m : Nat) : Nat :=
  if p.sensflag ∧ p.ests ≠ [] then
    let n := 10 * p.ests.length
    (p.ests.foldl (· + ·) 0 + n / 2) / n
  else 10 * m

/-- floor(X × e / E_est). -/
def share (x e total : Nat) : Nat := if total = 0 then 0 else x * e / total

/-- A share to a partition, and to a queue when there is one. -/
def State.creditEnergy (s : State) (p : Nat) (q : Option Nat) (v : Nat) : State :=
  let w : W64 := BitVec.ofNat 64 v
  let s := s.updPart p fun x => { x with energy := x.energy + w }
  match q with
  | some q => s.updQueue q fun u => { u with energy := u.energy + w }
  | none => s

/-- The queue of a partition's running STEP. -/
def Part.queueOf (x : Part) : Option Nat := x.running.map (·.q)

/-- R504 to R507. -/
def State.account (s : State) (z : Measurement) : State :=
  let x := s.pwr.interval z.m
  let es := z.sheets.map (·.2) ++ z.xfers.map (fun t => t.2.2) ++ z.ports.map (·.2)
  let total := es.foldl (· + ·) z.other
  let given := es.foldl (fun t e => t + share x e total) 0
  let s := z.sheets.foldl (fun s t => s.creditEnergy t.1 (s.part t.1).queueOf (share x t.2 total)) s
  let s := z.xfers.foldl (fun s t => s.creditEnergy t.1 (some t.2.1) (share x t.2.2 total)) s
  let s := z.ports.foldl (fun s t => s.creditEnergy t.1 none (share x t.2 total)) s
  s.updPwr fun p => { p with
    total := p.total + BitVec.ofNat 64 x, unattr := p.unattr + BitVec.ofNat 64 x - BitVec.ofNat 64 given }

/-- Every 100 µs. -/
def execPowerMeasurement (m : Measurement) (s : State) : Host.Outcome State Fault Refusal :=
  if s.rst.inReset then .next s
  else
    let s := s.updPwr fun p => { p with meas := BitVec.ofNat 16 (m.m / 10) }
    let s := (s.judge m.m).overCap m.m
    .next ((s.account m).updPwr fun p => { p with ests := [] }).regrant

/-! ### Registers (R488, R492, R499) -/

/-- A write of 1 clears SENSFLAG; it sets again at the fifth measurement after the write (R499). -/
def Power.clearFlag (p : Power) : Power := { p with sensflag := false, negDis := 0 }

def execPwrCapWrite (v : W64) (s : State) : Host.Outcome State Fault Refusal :=
  let lo := s.svr.idrom.readLE 0x80 2
  let hi := s.svr.idrom.readLE 0x82 2
  let c := (v.setWidth 13).toNat
  let c := if c < lo then lo else if hi < c then hi else c
  if s.rst.inReset ∨ (s.pwr.fixed.active ∧ c < ratedPower s.pwr.fixed.step.toNat) then .next s
  else .next (s.updPwr fun p => { p with cap := BitVec.ofNat 13 c })

def execPwrStepWrite (v : W64) (s : State) : Host.Outcome State Fault Refusal :=
  if s.rst.inReset then .next s else .next (s.updPwr fun p => { p with req := v.setWidth 3 }).regrant

end Sys2Proof.Machine
end

