-- ==== Sys2Proof/Machine/Queues.lean ====
section
/-! DEFINITION. Command queues, their journals, and the commands that they carry but ATTACH and DETACH
(spec/12 R436 to R446). -/

namespace Sys2Proof.Machine

/-! ### Acceptance (R436, R437) -/

def execHqQTailWrite (q : Nat) (v : W64) (s : State) : Host.Outcome State Fault Refusal :=
  if s.rst.inReset ∨ 256 ≤ q then .next s else .next (s.updQueue q fun u => { u with tail := v.setWidth 16 })

/-- A command as it stands in the ring (Table 12-2). -/
def Cmd.parse (bs : List Byte) : Cmd :=
  { kind := bs.getD 0 0, flags := bs.getD 1 0, part := bs.getD 2 0, rsv := (bs.drop 3).take 5
    seq := BitVec.ofNat 64 (field bs 8 8), args := bs.drop 0x10 }

/-- The argument field of `n` bytes at command offset `o`. -/
def Cmd.arg (c : Cmd) (o n : Nat) : Nat := field c.args (o - 0x10) n

/-- Whether the queue may accept the command at HEAD: R437 without its SEQ. -/
def State.mayAccept (s : State) (q : Nat) : Bool :=
  let u := s.queue q
  !s.rst.inReset && s.host.linkUp && !s.svr.closed.contains .queueFrontEnd && u.state == .running
  && u.head.toNat % u.rsize != u.tail.toNat % u.rsize && decide (u.accepted.length ≤ u.ahead.toNat)
  && u.records.isEmpty && decide (0 < u.jroom)

/-- The command at HEAD. -/
def State.headCmd (s : State) (q : Nat) : Cmd :=
  let u := s.queue q
  Cmd.parse (s.host.mem.readBytes (u.base.toNat + 64 * (u.head.toNat % u.rsize)) 64)

/-- The event of a SEQ mismatch (R437). -/
def State.seqEvent (s : State) (q : Nat) (found : W64) : State :=
  let f := (s.queue q).func.toNat
  s.event { code := .descFormat, cls := .job, part := if f = 0 then none else some ((f - 1) % 16)
            count := BitVec.ofNat 32 q, detail := found }

def execCommandAccept (q : Nat) (s : State) : Host.Outcome State Fault Refusal :=
  if !s.mayAccept q then .next s
  else
    let c := s.headCmd q
    let u := s.queue q
    if c.seq ≠ u.nextseq then
      .next (((s.updQueue q fun u => { u with state := .stopped, seqerr := true }).hwSet (0x104030 + 0x40 * q) 0x100).seqEvent q
        c.seq)
    else
      let s := s.record q (recordBytes 1 .ok 0 q false c.seq 0)
      let s := s.updQueue q fun u => { u with
        head := BitVec.ofNat 16 ((u.head.toNat + 1) % u.rsize), nextseq := u.nextseq + 1
        accepted := u.accepted ++ [c] }
      .next (s.settle q)

/-! ### Commands (R438, R443 to R447) -/

def execNop (q : Nat) (s : State) : Host.Outcome State Fault Refusal :=
  match s.front q 0 with
  | none => .next s
  | some _ => .next (s.finishFront q .ok 0 0 true)

/-- The STEP that a command asks for. -/
def Cmd.stepRun (c : Cmd) (q : Nat) : StepRun :=
  { q := q, seq := c.seq, step := BitVec.ofNat 32 (c.arg 0x10 4), entry := BitVec.ofNat 32 (c.arg 0x14 4)
    tick := BitVec.ofNat 64 (c.arg 0x18 8), rdst := BitVec.ofNat 64 (c.arg 0x20 8)
    rsrc := BitVec.ofNat 64 (c.arg 0x28 8), rlen := BitVec.ofNat 32 (c.arg 0x30 4), attempts := 0 }

/-- A STEP starts: it waits while another runs on the partition or has not written its record, and otherwise begins (R443). -/
def execStep (q : Nat) (s : State) : Host.Outcome State Fault Refusal :=
  match s.front q 3 with
  | none => .next s
  | some c =>
    let p := s.cmdPart q c
    let s := s.startFront q
    let r := c.stepRun q
    if (s.part p).running.isSome ∨ (s.part p).ended.isSome then .next (s.updPart p fun x => { x with waitingSteps := x.waitingSteps ++ [r] })
    else .next (s.stepBegin p r).2

/-- An XFER reads its descriptor and waits for an engine (R444). -/
def execXfer (q : Nat) (s : State) : Host.Outcome State Fault Refusal :=
  match s.front q 4 with
  | none => .next s
  | some c =>
    let a := c.arg 0x10 8
    let p := s.cmdPart q c
    if a % 64 ≠ 0 then .next (s.finishFront q (.fault .descFormat) 0 0 true)
    else if s.svr.closed.contains .transferEngines then
      .next ((s.event { code := .isolated, cls := .job, part := some p, step := s.stepNo p
                        detail := Config.eventDetail FCode.isolated.byte.toNat 0xFFFF s.tick }).finishFront q
        (.fault .isolated) 0 0 true)
    else if !s.host.linkUp then .next s
    else
      let d := XDesc.parse (s.host.mem.readBytes a 64)
      .next ((s.startFront q).updMem fun m =>
        { m with waiting := m.waiting ++ [{ q := q, part := p, seq := c.seq, d := d, next := 0 }] })

def execWaitq (q : Nat) (s : State) : Host.Outcome State Fault Refusal :=
  match s.front q 5 with
  | none => .next s
  | some c =>
    let k := c.arg 0x10 2
    if 256 ≤ k then .next (s.finishFront q (.fault .descFormat) 0 0 true)
    else match (s.queue k).done with
      | some d => if c.arg 0x18 8 ≤ d.toNat then .next (s.finishFront q .ok 0 0 true) else .next s
      | none => .next s

/-! ### The commit cell (R441 step 4, R445; spec/08 R329) -/

/-- Whether CHK_PART_p_CCELL names a valid cell: inside the address map, and its 8 bytes within one entry of the
partition's table with VALID, R, W and INK set and OWNER p. -/
def State.cellOk (s : State) (p : Nat) (a : Nat) : Bool :=
  spaceOf a != .nothing && ((List.range 256).map (s.region p)).any fun r =>
    r.covers (s.translate a) 8 && r.r && r.w && r.ink && r.owner == p

/-- A commit word's fields: STEP and VSEL (spec/08 Table 8-7). -/
def cellStep (v : Nat) : W32 := BitVec.ofNat 32 (v / 2 ^ 32)
def cellVsel (v : Nat) : Bool := v % 2 == 1

def execAdvance (q : Nat) (s : State) : Host.Outcome State Fault Refusal :=
  match s.front q 6 with
  | none => .next s
  | some c =>
    let p := s.cmdPart q c
    let x := s.part p
    let detail : W64 := x.commitStep.setWidth 64
    let a := s.translate x.ccell.toNat
    if x.job.isSome ∨ x.ccell = 0 ∨ !s.cellOk p x.ccell.toNat then
      .next (s.finishFront q (.fault .access) 0 detail true)
    else match s.unitRead a 8 with
      | .poison g => .next ((s.finishFront q (.fault .memUncorrectable) 0 detail true).uncorrectable g none (some p))
      | .fault e => .next (s.finishFront q (.fault e) 0 detail true)
      | .bytes bs =>
        let v := leNat bs
        let at_ := cellStep v
        let want := c.arg 0x10 4
        if want = at_.toNat then .next (s.finishFront q .already 0 (at_.setWidth 64) true)
        else if want = at_.toNat + 1 then
          let w := 2 ^ 32 * want + (if cellVsel v then 0 else 1)
          .next ((s.unitWrite a (leBytes 8 w)).finishFront q .ok 0 (BitVec.ofNat 64 want) true)
        else .next (s.finishFront q (.fault .descFormat) 0 (at_.setWidth 64) true)

/-! ### The journal's consumed index (R439) -/

def execHqQJheadWrite (q : Nat) (v : W64) (s : State) : Host.Outcome State Fault Refusal :=
  if s.rst.inReset ∨ 256 ≤ q then .next s
  else
    let u := s.queue q
    let n := (v.setWidth 17).toNat % u.jsize
    let c := (n + u.jsize - u.jhead.toNat % u.jsize) % u.jsize
    if c ≤ u.jcount then
      let s := (s.updQueue q fun u => { u with jhead := BitVec.ofNat 17 n, jcount := u.jcount - c }).flushRecords q
      .next ((List.range 16).foldl State.stepsGo s)
    else .next s

/-! ### Enable and disable (R436, R446, R452, Table 12-12) -/

/-- Whether a function may enable queues: its mailbox is ACCEPTED, and the partition of a VF exists (R452, R539). -/
def State.mayEnable (s : State) (f : Nat) : Bool :=
  (s.func f).mstate == 2 && (f == 0 || (s.part ((f - 1) % 16)).en)

def State.enableQueue (s : State) (q : Nat) : State :=
  let u := s.queue q
  if u.en || s.rst.phase != 8 || !s.mayEnable u.func.toNat then s
  else s.updQueue q fun u => { u with en := true, state := .running }

def execQueueEnable (q : Nat) (s : State) : Host.Outcome State Fault Refusal :=
  if s.rst.inReset ∨ 256 ≤ q then .next s else .next (s.enableQueue q)

/-- Stops a partition's step before its ink commit: a pending launch is cancelled, the cores stop, what they had not
committed is discarded (R442). `roll` takes the carry logs back; an FLR changes no byte of stacked memory (R433). -/
def State.haltStep (s : State) (p : Nat) (roll : Bool) : State :=
  let x := s.part p
  let s := s.updCores x fun _ k => if k.run = .off then k else { k.smudged with run := .stopJob }
  let s := (s.discardWork x).endColls p roll
  s.updPart p fun x => { x with
    launch := if x.lstate = .pending then 0 else x.launch
    lstate := if x.lstate = .pending then .none else x.lstate
    tris := [], smudging := none, voted := false, votes := [] }

/-- Marks the commands behind the front one as cancelled. -/
def Queue.cancelRest (u : Queue) : Queue :=
  { u with accepted := match u.accepted with
    | c :: r => c :: r.map fun d => { d with cancel := true }
    | [] => [] }

/-- The accepted commands of a queue end CANCELLED: one that has started only when it is a STEP. -/
def State.cancelQueue (s : State) (q : Nat) : State :=
  match (s.queue q).accepted with
  | [] => s
  | c :: rest =>
    let p := s.cmdPart q c
    if !c.started then
      (s.updQueue q fun u => { u with accepted := [] }).cancelAll q (c :: rest)
    else
      let s := s.updQueue q Queue.cancelRest
      if c.kind ≠ 3 then s
      else if (s.part p).running.any fun r => r.q == q then (s.haltStep p true).finishStep p .cancelled false
      else
        let s := s.updPart p fun x => { x with waitingSteps := x.waitingSteps.filter fun r => r.q != q }
        s.finishFront q .cancelled 0 (s.cmdDetail q c) false

def State.disableQueue (s : State) (q : Nat) : State :=
  if !(s.queue q).en then s
  else (s.updQueue q fun u => { u with en := false, state := .disabled }).cancelQueue q

def execQueueDisable (q : Nat) (s : State) : Host.Outcome State Fault Refusal :=
  if s.rst.inReset ∨ 256 ≤ q then .next s else .next (s.disableQueue q)

end Sys2Proof.Machine
end

