-- ==== Sys2Proof/Machine/Attach.lean ====
section
/-! DEFINITION. Attaching and detaching jobs (spec/12 R441, R442; spec/09 R350 to R353; spec/15 R529, R530). -/

namespace Sys2Proof.Machine

/-! ### Ports against the plan (spec/09 R350, Table 9-4) -/

/-- Whether an UP port's partner is the expected one, with enough lanes. -/
def Port.fits (o : Port) (e : PortPlan) : Bool :=
  o.peerv && e.kind.toNat == o.pkind.toNat + 1 && e.id.toNat == o.peer.toNat && e.port.toNat == o.peerport.toNat
  && decide (e.minlanes.toNat ≤ o.live)

/-- A port's outcome at attach. -/
def portOutcome (o : Port) (e : PortPlan) : PortUse :=
  if e.kind = 0 then (if o.up then .dark else .unused)
  else if o.up && o.fits e then .inUse
  else .mismatched

/-- Reads an attach block's ports (Table 12-7). -/
def planPorts (bs : List Byte) : List PortPlan :=
  (List.range 12).map fun n =>
    let b := (bs.drop (0x10 + 8 * n)).take 8
    { kind := b.getD 0 0, minlanes := b.getD 1 0, port := b.getD 2 0, id := BitVec.ofNat 16 (field b 4 2) }

/-- The outcome of each port. -/
def State.outcomes (s : State) (es : List PortPlan) : List PortUse :=
  es.zipIdx.map fun e => portOutcome (s.port e.2) e.1

/-- FAB_ATTACH after a comparison; `extra` counts the dark ports. -/
def Fabric.noteAttach (b : Fabric) (us : List PortUse) (extra : Bool) : Fabric :=
  { b with
    firstbad := match us.findIdx? (· == .mismatched) with | some n => BitVec.ofNat 8 n | none => 0xFF
    missing := BitVec.ofNat 8 (us.filter (· == .mismatched)).length
    extra := if extra then BitVec.ofNat 8 (us.filter (· == .dark)).length else 0 }

/-- Sets each port's USE and clears its counters. -/
def State.setUses (s : State) (us : List PortUse) : State :=
  us.zipIdx.foldl (fun s u => s.updPort u.2 fun o => { o with use := u.1, replays := 0, uncorr := 0, darkdisc := 0 }) s

/-- Every in-use port becomes unused. -/
def State.releasePorts (s : State) : State :=
  (List.range 12).foldl (fun s n => s.updPort n fun o => { o with use := if o.use = .inUse then .unused else o.use }) s

/-! ### The exchange (spec/09 R352, R353) -/

/-- The modules of this module's board in the plan. -/
def State.boardMembers (s : State) : List (BitVec 15) :=
  s.routedModules.filter fun m => m != s.modId && m.toNat / 8 == s.modId.toNat / 8

/-- The modules that this one exchanges ATTACH packets with: T4 neighbours on in-use ports, and its board. -/
def State.attachPeers (s : State) : List (BitVec 15) :=
  let ns := (List.range 12).filterMap fun n =>
    let o := s.port n
    if o.use = .inUse ∧ o.pkind = 0 then some o.peer else none
  (ns ++ s.boardMembers).eraseDups.filter (· != s.modId)

/-- The ATTACH packet to a module. -/
def State.attachTo (s : State) (digest : W64) (m : BitVec 15) : Packet :=
  { typ := .attach, src := 0xFFFF, dlocal := false, dmod := m, smod := s.modId, edge := 4
    arg := if s.boardMembers.contains m then 1 else 0
    ext := extOf (digest.toNat + 2 ^ 64 * s.mem.tileCfg.toNat) }

/-- Whether a received ATTACH contradicts this module's plan or tile configuration. -/
def State.attachBad (s : State) (digest : W64) (r : AttachRx) : Bool :=
  r.digest != digest || (r.board && r.tileCfg != s.mem.tileCfg)

/-! ### The end of an ATTACH -/

/-- An ATTACH fails: a job of several modules gives up its ports and routes. -/
def State.attachFail (s : State) (p q : Nat) (multi : Bool) (code : FCode) : State :=
  let s := s.updPart p fun x => { x with attaching := none }
  let s := if multi then s.releasePorts.updFab fun b => { b with routes := [], attachRx := [] } else s
  s.finishFront q (.fault code) 0 0 true

/-- Loads CHK_PART_p_COMMIT (R441 step 4) and completes the ATTACH. -/
def State.attachEnd (s : State) (p q : Nat) (job : Job) : State :=
  let multi := decide (1 < job.modules)
  let done (s : State) (v : Nat) : State :=
    let s := s.updFab fun b => { b with attachRx := if multi then [] else b.attachRx }
    (s.updPart p fun x => { x with
      attaching := none, job := some job, stopped := false
      commitStep := cellStep v, vsel := cellVsel v, attempt := 0 }).finishFront q .ok 0 0 true
  let cell := (s.part p).ccell.toNat
  if cell = 0 then done s 0
  else if !s.cellOk p cell then s.attachFail p q multi .access
  else match s.unitRead (s.translate cell) 8 with
    | .bytes bs => done s (leNat bs)
    | .poison g => (s.attachFail p q multi .memUncorrectable).uncorrectable g none (some p)
    | .fault e => s.attachFail p q multi e

/-- Whether the module's lock state lets a job of several modules attach (spec/11 R408). -/
def State.lockedOrRoot (s : State) : Bool := s.mer.lock == .locked || s.mer.role == roleRoot

/-- Goes on with an attach once every ATTACH packet that it awaits has come. -/
def State.attachGo (s : State) (p : Nat) : State :=
  match (s.part p).attaching with
  | none => s
  | some a =>
    if a.awaited ≠ [] then s
    else if !s.lockedOrRoot then s.attachFail p a.q true .planMismatch
    else s.attachEnd p a.q a.job

/-- Takes one received ATTACH into the exchange of partition `p`. -/
def State.attachTake (s : State) (p : Nat) (r : AttachRx) : State :=
  match (s.part p).attaching with
  | none => s
  | some a =>
    if !a.awaited.contains r.smod then s
    else if s.attachBad a.job.digest r then s.attachFail p a.q true .planMismatch
    else s.updPart p fun x => { x with attaching := some { a with awaited := a.awaited.filter (· != r.smod) } }

/-- The partition whose attach exchanges packets. -/
def State.exchanging (s : State) : Option Nat := (List.range 16).find? fun p => (s.part p).attaching.isSome

def execAttachPacket (p : Packet) (s : State) : Host.Outcome State Fault Refusal :=
  if p.typ ≠ .attach then .next s
  else match s.arrive p with
  | none => .next s
  | some s =>
    let r : AttachRx :=
      ⟨p.smod, BitVec.ofNat 64 (extField p 0x2C 8), BitVec.ofNat 64 (extField p 0x34 8), p.arg.getLsbD 0⟩
    match s.exchanging with
    | some part => .next ((s.attachTake part r).attachGo part)
    | none => .next (s.updFab fun b => { b with attachRx := b.attachRx.filter (fun y => y.smod != r.smod) ++ [r] })

/-- 100 ms after the module sent its own packets the exchange fails (R353). -/
def execAttachExchangeTimeout (part : Nat) (s : State) : Host.Outcome State Fault Refusal :=
  match (s.part part).attaching with
  | some a => if s.rst.inReset then .next s else .next (s.attachFail part a.q true .planMismatch)
  | none => .next s

/-! ### ATTACH (R441) -/

/-- Whether a partition holds a job of several modules, or attaches one. -/
def Part.multi (x : Part) : Bool :=
  (match x.job with | some j => decide (1 < j.modules) | none => false) || x.attaching.isSome

/-- Whether a sweep or a quarantine of the partition comes first (spec/15 R528, R530). -/
def State.serviceFirst (s : State) (x : Part) : Bool :=
  (List.range 16).any (fun sh => x.hasSheet sh && s.svr.sweep.getLsbD sh)
  || s.svr.quarantines.any fun b => match b with | .core c => x.hasCore c | _ => false

/-- Whether a sheet or a stack that the partition needs is out of service (spec/15 R529). -/
def State.outOfService (s : State) (x : Part) : Bool :=
  (List.range 16).any (fun sh => x.hasSheet sh && s.svr.sheetout.getLsbD sh) || s.svr.stackout != 0

/-- ATTACH of a job of several modules from the comparison of ports on (R441 step 3). -/
def State.attachMulti (s : State) (p q : Nat) (job : Job) (routes : Sparse Byte) : State :=
  let us := s.outcomes job.ports
  let s := (s.setUses us).updFab fun b => { b.noteAttach us true with routes := routes, aborts := [] }
  if us.contains .mismatched then s.attachFail p q true .planMismatch
  else
    let peers := s.attachPeers
    let s := (s.updPart p fun x => { x with attaching := some ⟨q, job, peers⟩ }).startFront q
    let s := s.sendAll (peers.map (s.attachTo job.digest))
    (s.fab.attachRx.foldl (fun s r => s.attachTake p r) s).attachGo p

/-- R441 from step 2 on, with the attach block's first 0x70 bytes. -/
def State.attachPlan (s : State) (p q plan : Nat) (bs : List Byte) : State :=
  let n := field bs 8 4
  let job : Job := ⟨n, BitVec.ofNat 64 (field bs 0 8), planPorts bs⟩
  let fail (code : FCode) : State := s.finishFront q (.fault code) 0 0 true
  if n = 1 then
    let us := s.outcomes job.ports
    let s := s.updFab fun b => b.noteAttach us false
    if us.contains .mismatched then s.finishFront q (.fault .planMismatch) 0 0 true else s.attachEnd p q job
  else if (s.queue q).func ≠ 0 then fail .access
  else if n = 0 then fail .descFormat
  else if !s.feature featFabric then s.finishFront q (.fault .featureUnsupported) 0 0 false
  else if (List.range 16).any (fun k => (s.part k).multi) then fail .planMismatch
  else if 32768 < n then fail .descFormat
  else if s.svr.lEepromBad ∨ !s.svr.lValid then fail .planMismatch
  else s.attachMulti p q job (Sparse.tabulate 0 32768 fun m => s.host.mem.read (plan + 0x100 + m))

/-- ATTACH; at debug level INVASIVE every ATTACH completes FAULT ACCESS (spec/15 Table 15-6). -/
def execAttach (q : Nat) (s : State) : Host.Outcome State Fault Refusal :=
  match s.front q 1 with
  | none => .next s
  | some c =>
    let p := s.cmdPart q c
    let x := s.part p
    let plan := c.arg 0x10 8
    let fail (code : FCode) : Host.Outcome State Fault Refusal := .next (s.finishFront q (.fault code) 0 0 true)
    if x.attaching.isSome ∨ !s.host.linkUp ∨ (x.job.isNone ∧ s.serviceFirst x) then .next s
    else if x.job.isSome ∨ !x.en ∨ s.svr.dbgLevel = 2 then fail .access
    else if s.outOfService x then fail .isolated
    else if plan % 4096 ≠ 0 then fail .descFormat
    else .next (s.attachPlan p q plan (s.host.mem.readBytes plan 0x70))

/-! ### DETACH (R442) -/

/-- A core as its job ends: the count of R309 and the forced coverage end with the job, and so do its overlay records. -/
def Core.jobEnd (k : Core) : Core := { k with checkerHits := 0, forceCover := false, ovl := {} }

/-- A job leaves its partition: its contexts are as at reset (log 105), routes and ports of a job of several modules are
released. -/
def State.releaseJob (s : State) (p : Nat) : State :=
  let multi := (s.part p).multi
  let s := (s.updCores (s.part p) fun _ k => k.jobEnd).updFab fun b => { b with colls := b.colls.filter fun e => e.1 / 256 != p }
  let s := s.updPart p fun x => { x with job := none, stopped := false }
  if multi then s.releasePorts.updFab fun b => { b with routes := [], aborts := [], attachRx := [] } else s

/-- The job boundary of fixed-frequency mode, once no job is attached (spec/11 R421). -/
def State.fixedBoundary (s : State) : State :=
  if s.attached then s
  else (s.updPwr fun p => { p with fixed := { p.fixed with floor := none } }).fixedTest

/-- Ends a partition's job: its STEP is CANCELLED, `ends` completes the command concerned, and the STEPs that waited
proceed to find no job. -/
def State.detachJob (s : State) (p : Nat) (ends : State → State) : State :=
  let x := s.part p
  let waiting := x.waitingSteps
  let s := (s.haltStep p true).updPart p fun x =>
    { x with waitingSteps := [], running := none, ended := (x.running.map fun r => (r.q, r.seq)).or x.ended }
  let s := match x.running with
    | some r => s.finishFront r.q .cancelled r.attempts (x.commitStep.setWidth 64) false
    | none => s
  let s := ends (s.releaseJob p).fixedBoundary
  (s.updPart p fun y => { y with waitingSteps := waiting ++ y.waitingSteps }).stepsGo p

def execDetach (q : Nat) (s : State) : Host.Outcome State Fault Refusal :=
  match s.front q 2 with
  | none => .next s
  | some c =>
    let p := s.cmdPart q c
    if (s.part p).job.isNone then .next (s.finishFront q .ok 0 0 true)
    else .next (s.detachJob p fun s => s.finishFront q .ok 0 0 true)

end Sys2Proof.Machine
end

