-- ==== Sys2Proof/Machine/Host.lean ====
section
/-! DEFINITION. Event rings, mailboxes, function-level reset, the host link and BAR2 (spec/12 R430 to R435,
R449 to R453). -/

namespace Sys2Proof.Machine

/-! ### Event rings (R449 to R451) -/

/-- When a slot is free, one LOST record carries the count of dropped records (R450). -/
def execLost (f : Nat) (s : State) : Host.Outcome State Fault Refusal :=
  if s.rst.inReset ∨ 17 ≤ f then .next s else .next (s.ringLost f)

/-- Delivers the crash record to Function 0's ring and clears VALID; CODE 0x00 makes no event (R451; spec/13 R469). -/
def State.deliverCrash (s : State) : State :=
  let c := s.bkp.crash
  if !c.valid then s
  else
    let s := s.updBkp fun b => { b with crash := { b.crash with valid := false } }
    if c.code = 0 then s
    else s.ringFault 0
      { code := if c.code = FCode.thermal.byte then .thermal else .memUncorrectable, cls := .module
        part := if c.part = 0xFF then none else some c.part.toNat
        core := if c.core = 0xFFFF then none else some c.core.toNat
        step := c.step, tick := c.tick, detail := c.detail }

/-- Reports the pages that the last start retired after poisoning, once (spec/07 R278). -/
def State.deliverPoison (s : State) : State :=
  if s.svr.poisonDue then
    s.bkp.poison.foldl (fun s a => s.ringFault 0
        { code := .memUncorrectable, cls := .module, tick := s.tick, detail := a })
      (s.updSvr fun v => { v with poisonDue := false })
  else s

/-- What Function 0's ring receives first once it is enabled and the start is READY, whichever comes later: the crash record and
the poisoned pages (spec/13 R469, R477). -/
def State.firstEvents (s : State) : State :=
  if s.rst.phase = 8 ∧ (s.func 0).ringOn then s.deliverCrash.deliverPoison else s

def State.ringOpened (s : State) (f : Nat) : State := (if f = 0 then s.firstEvents else s).ringLost f

/-- A written ELOG as the register holds it (R449). -/
def elogOf (v : Nat) : BitVec 5 := if v = 0 then 0 else if v < 6 then 6 else if 16 < v then 16 else BitVec.ofNat 5 v

/-- HQ_EVT_CFG. A new nonzero ELOG starts the ring at index 0. -/
def State.evtCfg (s : State) (f : Nat) (v : W64) : State :=
  let e := elogOf (v.toNat % 32)
  let new := e != 0 && e != (s.func f).elog
  let s := s.updFunc f fun x =>
    let x := { x with evVector := (v >>> 8).setWidth 8, elog := e }
    if new then { x with evHead := 0, evTail := 0, evWrap := false, evCount := 0 } else x
  if new then s.ringOpened f else s

def execHqEvtCfgWrite (f : Nat) (v : W64) (s : State) : Host.Outcome State Fault Refusal :=
  if s.rst.inReset ∨ 17 ≤ f then .next s else .next (s.evtCfg f v)

/-- HQ_EVT_HEAD, by the consumed-index rule of the journal (R439, R449). -/
def State.evtHead (s : State) (f : Nat) (v : W64) : State :=
  let x := s.func f
  let n := (v.setWidth 16).toNat % x.ringSize
  let c := (n + x.ringSize - x.evHead.toNat % x.ringSize) % x.ringSize
  if !x.ringOn || decide (x.evCount < c) then s
  else (s.updFunc f fun x => { x with evHead := BitVec.ofNat 16 n, evCount := x.evCount - c }).ringLost f

def execHqEvtHeadWrite (f : Nat) (v : W64) (s : State) : Host.Outcome State Fault Refusal :=
  if s.rst.inReset ∨ 17 ≤ f then .next s else .next (s.evtHead f v)

/-! ### Feature negotiation (R452, R453) -/

/-- Whether a function owns an enabled queue. -/
def State.queueOn (s : State) (f : Nat) : Bool := s.host.queues.any fun e => e.2.en && e.2.func.toNat == f

/-- A write of 1 to GO. -/
def State.negotiate (s : State) (f : Nat) : State :=
  let x := s.func f
  if s.queueOn f || x.mstate == 1 then s
  else if x.accept &&& ~~~(s.offer f) = 0 ∧ x.accept.getLsbD 0 then
    (s.updFunc f fun x => { x with inForce := x.accept, mstate := 2 }).regrant
  else
    let s := (s.updFunc f fun x => { x with inForce := 0, mstate := 3 }).regrant
    s.event { code := .featureUnsupported, cls := .job, part := if f = 0 then none else some (f - 1)
              detail := Config.eventDetail FCode.featureUnsupported.byte.toNat 0xFFFF s.tick }

def execGo (f : Nat) (s : State) : Host.Outcome State Fault Refusal :=
  if s.rst.inReset ∨ 17 ≤ f then .next s else .next (s.negotiate f)

/-! ### Function-level reset (R433) -/

/-- The queues of a function. -/
def State.queuesOf (s : State) (f : Nat) : List Nat :=
  (s.host.queues.filter fun e => e.2.func.toNat == f).map (·.1)

/-- A queue as an FLR of its owner leaves it: its registers, with its owner, at reset; the energy counter is in no VF register
page and stays. -/
def Queue.flr (u : Queue) : Queue := { energy := u.energy }

/-- Drops what the queues of a list had started: their transfers and their STEPs. -/
def State.dropQueues (s : State) (qs : List Nat) (p : Nat) : State :=
  let s := s.updMem fun m => { m with
    waiting := m.waiting.filter fun x => !qs.contains x.q
    engines := Sparse.mapVals none m.engines fun _ x => x.filter fun x => !qs.contains x.q }
  (qs.foldl (fun s q => s.updQueue q Queue.flr) s).updPart p fun x => { x with
    running := x.running.filter fun r => !qs.contains r.q
    ended := x.ended.filter fun e => !qs.contains e.1
    waitingSteps := x.waitingSteps.filter fun r => !qs.contains r.q }

def State.resetVf (s : State) (f : Nat) : State :=
  let p := f - 1
  let s := (s.dropQueues (s.queuesOf f) p).updFunc f fun x => { wbase := x.wbase }
  if (s.part p).job.isNone then s.stepsGo p
  else
    let s := (s.haltStep p false).updPart p fun x => { x with stopped := true }
    if (s.part p).running.isSome then s.finishStep p .cancelled false else s.stepsGo p

def execFlr (vf : Nat) (s : State) : Host.Outcome State Fault Refusal :=
  if s.rst.inReset ∨ vf = 0 ∨ 17 ≤ vf then .next s else .next (s.resetVf vf)

/-! ### The host link (R432) -/

def execLinkDown (s : State) : Host.Outcome State Fault Refusal :=
  .next (s.updHost fun h => { h with linkUp := false })

/-- The link returns, once the surveyor has enabled it in this start (spec/01 R35, R37): what was held leaves in order. -/
def execHostLinkReturn (s : State) : Host.Outcome State Fault Refusal :=
  if s.rst.inReset ∨ !s.host.linkOn ∨ s.host.linkUp then .next s
  else
    let ws := s.host.heldWrites
    let s := s.updHost fun h => { h with linkUp := true, heldWrites := [] }
    .next (ws.foldl State.hostSend s)

/-- A read without a response for 50 ms is issued again; its answer is the same. -/
def execHostReadReissue (s : State) : Host.Outcome State Fault Refusal := .next s

/-! ### BAR2 (R430, R434; spec/07 R270; spec/13 R476) -/

/-- The device address that a BAR2 access reaches, if it may: local memory, for a VF through its window and by its
partition's table. -/
def State.barAddr (s : State) (f off len : Nat) (write : Bool) : Option Nat :=
  if f = 0 then (if off + len ≤ memTop then some off else none)
  else
    let a := s.translate ((s.func f).wbase.toNat + off)
    if s.vfOn f && decide (off + len ≤ 2 ^ s.host.wlog.toNat) && decide (a + len ≤ memTop)
        && s.permits (f - 1) write a len then some a
    else none

def execBarAccess (f : Nat) (off : Nat) (len : Nat) (write : Option (List Byte)) (s : State) :
    Host.Outcome State Fault Refusal :=
  if s.rst.inReset ∨ !s.host.linkUp ∨ 17 ≤ f then .next s
  else
    let n := match write with | some bs => bs.length | none => len
    let refused := s.respond (.bar f none)
    match s.rst.phase == 8, s.barAddr f off n write.isSome, write with
    | false, _, none => .next refused
    | false, _, some _ => .next s
    | true, none, _ => .next refused
    | true, some a, some bs =>
      match s.unitPut a bs with
      | some s => .next s
      | none => .next refused
    | true, some a, none =>
      match s.unitRead a n with
      | .bytes bs => .next (s.respond (.bar f (some bs)))
      | _ => .next refused

end Sys2Proof.Machine
end

