-- ==== Sys2Proof/Machine/Fabric.lean ====
section
/-! DEFINITION. The Fameuri fabric: flits, replay, routes, discovery, lane degrade and link loss (spec/09 R332 to
R349, R375 to R378; cages, spec/01 R31 to R33). -/

namespace Sys2Proof.Machine

/-! ### A packet as bytes (spec/06 Table 6-1, spec/09 R335) -/

/-- Packet types in the order of their values 0x00 to 0x1F (Table 6-2). -/
def packetTypes : List PType :=
  [.abort, .safe, .ink, .smudge, .mer, .warm, .warr, .wqry, .wrsp, .wdone, .mrd, .mrdr, .mwr, .mwrr, .rsv0E, .rsv0F,
   .mrts, .mgnt, .mdata, .acc, .accrsp, .cpart, .cres, .cagr, .mgmt, .cagd, .crep, .rcred, .ovd, .ovr, .vote, .attach]

def typeCode (t : PType) : Nat := packetTypes.findIdx (· == t)
def typeOf (n : Nat) : PType := packetTypes.getD n .rsv0F

def bit (b : Bool) (k : Nat) : Nat := if b then 2 ^ k else 0

/-- A packet's header and payload flits. -/
def packetBytes (p : Packet) : List Byte :=
  let nflit := (p.payload.length + 63) / 64
  let flags := bit p.rsp 0 + bit p.warr 1 + bit p.pencil 2 + bit p.last 3 + bit p.inkreq 4
  leBytes 1 (32 * packetClass p.typ (!p.dlocal) + typeCode p.typ) ++ leBytes 1 flags ++ leBytes 1 p.edge.toNat
  ++ leBytes 1 nflit ++ leBytes 2 p.dst.toNat ++ leBytes 2 p.src.toNat
  ++ leBytes 2 (bit p.dlocal 15 + p.dmod.toNat) ++ leBytes 2 p.smod.toNat ++ leBytes 2 p.wpid.toNat ++ [p.chan, p.code]
  ++ leBytes 4 p.msgid.toNat ++ leBytes 4 p.len.toNat ++ leBytes 4 p.off.toNat ++ leBytes 4 p.epoch.toNat
  ++ leBytes 4 p.arg.toNat ++ leBytes 8 p.time.toNat ++ leBytes 20 p.ext.toNat
  ++ p.payload ++ List.replicate (64 * nflit - p.payload.length) 0

/-- Payload bytes of a packet with `n` payload flits: what LEN and OFF leave of them. -/
def payloadSize (t : PType) (len off n : Nat) : Nat :=
  let left := match t with
    | .mrd => len
    | .mrdr => len
    | .mwr => len
    | .mwrr => len
    | _ => len - off
  if 64 * n < left then 64 * n else left

/-- Reads one packet whose header and payload flits are `bs`. -/
def packetOf (bs : List Byte) : Packet :=
  let flags := field bs 1 1
  let t := typeOf (field bs 0 1 % 32)
  let len := field bs 0x14 4
  let off := field bs 0x18 4
  { typ := t, rsp := flags.testBit 0, warr := flags.testBit 1, pencil := flags.testBit 2, last := flags.testBit 3
    inkreq := flags.testBit 4, edge := BitVec.ofNat 3 (field bs 2 1), dst := BitVec.ofNat 16 (field bs 4 2)
    src := BitVec.ofNat 16 (field bs 6 2), dlocal := (field bs 8 2).testBit 15, dmod := BitVec.ofNat 15 (field bs 8 2)
    smod := BitVec.ofNat 15 (field bs 0xA 2), wpid := BitVec.ofNat 16 (field bs 0xC 2), chan := bs.getD 0xE 0
    code := bs.getD 0xF 0, msgid := BitVec.ofNat 32 (field bs 0x10 4), len := BitVec.ofNat 32 len
    off := BitVec.ofNat 32 off, epoch := BitVec.ofNat 32 (field bs 0x1C 4), arg := BitVec.ofNat 32 (field bs 0x20 4)
    time := BitVec.ofNat 64 (field bs 0x24 8), ext := BitVec.ofNat 160 (field bs 0x2C 20)
    payload := (bs.drop 64).take (payloadSize t len off (field bs 3 1)) }

/-- The packets at the front of a class's stream, and the bytes of one not yet complete. `n` bounds their number. -/
def packetsOf : Nat → List Byte → List Packet × List Byte
  | 0, bs => ([], bs)
  | n + 1, bs =>
    let size := 64 + 64 * field bs 3 1
    if bs.length < 64 ∨ bs.length < size then ([], bs)
    else
      let r := packetsOf n (bs.drop size)
      (packetOf (bs.take size) :: r.1, r.2)

/-! ### Flits (R334, Table 9-1) -/

def kindCode : FlitKind → Nat
  | .idle => 0
  | .data => 1
  | .ctrl => 2

/-- Bytes 0x00 to 0xFB of a flit, which FCRC covers. -/
def flitBytes (f : Flit) : List Byte :=
  leBytes 1 (kindCode f.kind) ++ leBytes 1 f.cls.toNat ++ leBytes 2 f.seq.toNat
  ++ leBytes 2 (f.ack.toNat + bit f.ackv 12 + bit f.nak 13) ++ leBytes 2 (f.creditCls.toNat + 256 * f.credit.toNat)
  ++ leBytes 2 f.first.toNat ++ leBytes 2 f.used.toNat ++ f.payload ++ List.replicate (240 - f.payload.length) 0

/-- Whether FCRC matches the bytes. -/
def flitCrcOk (f : Flit) : Bool := f.fcrc == crc32c (flitBytes f)
def flitSealed (f : Flit) : Flit := { f with fcrc := crc32c (flitBytes f) }

/-- Whether a flit's checks pass (R336). -/
def flitGood (f : Flit) : Bool := f.fecOk && flitCrcOk f

/-- The valid bytes of a flit's payload. -/
def flitData (f : Flit) : List Byte := f.payload.take f.used.toNat

/-! ### Sending flits (R334 to R339) -/

/-- The class whose buffer a flit returns, and how many flits of it (Table 9-1). -/
def Port.returns (o : Port) : Nat × Nat :=
  match o.owed with
  | [] => (0, 0)
  | (c, n) :: _ => (c, min n 255)

/-- A flit of the port, with what it has to report (R336, R338). -/
def Port.flit (o : Port) (kind : FlitKind) (cls : Nat) (first : W16) (bs : List Byte) : Flit :=
  flitSealed
    { kind := kind, cls := BitVec.ofNat 3 cls, seq := if kind = .idle then 0 else o.txseq, ack := o.rxseq - 1, ackv := o.got
      nak := o.nakDue, creditCls := BitVec.ofNat 3 o.returns.1, credit := BitVec.ofNat 8 o.returns.2, first := first
      used := BitVec.ofNat 16 bs.length, payload := bs ++ List.replicate (240 - bs.length) 0, fcrc := 0, fecOk := true }

/-- What a port has reported is no longer due. -/
def Port.reported (o : Port) : Port :=
  { o with nakDue := false, ackDue := false, owed := Sparse.upd 0 o.owed o.returns.1 fun n => n - o.returns.2 }

/-- Sends a DATA or CTRL flit and keeps it for replay. -/
def Port.emit (o : Port) (kind : FlitKind) (cls : Nat) (first : W16) (bs : List Byte) : Port :=
  let f := o.flit kind cls first bs
  { o.reported with
    outq := o.outq ++ [f], replay := o.replay ++ [f], resends := o.resends ++ [0], txseq := o.txseq + 1 }

/-- Sends an IDLE flit. -/
def Port.emitIdle (o : Port) : Port := { o.reported with outq := o.outq ++ [o.flit .idle 0 0xFFFF []] }

/-- Whether the replay buffer has room for a flit (R337). -/
def Port.room (o : Port) : Bool := decide (o.replay.length < 1024)

def Port.credit (o : Port) (c : Nat) : Nat := Sparse.get 0 o.credits c

/-- The bytes of a class whose sending has begun. -/
def Port.begun (o : Port) (c : Nat) : List Byte := match o.tx.find? fun e => e.1 == c with | some e => e.2 | none => []

/-- The quanta of classes c3 to c6 (R339). -/
def quantumOf (c : Nat) : Nat := if c = 3 then 16 else if c = 4 then 8 else 4

/-- The class after a class in the round of c3 to c6. -/
def nextTurn (c : Nat) : Nat := if c = 6 then 3 else c + 1

/-- Deficit round robin among c3 to c6 (R339). `n` bounds the classes tried. -/
def Port.takeTurn (ready : Nat → Bool) : Nat → Port → Option (Nat × Port)
  | 0, _ => none
  | n + 1, o =>
    if o.quantum ≠ 0 ∧ ready o.turn then some (o.turn, { o with quantum := o.quantum - 1 })
    else takeTurn ready n { o with turn := nextTurn o.turn, quantum := quantumOf (nextTurn o.turn) }

/-- The class of the next DATA flit (R339): c0, c1, then c2 against a token, or without one while no lower class waits. -/
def Port.choose (o : Port) (ready : Nat → Bool) : Option (Nat × Port) :=
  if ready 0 then some (0, o)
  else if ready 1 then some (1, o)
  else if ready 2 && (decide (0 < o.tokens) || !([3, 4, 5, 6].any ready)) then some (2, { o with tokens := o.tokens - 1 })
  else o.takeTurn ready 5

/-- One flit time: a token every ten, up to 5. -/
def Port.flitTime (o : Port) : Port :=
  if o.tokenAge + 1 < 10 then { o with tokenAge := o.tokenAge + 1 }
  else { o with tokenAge := 0, tokens := min 5 (o.tokens + 1) }

/-- The length of a flit in units of 10 ps: 2.56 ns at four lanes, 5.12 ns at two (R334). -/
def Port.flitPeriod (o : Port) : Nat := if o.live = 4 then 256 else 512

/-! ### Routes (R341, R342) -/

/-- Where a packet for another module goes. -/
inductive Hop where
  | go (n : Nat)
  | wait
  | lost
  | refuse (code : Byte)
  deriving DecidableEq, Repr

/-- Whether a transfer of this module, bound for port `n`, crosses a closed router on its way to the east edge (R224,
R342). Only requests and their payload end so (log 99). -/
def State.cutToPort (s : State) (p : Packet) (n : Nat) : Bool :=
  p.smod == s.modId && !p.rsp && (p.typ == .mrts || p.typ == .mdata || p.typ == .acc || p.typ == .mrd || p.typ == .mwr)
  && s.cut (s.startOf p) (fabricHome (dieOf n) (coreY (s.startOf p)))

def State.hop (s : State) (p : Packet) : Hop :=
  match s.routePort p.dmod with
  | none => .refuse rcAccess
  | some n =>
    let o := s.port n
    if o.use ≠ .inUse then .refuse rcAccess
    else if s.cutToPort p n then .refuse rcIsolated
    else if o.state = .lost then .lost
    else if o.up then .go n
    else .wait

/-- The partition that holds the job of several modules. -/
def State.multiPart (s : State) : Option Nat :=
  (List.range 16).find? fun p => match (s.part p).job with | some j => decide (1 < j.modules) | none => false

/-- A refused packet whose type has no answer: ACCESS is reported, against the job of several modules where there is one
(R341; log 99). -/
def State.reportAccess (s : State) : State :=
  match s.multiPart with
  | some q => s.raiseJob q none .access .job
  | none => s.event { code := .access, cls := .job, detail := Config.eventDetail FCode.access.byte.toNat 0xFFFF s.tick }

/-- The answer to a refused packet (R341, R232): to a request by its kind, to the payload of a message by the answer to its
request. -/
def State.routeRefusal (s : State) (p : Packet) (code : Byte) : Option Packet :=
  let r (t : PType) : Option Packet := some (s.reply p t code)
  match p.typ with
  | .mrts => r .mgnt
  | .mdata => r .mgnt
  | .acc => r .accrsp
  | .mrd => r .mrdr
  | .mwr => r .mwrr
  | .warr => r .wrsp
  | _ => none

def State.refusePacket (s : State) (p : Packet) (code : Byte) : State :=
  let s : State := { s with net := s.net.erase p }
  match s.routeRefusal p code with
  | some q => s.send q
  | none => if code = rcAccess then s.reportAccess else s

/-- Whether a packet leaves the module, and by which hop. -/
def State.outgoing (s : State) (p : Packet) : Option Hop := if s.forUs p then none else some (s.hop p)

/-! ### A port's stream (R335, R337 to R339, R342) -/

/-- Whether a packet of a class waits for port `n`. -/
def State.queued (s : State) (n c : Nat) : Bool :=
  (s.port n).direct.any (fun p => packetClass p.typ true == c)
  || s.net.any fun p => packetClass p.typ true == c && s.outgoing p == some (.go n)

/-- The next packet of a class for port `n`, the port's own first, then the oldest of the mesh, which it leaves. -/
def State.pull (s : State) (n c : Nat) : Option (Packet × State) :=
  match (s.port n).direct.find? fun p => packetClass p.typ true == c with
  | some p => some (p, s.updPort n fun o => { o with direct := o.direct.erase p })
  | none =>
    match s.net.find? fun p => packetClass p.typ true == c && s.outgoing p == some (.go n) with
    | some p => some (p, { s with net := s.net.erase p })
    | none => none

/-- The end of a message of this module's cores enters the stream of a class, `at_` bytes ahead (spec/04 R164). -/
def State.tailOf (s : State) (n c at_ : Nat) (p : Packet) : State :=
  if p.smod == s.modId && p.last && (p.typ == .mdata || p.typ == .acc) then
    s.updPort n fun o => { o with tails := o.tails ++ [⟨p.src.toNat, c, at_, none⟩] }
  else s

/-- A DATA flit of a class leaves: the ends it carries wait for its acknowledgement. -/
def Tail.step (c : Nat) (q : BitVec 12) (x : Tail) : Tail :=
  if x.cls ≠ c ∨ x.seq.isSome then x
  else if x.left ≤ 240 then { x with left := 0, seq := some q }
  else { x with left := x.left - 240 }

/-- The margin die stamps TREQ and TRSP where their header crosses the port, the sixths as their command gave them (R399;
log 98). -/
def State.stamped (s : State) (p : Packet) : Packet × State :=
  let kind := p.arg.toNat % 256
  if p.typ = .mer ∧ p.smod = s.modId ∧ (kind = 1 ∨ kind = 2) then
    ({ p with time := s.tick },
     if kind = 1 then s.updMer fun m => { m with treqSent := some (merStamp s.tick.toNat (extField p 0x2C 1)) } else s)
  else (p, s)

/-- Fills a flit's 240 bytes of a class: what has begun, then whole packets back to back; with the offset of the first
header. `f` bounds the packets, as five headers fill a flit. -/
def State.fillFlit (n c : Nat) : Nat → State → List Byte → Option Nat → State × List Byte × Option Nat
  | 0, s, bs, first => (s, bs, first)
  | f + 1, s, bs, first =>
    if 240 ≤ bs.length then (s, bs, first)
    else match s.pull n c with
      | none => (s, bs, first)
      | some (p, s) =>
        let x := s.stamped p
        State.fillFlit n c f (x.2.tailOf n c (bs.length + (packetBytes x.1).length) p) (bs ++ packetBytes x.1) (some (first.getD bs.length))

/-- Sends a DATA flit of a class, against one of its credits. -/
def State.sendData (s : State) (n c : Nat) : State :=
  let x := State.fillFlit n c 5 s ((s.port n).begun c) none
  x.1.updPort n fun o =>
    let rest := x.2.1.drop 240
    { o.emit .data c (match x.2.2 with | some k => BitVec.ofNat 16 k | none => 0xFFFF) (x.2.1.take 240) with
      tails := o.tails.map (Tail.step c o.txseq), tx := o.tx.filter (fun e => e.1 != c) ++ (if rest.isEmpty then [] else [(c, rest)])
      credits := Sparse.upd 0 o.credits c fun k => k - 1 }

/-- Whether a DATA flit of a class may start: bytes, a credit, room in the replay buffer. -/
def State.canSend (s : State) (n c : Nat) : Bool :=
  (s.port n).up && (s.port n).room && decide (0 < (s.port n).credit c) && (!((s.port n).begun c).isEmpty || s.queued n c)

/-- Whether a port streams flits: with FEC lock, but not in the first steps of a degrade (R375). -/
def Port.streams (o : Port) : Bool := o.up || (o.fec && (o.state == .training || o.state == .degrading))

/-- A flit boundary of port `n`: a DATA flit of the class chosen, else IDLE (R334, R339). -/
def State.flitBoundary (s : State) (n : Nat) : State :=
  match (s.port n).flitTime.choose (s.canSend n) with
  | some (c, o) => (s.updPort n fun _ => o).sendData n c
  | none => s.updPort n fun o => o.flitTime.emitIdle

/-- One tick, 1 ns, of a port's stream. -/
def State.portTick (s : State) (n : Nat) : State :=
  let o := s.port n
  if !o.streams then s
  else
    let ph := o.phase + 100
    if ph < o.flitPeriod then s.updPort n fun o => { o with phase := ph }
    else
      (s.updPort n fun o => { o with phase := ph - o.flitPeriod }).flitBoundary n

/-- One tick of the fabric: packets without a route are refused, those over a lost port are lost, and each port
sends. -/
def State.fabricTick (s : State) : State :=
  let s := s.net.foldl (fun s p => match s.outgoing p with
    | some (.refuse code) => s.refusePacket p code
    | some .lost => { s with net := s.net.erase p }
    | _ => s) s
  (List.range 12).foldl State.portTick s

/-- Sends a packet at once by the port of its route, where the port can take its flits: the last answer before a reset
(spec/07 R277). -/
def State.sendNow (s : State) (p : Packet) : State :=
  match s.hop p with
  | .go n =>
    let c := packetClass p.typ true
    if s.canSend n c then s.sendData n c else s
  | _ => s

/-! ### Link loss (R337, R376 to R378, R355) -/

/-- Accesses of this module to modules that `via` names end with LINK_LOST: those of cores, and transfers of the engines. -/
def State.dropRemotes (s : State) (via : BitVec 15 → Bool) : State :=
  let s := (s.cores.map (·.1)).foldl (fun s c =>
    ((s.core c).remotes.filter fun r => r.far && via r.peer).foldl (fun s r => s.failRemote c r .linkLost) s) s
  let leads (a : Nat) : Bool := farAddr a && via (s.windowModule a)
  (List.range 16).foldl (fun s e =>
    match s.engine e with
    | some x =>
      if (x.acks ≠ 0 && leads (s.translate x.d.dst.toNat)) || (x.left ≠ 0 && leads (s.translate x.d.src.toNat)) then
        s.endXfer e x (.fault .linkLost) (BitVec.ofNat 64 x.next)
      else s
    | none => s) s

/-- Queues an ABORT on every in-use port but `but` (R377). -/
def State.sendAbort (s : State) (p : Packet) (but : Nat) : State :=
  (List.range 12).foldl (fun s n =>
    if n ≠ but && (s.port n).use == .inUse then s.postOn n { p with dmod := (s.port n).peer } else s) s

/-- The end of a job's step by a lost link: its collectives end without delivery, the step is smudged, its cores stay
stopped, the STEP fails (R377). -/
def State.abortStep (s : State) (part : Nat) (ev : Event) : State :=
  let s := s.applySmudge part s.tick.toNat true
  let s := s.updCores (s.part part) fun _ k => if k.run = .off then k else { k with run := .stopJob, wait := .none }
  ((s.updPart part fun x => { x with stopped := true }).event ev).finishStep part (.fault .linkLost) true

/-- The event of a lost link. -/
def State.linkEvent (s : State) (part : Nat) (port : Nat) (origin : Option (BitVec 15)) : Event :=
  { code := .linkLost, cls := .job, part := some part, step := s.stepNo part, detail := BitVec.ofNat 64 port, module := origin }

/-- A port that keeps nothing of the flits it sent and received. -/
def Port.silent (o : Port) : Port :=
  { o with replay := [], resends := [], rx := [], rxFlits := [], owed := [], credits := [], tx := [], direct := [], tails := []
           nakDue := false, ackDue := false, phase := 0, tokens := 0, tokenAge := 0, turn := 3, quantum := 0 }

/-- A port is lost. In use, it ends the step of its job and sends ABORT. -/
def State.losePort (s : State) (n : Nat) : State :=
  let used := (s.port n).use == .inUse
  let s := s.updPort n fun o =>
    { o.silent with state := .lost, fec := false, heard := false, partnerAck := false, ackSent := false, lanes := 0 }
  let s := s.updSvr fun v => { v with portout := v.portout ||| BitVec.ofNat 12 (2 ^ n) }
  match used, s.multiPart with
  | true, some part =>
    let s := s.dropRemotes fun m => s.routePort m == some n
    let s := s.abortStep part (s.linkEvent part n none)
    let no := s.fab.abortNo
    let p : Packet :=
      { typ := .abort, src := 0xFFFF, dlocal := false, smod := s.modId, msgid := no, edge := 4
        arg := BitVec.ofNat 32 (FCode.linkLost.byte.toNat + 256 * n) }
    (s.updFab fun b => { b with abortNo := no + 1, aborts := b.aborts ++ [(s.modId, no)] }).sendAbort p n
  | _, _ => s

/-- Whether a port has a link to lose. -/
def Port.linked (o : Port) : Bool := o.up || o.state == .degrading

def execPortLost (n : Nat) (s : State) : Host.Outcome State Fault Refusal :=
  if s.rst.inReset ∨ 12 ≤ n ∨ !(s.port n).linked then .next s else .next (s.losePort n)

/-- An ABORT that arrived on port `n`. -/
def execAbort (n : Nat) (p : Packet) (s : State) : Host.Outcome State Fault Refusal :=
  if p.typ ≠ .abort then .next s
  else match s.arrive p with
  | none => .next s
  | some s =>
    if s.fab.aborts.contains (p.smod, p.msgid) then .next s
    else
      let s := (s.updFab fun b => { b with aborts := b.aborts ++ [(p.smod, p.msgid)] }).sendAbort p n
      match s.multiPart with
      | none => .next s
      | some part =>
        -- the lost link may lie on the way of any access to another module (R355; log 99)
        let s := s.dropRemotes fun _ => true
        .next (s.abortStep part (s.linkEvent part (p.arg.toNat / 256 % 256) (some p.smod)))

/-! ### Receiving flits (R336, R337) -/

/-- Releases the flits that an ACK covers. -/
def Port.acked (o : Port) (f : Flit) : Port :=
  if !f.ackv then o
  else match o.replay.findIdx? fun g => g.seq == f.ack with
    | some i =>
      let r := o.replay.drop (i + 1)
      { o with replay := r, resends := o.resends.drop (i + 1)
               tails := o.tails.filter fun x => match x.seq with | some q => r.any (·.seq == q) | none => true }
    | none => o

/-- Takes the flits of buffer that the partner returns (R338). -/
def Port.credited (o : Port) (f : Flit) : Port :=
  if f.credit = 0 then o else { o with credits := Sparse.upd 0 o.credits f.creditCls.toNat (· + f.credit.toNat) }

/-- Packets that no job owns: they pass a dark port. -/
def jobless (t : PType) : Bool := t == .mer || t == .mgmt

/-- A packet that port `n` delivers. One for another module that changes margin die crosses the mesh between the two rows
(R342): there a reserved type is discarded and reported, and a closed router ends a transfer. -/
def State.enterMesh (s : State) (n : Nat) (p : Packet) : State :=
  let y := coreY p.dst.toNat
  match (if s.forUs p then none else s.routePort p.dmod) with
  | none => s.send p
  | some m =>
    if dieOf m = dieOf n then s.send p
    else if p.typ = .rsv0E ∨ p.typ = .rsv0F then { s with notices := s.notices ++ [p.typ] }
    else if s.cut (fabricHome (dieOf n) y) (fabricHome (dieOf m) y) then (s.send p).refusePacket p rcIsolated
    else s.send p

/-- The margin die notes where and when a MER packet's header crossed the port (R399). -/
def State.noteMer (s : State) (n : Nat) (p : Packet) : State :=
  if p.typ = .mer then s.updMer fun m => { m with arrived := m.arrived ++ [(p, n, s.tick)] } else s

/-- Takes in the bytes of a DATA flit: packets complete with it leave the class's buffer, whose flits are returned. -/
def State.takeData (s : State) (n : Nat) (f : Flit) : State :=
  let o := s.port n
  let c := f.cls.toNat
  let old := match o.rx.find? fun e => e.1 == c with | some e => e.2 | none => []
  let r := packetsOf 8 (old ++ flitData f)
  let dark := o.use == .dark
  let keep := r.1.filter fun p => !dark || jobless p.typ
  let gone := r.1.length - keep.length
  let flits := Sparse.get 0 o.rxFlits c + 1
  let kept := min flits ((r.2.length + 239) / 240)
  let s := s.updPort n fun o => { o with
    rx := o.rx.filter (fun e => e.1 != c) ++ (if r.2.isEmpty then [] else [(c, r.2)])
    rxFlits := Sparse.put 0 o.rxFlits c kept, owed := Sparse.upd 0 o.owed c (· + (flits - kept))
    darkdisc := (List.range gone).foldl (fun v _ => sat16 v) o.darkdisc }
  keep.foldl (fun s p => (s.noteMer n p).enterMesh n p) s

/-- The HELLO record in the payload of a CTRL flit (Table 9-3). -/
def helloOf (bs : List Byte) : Hello :=
  let r := bs.drop 1
  { pkind := BitVec.ofNat 1 (field r 0 1), port := BitVec.ofNat 4 (field r 1 1), id := BitVec.ofNat 15 (field r 2 2)
    idv := (field r 2 2).testBit 15, lanes := r.getD 4 0, ver := r.getD 5 0, latns := BitVec.ofNat 16 (field r 6 2)
    uid := BitVec.ofNat 64 (field r 8 8), blkns := BitVec.ofNat 16 (field r 0x10 2), ackd := (field r 0x12 1).testBit 0 }

/-- The payload of a CTRL flit with a HELLO record. -/
def helloBytes (h : Hello) : List Byte :=
  [0x01] ++ leBytes 1 h.pkind.toNat ++ leBytes 1 h.port.toNat ++ leBytes 2 (h.id.toNat + bit h.idv 15) ++ [h.lanes, h.ver]
  ++ leBytes 2 h.latns.toNat ++ leBytes 8 h.uid.toNat ++ leBytes 2 h.blkns.toNat ++ leBytes 1 (bit h.ackd 0)
  ++ List.replicate 45 0

/-- Whether a port takes HELLO records. -/
def Port.greets (o : Port) : Bool := o.fec && (o.state == .training || o.state == .degrading)

/-- A flit as it is sent again: it reports what is due now (R336). -/
def Port.again (o : Port) (nak : Bool) (f : Flit) : Flit := flitSealed { f with ack := o.rxseq - 1, ackv := o.got, nak := nak }

/-- The unacknowledged flits as they are sent again, the first with NAK when that is due. -/
def Port.againAll (o : Port) : List Flit :=
  match o.replay with
  | [] => []
  | f :: fs => o.again o.nakDue f :: fs.map (o.again false)

/-- Sends every unacknowledged flit again, in order (R337, R375). -/
def Port.resend (o : Port) : Port :=
  { o with outq := o.outq ++ o.againAll, nakDue := o.nakDue && o.replay.isEmpty, ackDue := o.ackDue && o.replay.isEmpty, resends := o.resends.map (· + 1)
           replays := (List.range o.replay.length).foldl (fun v _ => sat16 v) o.replays }

/-- Brings the port UP once both sides have received a HELLO with ACKD (R348; log 31). A degraded port then resends
every unacknowledged flit (R375). -/
def Port.meet (o : Port) : Port :=
  if !(o.heard && o.partnerAck && o.ackSent) then o
  else if o.state = .degrading then { o.resend with state := .up2 }
  else { o with state := if o.live = 4 then .up4 else .up2 }

/-- A HELLO from the partner. -/
def Port.greeted (o : Port) (h : Hello) : Port :=
  if !o.greets || h.ver != 1 then o
  else
    let o := { o with heard := true, partnerAck := o.partnerAck || h.ackd, hello := some h
                      peer := h.id, peerv := h.idv, peerport := h.port, pkind := h.pkind }
    o.meet

/-- Delivers a flit that passed its checks. -/
def State.deliverFlit (s : State) (n : Nat) (f : Flit) : State :=
  let s := s.updPort n fun o => { o with rxseq := o.rxseq + 1, got := true, ackDue := true }
  match f.kind with
  | .data => s.takeData n f
  | .ctrl => if f.payload.headD 0 = 1 then s.updPort n fun o => o.greeted (helloOf f.payload) else s
  | .idle => s

/-- A port that receives flits. -/
def State.listens (s : State) (n : Nat) : Bool :=
  decide (n < 12) && !s.rst.inReset && !s.svr.closed.contains (.port n) && ((s.port n).linked || (s.port n).greets)

def execFlitReceive (n : Nat) (f : Flit) (s : State) : Host.Outcome State Fault Refusal :=
  if !s.listens n then .next s
  else if !f.fecOk then .next (s.updPort n fun o => { o with uncorr := sat16 o.uncorr, nakDue := true })
  else if !flitCrcOk f then .next (s.updPort n fun o => { o with nakDue := true })
  else
    let s := s.updPort n fun o => o.acked f
    if f.kind = .idle then .next (s.updPort n fun o => o.credited f)
    else if f.seq = (s.port n).rxseq then .next ((s.updPort n fun o => o.credited f).deliverFlit n f)
    else .next (s.updPort n fun o => { o with nakDue := true })

/-- NAK: every flit after ACK is sent again, in order; a flit that has been resent 16 times loses the port (R337). -/
def execNakReplay (n : Nat) (f : Flit) (s : State) : Host.Outcome State Fault Refusal :=
  if !s.listens n ∨ !f.nak ∨ !flitGood f then .next s
  else
    let s := s.updPort n fun o => o.acked f
    let o := s.port n
    if o.replay.isEmpty ∨ o.state = .degrading then .next s
    else if o.resends.any (fun k => decide (16 ≤ k)) then .next (s.losePort n)
    else .next (s.updPort n Port.resend)

/-! ### Cages (spec/01 R32, R33; R347) -/

/-- The declared power of the modules in cages 0 to n. -/
def State.cageWatts (s : State) (n : Nat) : Nat :=
  (List.range (n + 1)).foldl (fun t k => if (s.port k).present then t + (s.port k).watts else t) 0

/-- A port without power or module: it keeps nothing but its cage, what its job last saw and its output. Its ResetL is low
and LPMode high (log 97). -/
def Port.dropped (o : Port) (cage : Cage) : Port :=
  { present := o.present, watts := o.watts, use := o.use, cage := cage, lanefail := o.lanefail
    state := if o.state = .lost then .lost else .down, intL := o.intL
    replays := o.replays, uncorr := o.uncorr, darkdisc := o.darkdisc, outq := o.outq }

/-- Switches cage power by presence, by the cage's 20 W and by the 180 W of all, the highest-numbered cages first off; a
cage left unpowered is reported. The spec leaves three points open, and the model's choices (log 100) are: CAGE reads 0 from
power to the reading of the CMIS map; a module counts 0 W until its power class has been read; a module put into a lower cage
later takes the power of a higher one, whose port is lost if it was UP. A module removed from a powered cage loses the port
(R32). -/
def State.cagePower (s : State) (n : Nat) : State :=
  let o := s.port n
  let on := o.present && s.rst.phase == 8 && decide (o.watts ≤ 20) && decide (s.cageWatts n ≤ 180)
  let off : Cage := if o.present && s.rst.phase == 8 then .unpowered else .empty
  if on && o.powered then s
  else if on then s.updPort n fun o => { o with powered := true, cage := .empty, resetL := true, lpMode := false }
  else if !o.powered then s.updPort n fun o => { o with cage := off }
  else
    let s := if !o.present || o.linked then s.losePort n else s
    s.updPort n fun o => o.dropped off

def State.cageBudget (s : State) : State := (List.range 12).foldl State.cagePower s

def execCagePresenceChange (n : Nat) (present : Bool) (s : State) : Host.Outcome State Fault Refusal :=
  if 12 ≤ n then .next s
  else if (s.port n).present = present then .next s
  else
    let s := s.updPort n fun o => { o with present := present, watts := 0 }
    if s.rst.inReset then .next s else .next s.cageBudget

/-- A link at the start of training: its buffers are empty, and all their flits are to be returned (R338; log 97). -/
def Port.fresh (o : Port) : Port :=
  { o.silent with fec := false, heard := false, partnerAck := false, ackSent := false, hello := none, txseq := 0, rxseq := 0
                  got := false, owed := Sparse.tabulate 0 7 Config.classBuffer }

/-- What the surveyor reads of a module (R347). -/
def Cmis.accepts (m : Cmis) : Bool := m.qsfp && decide (0x50 ≤ m.revision) && m.paged && m.app800

def execCageDiscovery (n : Nat) (m : Cmis) (s : State) : Host.Outcome State Fault Refusal :=
  if s.rst.inReset ∨ 12 ≤ n ∨ !(s.port n).powered ∨ (s.port n).linked then .next s
  else
    let s := s.updPort n fun o => { o with watts := m.watts, app400 := m.app400 }
    let s := s.updPort n fun o =>
      if Cmis.accepts m then
        { o.fresh with cage := .accepted, lanes := 0xF, deadLanes := 0, appLanes := 4, dataPath := true
                       state := if o.state = .lost then .lost else .training }
      else { o with cage := .refused }
    .next s.cageBudget

/-! ### Bring-up (R348) -/

def execFecAlignmentLock (n : Nat) (s : State) : Host.Outcome State Fault Refusal :=
  if s.rst.inReset ∨ 12 ≤ n ∨ s.svr.closed.contains (.port n) then .next s
  else .next (s.updPort n fun o => if o.state = .training ∨ o.state = .degrading then { o with fec := true } else o)

/-- This module's HELLO on a port. -/
def State.ownHello (s : State) (n : Nat) : Hello :=
  let o := s.port n
  { pkind := 0, port := BitVec.ofNat 4 n, id := s.modId, idv := s.svr.lValid && !s.svr.lEepromBad
    lanes := BitVec.ofNat 8 o.live, ver := 1, latns := 0, uid := BitVec.ofNat 64 (s.svr.idrom.readLE 0x30 8), blkns := 0
    ackd := o.heard }

/-- A HELLO leaves every 1 µs once FEC alignment has locked. -/
def execHelloSend (n : Nat) (s : State) : Host.Outcome State Fault Refusal :=
  if s.rst.inReset ∨ 12 ≤ n ∨ !(s.port n).streams ∨ !(s.port n).room then .next s
  else
    let h := s.ownHello n
    .next (s.updPort n fun o =>
      let o := { o.emit .ctrl 0 0xFFFF (helloBytes h) with ackSent := o.ackSent || h.ackd }
      if o.greets then o.meet else o)

def execHello (n : Nat) (h : Hello) (s : State) : Host.Outcome State Fault Refusal :=
  if s.rst.inReset ∨ 12 ≤ n ∨ s.svr.closed.contains (.port n) then .next s
  else .next (s.updPort n fun o => o.greeted h)

/-- A port set to train anew on all four lanes (R375). -/
def Port.fourLanes (o : Port) : Port := { o.fresh with lanes := 0xF, deadLanes := 0, appLanes := 4, dataPath := true }

/-- The state from which a link is brought up. -/
def Port.retrain (o : Port) : Port :=
  { o with fec := false, heard := false, partnerAck := false, ackSent := false, hello := none }

/-- Not UP within 5 s: training starts again, with the four lanes of its application while no job is attached. -/
def execTrainingRetry (n : Nat) (s : State) : Host.Outcome State Fault Refusal :=
  if s.rst.inReset ∨ 12 ≤ n ∨ (s.port n).state ≠ .training then .next s
  else .next (s.updPort n fun o => if s.attached then o.fresh else o.fourLanes)

/-! ### Lane degrade (R375, R376) -/

/-- The pair of lanes that a port with the given failed lanes degrades to. -/
def healthyPair (dead : BitVec 4) : Option (BitVec 4) :=
  if dead &&& 3 = 0 then some 3 else if dead &&& 12 = 0 then some 12 else none

/-- A lane fails. -/
def execLaneFail (n : Nat) (lane : BitVec 2) (s : State) : Host.Outcome State Fault Refusal :=
  if s.rst.inReset ∨ 12 ≤ n ∨ !(s.port n).linked then .next s
  else
    let m : BitVec 4 := BitVec.ofNat 4 (2 ^ lane.toNat)
    let s := (s.updPort n fun o => { o with lanefail := o.lanefail ||| m, deadLanes := o.deadLanes ||| m }).hwSet
      (0x41000 + 0x20 * n) (m.setWidth 64 <<< 32)
    let o := s.port n
    if o.lanes &&& m = 0 then .next s
    else match o.app400, healthyPair o.deadLanes with
      | true, some pair => .next (s.updPort n fun o => { o.retrain with state := .degrading, lanes := pair, appLanes := 2 })
      | _, _ => .next (s.losePort n)

/-- The degrade is not complete after 1 ms. -/
def execDegradeTimeout (n : Nat) (s : State) : Host.Outcome State Fault Refusal :=
  if s.rst.inReset ∨ 12 ≤ n ∨ (s.port n).state ≠ .degrading then .next s else .next (s.losePort n)

end Sys2Proof.Machine
end

