-- ==== Sys2Proof/Machine/Special.lean ====
section
/-! DEFINITION. Special functions, division and square root: the two FP32 values adjacent to the exact result, and the
free choice between them (spec/05 R208, Tables 5-11 and 5-12; log 13). -/

namespace Sys2Proof.Machine

/-- A result of a vector operation: the lane and the FLUSHED bit. -/
abbrev LaneOut := W32 × W32

/-- A result that FP32 represents, a zero, an infinity or NaN. -/
def laneOf (ftz znorm : Bool) (x : Num) : LaneOut := fp32Out ftz znorm x

/-- One of the two FP32 values adjacent to ±v, where v lies in [n × 2^e, (n + 1) × 2^e) and equals n × 2^e when
`exact`. `up` picks the numerically larger one. `n` has at least 24 significant bits unless v is exact. -/
def adjacent (ftz znorm neg : Bool) (n : Nat) (e : Int) (exact up : Bool) : LaneOut :=
  let q0 := flog2 n e - 23
  let q := if q0 < -149 then -149 else q0
  let g := gridSplit n e q
  if magLt fpFp32.maxM fpFp32.maxE g.1 q then
    laneOf ftz znorm (if up != neg then .inf neg else .fin neg fpFp32.maxM fpFp32.maxE)
  else if exact && g.2.1 == 0 then laneOf ftz znorm (.fin neg g.1 q)
  else laneOf ftz znorm (.fin neg (if up != neg then g.1 + 1 else g.1) q)

/-- floor of the square root of y below 4^bits. -/
def isqrt : Nat → Nat → Nat → Nat
  | 0, _, r => r
  | b + 1, y, r => isqrt b y (if (r + 2 ^ b) * (r + 2 ^ b) ≤ y then r + 2 ^ b else r)

/-! ### Fixed point with 512 fractional bits

e^x and ln x are irrational for every other rational x than the exact cases, and no FP32 input brings them within
2^-400 of an FP32 value, so these truncated series give the true neighbours. -/

def fixOne : Int := 2 ^ 512

def fixMul (a b : Int) : Int := a * b / 2 ^ 512

/-- Σ over j < n of t^j / j!, by Horner's rule from the last term. -/
def expSeries (t : Int) : Nat → Nat → Int → Int
  | 0, _, acc => acc
  | n + 1, j, acc => expSeries t n (j - 1) (fixOne + fixMul t acc / j)

def sqTimes : Nat → Int → Int
  | 0, x => x
  | n + 1, x => sqTimes n (fixMul x x)

/-- e^(s × 2^e) for |s × 2^e| < 128: the series at 1/1024 of the argument, squared ten times. -/
def expFix (s e : Int) : Int :=
  let t : Int := if 0 ≤ 502 + e then s * pow2 (502 + e) else s / pow2 (-(502 + e))
  sqTimes 10 (expSeries t 90 90 fixOne)

/-- Σ z^(2j+1) / (2j+1): the area tangent of z. -/
def atanhSeries (z2 : Int) : Nat → Int → Int → Int → Int
  | 0, _, _, acc => acc
  | n + 1, p, k, acc => atanhSeries z2 n (fixMul p z2) (k + 2) (acc + p / k)

def atanhFix (num den : Int) : Int :=
  let z := num * fixOne / den
  atanhSeries (fixMul z z) 200 z 1 0

/-- ln 2 and ln of m × 2^e. -/
def ln2Fix : Int := 2 * atanhFix 1 3
def lnFix (m : Nat) (e : Int) : Int :=
  let b := Nat.log2 m
  -- m / 2^b lies in [1, 2); brought into [3/4, 3/2)
  let big := decide (3 * 2 ^ b ≤ 2 * m)
  let den : Int := 2 ^ (if big then b + 1 else b)
  2 * atanhFix (m - den) (m + den) + (e + b + (if big then 1 else 0)) * ln2Fix

/-! ### The functions -/

/-- The FP32 code of a value, to index a free choice. -/
def codeOf (x : Num) : W32 := (fp32Out false false x).1

/-- A division (spec/05 R213, accuracy of R208). -/
def divLane (ftz znorm : Bool) (a b : Num) : LaneOut :=
  match a, b with
  | .nan, _ => laneOf ftz znorm .nan
  | _, .nan => laneOf ftz znorm .nan
  | .inf s, .inf _ => let _ := s; laneOf ftz znorm .nan
  | .inf s, .fin t _ _ => laneOf ftz znorm (.inf (s != t))
  | .fin s _ _, .inf t => laneOf ftz znorm (.fin (s != t) 0 0)
  | .fin s m e, .fin t n f =>
    if n = 0 then laneOf ftz znorm (if m = 0 then .nan else .inf (s != t))
    else if m = 0 then laneOf ftz znorm (.fin (s != t) 0 0)
    else adjacent ftz znorm (s != t) (m * 2 ^ 80 / n) (e - f - 80) (decide (m * 2 ^ 80 % n = 0))
      (Config.divUp (codeOf a) (codeOf b))

/-- A square root (spec/05 R213, accuracy of R208). -/
def sqrtLane (ftz znorm : Bool) (x : Num) : LaneOut :=
  match x with
  | .nan => laneOf ftz znorm .nan
  | .inf s => laneOf ftz znorm (if s then .nan else .inf false)
  | .fin s m e =>
    if m = 0 then laneOf ftz znorm x
    else if s then laneOf ftz znorm .nan
    else
      let m' := if e % 2 = 0 then m else 2 * m
      let e' := if e % 2 = 0 then e else e - 1
      let r := isqrt 100 (m' * 4 ^ 64) 0
      adjacent ftz znorm false r (e' / 2 - 64) (decide (r * r = m' * 4 ^ 64)) (Config.sqrtUp (codeOf x))

/-- e^x: overflow and underflow are judged on the exact result. -/
def expLane (ftz znorm : Bool) (up : Bool) (x : Num) : LaneOut :=
  match x with
  | .nan => laneOf ftz znorm .nan
  | .inf s => laneOf ftz znorm (if s then .fin false 0 0 else .inf false)
  | .fin s m e =>
    if m = 0 then laneOf ftz znorm (.fin false 1 0)
    else if !magLt m e 1 7 then laneOf ftz znorm (if s then .fin false 0 0 else .inf false)
    else
      let v := (expFix x.sig e).toNat
      if magLt fpFp32.maxM fpFp32.maxE v (-512) then laneOf ftz znorm (.inf false)
      else if magLt v (-512) 1 (-149) then laneOf ftz znorm (.fin false 0 0)
      else adjacent ftz znorm false v (-512) false up

/-- ln x. -/
def logLane (ftz znorm : Bool) (up : Bool) (x : Num) : LaneOut :=
  match x with
  | .nan => laneOf ftz znorm .nan
  | .inf s => laneOf ftz znorm (if s then .nan else .inf false)
  | .fin s m e =>
    if m = 0 then laneOf ftz znorm (.inf true)
    else if s then laneOf ftz znorm .nan
    else
      let v := lnFix m e
      if m = pow2 (-e) ∧ e ≤ 0 then laneOf ftz znorm (.fin false 0 0)
      else adjacent ftz znorm (decide (v < 0)) v.natAbs (-512) false up

/-- 1 / √x. -/
def rsqrtLane (ftz znorm : Bool) (up : Bool) (x : Num) : LaneOut :=
  match x with
  | .nan => laneOf ftz znorm .nan
  | .inf s => laneOf ftz znorm (if s then .nan else .fin false 0 0)
  | .fin s m e =>
    if m = 0 then laneOf ftz znorm (.inf s)
    else if s then laneOf ftz znorm .nan
    else
      let m' := if e % 2 = 0 then m else 2 * m
      let e' := if e % 2 = 0 then e else e - 1
      let r := isqrt 130 (4 ^ 64 * 4 ^ 64 / m') 0
      adjacent ftz znorm false r (-(e' / 2) - 128) (decide (r * r * m' = 4 ^ 128)) up

/-- 1 / x. -/
def rcpLane (ftz znorm : Bool) (up : Bool) (x : Num) : LaneOut :=
  match x with
  | .nan => laneOf ftz znorm .nan
  | .inf s => laneOf ftz znorm (.fin s 0 0)
  | .fin s m e =>
    if m = 0 then laneOf ftz znorm (.inf s)
    else adjacent ftz znorm s (2 ^ 80 / m) (-e - 80) (decide (2 ^ 80 % m = 0)) up

/-- FLUSHED for a subnormal FP32 input under FTZ (spec/02 R72). -/
def flushIn (ftz : Bool) (x : W32) : W32 := if ftz && fpFp32.isSub x.toNat then fFlushed else 0

/-- vsf over the 32 lanes; `fn` is the function's number. -/
def vsf (c : CoreId) (fn : Nat) (vd va : Reg) (f : Bool → Bool → Bool → Num → LaneOut) (s : State) :
    Host.Outcome State Fault Refusal :=
  issue c 4 [] (fun k =>
    let out := (k.vr va.toNat).map fun x =>
      let r := f k.ftz k.znorm (Config.vsfUp fn x k.ctl.fmode) (fp32In k.ftz x)
      (r.1, r.2 ||| flushIn k.ftz x)
    .ok (s.updCore c fun k =>
      (k.setLanes vd.toNat (out.map (·.1))).flag (out.foldl (fun w o => w ||| o.2) 0))) s

def execExp (c : CoreId) (vd va : Reg) (s : State) : Host.Outcome State Fault Refusal := vsf c 0 vd va expLane s
def execLog (c : CoreId) (vd va : Reg) (s : State) : Host.Outcome State Fault Refusal := vsf c 1 vd va logLane s
def execRsqrt (c : CoreId) (vd va : Reg) (s : State) : Host.Outcome State Fault Refusal := vsf c 2 vd va rsqrtLane s
def execRcp (c : CoreId) (vd va : Reg) (s : State) : Host.Outcome State Fault Refusal := vsf c 3 vd va rcpLane s

end Sys2Proof.Machine
end

