-- ==== Sys2Proof/Machine/Vector.lean ====
section
/-! DEFINITION. Vector instructions (spec/05 R206 to R214). -/

namespace Sys2Proof.Machine

/-! ### Lane by lane -/

/-- A vector function of three operand lanes: vd, va, vb. -/
def lanes (c : CoreId) (vd va vb : Reg) (f : Core → W32 → W32 → W32 → LaneOut) (s : State) :
    Host.Outcome State Fault Refusal :=
  issue c 4 [] (fun k =>
    let out := (List.range 32).map fun l => f k (k.lane vd.toNat l) (k.lane va.toNat l) (k.lane vb.toNat l)
    .ok (s.updCore c fun k =>
      (k.setLanes vd.toNat (out.map (·.1))).flag (out.foldl (fun w o => w ||| o.2) 0))) s

/-- An integer function: no flag. -/
def intLanes (c : CoreId) (vd va vb : Reg) (f : W32 → W32 → W32) (s : State) : Host.Outcome State Fault Refusal :=
  lanes c vd va vb (fun _ _ a b => (f a b, 0)) s

/-- An FP32 function of va and vb: inputs flushed, one rounding (R206). -/
def fpLanes (c : CoreId) (vd va vb : Reg) (f : Num → Num → Num) (s : State) : Host.Outcome State Fault Refusal :=
  lanes c vd va vb (fun k _ a b =>
    let r := laneOf k.ftz k.znorm (f (fp32In k.ftz a) (fp32In k.ftz b))
    (r.1, r.2 ||| flushIn k.ftz a ||| flushIn k.ftz b)) s

/-- The order of R207: −0 below +0. -/
def numLt (a b : Num) : Bool := Num.lt a b || (a.isZero && b.isZero && a.neg? && !b.neg?)

def numMax (a b : Num) : Num := if a.isNan || b.isNan then .nan else if numLt a b then b else a
def numMin (a b : Num) : Num := if a.isNan || b.isNan then .nan else if numLt b a then b else a

def execFadd (c : CoreId) (vd va vb : Reg) (s : State) := fpLanes c vd va vb Num.add s
def execFsub (c : CoreId) (vd va vb : Reg) (s : State) := fpLanes c vd va vb (fun a b => Num.add a b.negate) s
def execFmul (c : CoreId) (vd va vb : Reg) (s : State) := fpLanes c vd va vb Num.mul s
def execFmax (c : CoreId) (vd va vb : Reg) (s : State) := fpLanes c vd va vb numMax s
def execFmin (c : CoreId) (vd va vb : Reg) (s : State) := fpLanes c vd va vb numMin s

/-- ffma: vd + va × vb with one rounding. -/
def execFfma (c : CoreId) (vd va vb : Reg) (s : State) : Host.Outcome State Fault Refusal :=
  lanes c vd va vb (fun k d a b =>
    let r := laneOf k.ftz k.znorm (Num.add (fp32In k.ftz d) (Num.mul (fp32In k.ftz a) (fp32In k.ftz b)))
    (r.1, r.2 ||| flushIn k.ftz d ||| flushIn k.ftz a ||| flushIn k.ftz b)) s

/-- fhmax: the largest of the 32 lanes in every lane; vb is ignored. -/
def execFhmax (c : CoreId) (vd va vb : Reg) (s : State) : Host.Outcome State Fault Refusal :=
  lanes c vd va vb (fun k _ a _ =>
    let m := ((k.vr va.toNat).map (fp32In k.ftz)).foldl numMax (.inf true)
    let r := laneOf k.ftz k.znorm m
    (r.1, r.2 ||| flushIn k.ftz a)) s

def execFcmplt (c : CoreId) (vd va vb : Reg) (s : State) : Host.Outcome State Fault Refusal :=
  lanes c vd va vb (fun k _ a b =>
    (if Num.lt (fp32In k.ftz a) (fp32In k.ftz b) then 0xFFFFFFFF else 0, flushIn k.ftz a ||| flushIn k.ftz b)) s

/-- −0 as +0 under ZNORM (spec/02 R75). -/
def znormLane (k : Core) (x : W32) : W32 := if k.znorm && x == 0x80000000 then 0 else x

def execFabs (c : CoreId) (vd va vb : Reg) (s : State) : Host.Outcome State Fault Refusal :=
  lanes c vd va vb (fun k _ a _ => (znormLane k (a &&& 0x7FFFFFFF), 0)) s
def execFneg (c : CoreId) (vd va vb : Reg) (s : State) : Host.Outcome State Fault Refusal :=
  lanes c vd va vb (fun k _ a _ => (znormLane k (a ^^^ 0x80000000), 0)) s
def execFsel (c : CoreId) (vd va vb : Reg) (s : State) : Host.Outcome State Fault Refusal :=
  lanes c vd va vb (fun _ d a b => (if b = 0 then d else a, 0)) s

def execIadd (c : CoreId) (vd va vb : Reg) (s : State) := intLanes c vd va vb (fun a b => a + b) s
def execIsub (c : CoreId) (vd va vb : Reg) (s : State) := intLanes c vd va vb (fun a b => a - b) s
def execImul (c : CoreId) (vd va vb : Reg) (s : State) := intLanes c vd va vb (fun a b => a * b) s
def execIand (c : CoreId) (vd va vb : Reg) (s : State) := intLanes c vd va vb (fun a b => a &&& b) s
def execIor (c : CoreId) (vd va vb : Reg) (s : State) := intLanes c vd va vb (fun a b => a ||| b) s
def execIxor (c : CoreId) (vd va vb : Reg) (s : State) := intLanes c vd va vb (fun a b => a ^^^ b) s
def execIsll (c : CoreId) (vd va vb : Reg) (s : State) := intLanes c vd va vb (fun a b => a <<< (b.toNat % 32)) s
def execIsra (c : CoreId) (vd va vb : Reg) (s : State) :=
  intLanes c vd va vb (fun a b => a.sshiftRight (b.toNat % 32)) s

def execCvtif (c : CoreId) (vd va vb : Reg) (s : State) : Host.Outcome State Fault Refusal :=
  lanes c vd va vb (fun k _ a _ => laneOf k.ftz k.znorm (.ofInt a.toInt 0)) s

/-- cvtfi saturates, and NaN gives 0; no flag but FLUSHED. -/
def execCvtfi (c : CoreId) (vd va vb : Reg) (s : State) : Host.Outcome State Fault Refusal :=
  lanes c vd va vb (fun k _ a _ =>
    (BitVec.ofNat 32 (roundInt 32 .rne 0 (fp32In k.ftz a)).code, flushIn k.ftz a)) s

/-! ### Loads, stores, moves (R209) -/

/-- The local offset of vld and vst. -/
def vecOff (a : W64) : Option Nat := if a.toNat % 128 = 0 ∧ a.toNat < storeSize then some a.toNat else none

def execVld (c : CoreId) (vd ra : Reg) (imm : BitVec 11) (s : State) : Host.Outcome State Fault Refusal :=
  issue c 4 [ra] (fun k =>
    match vecOff (k.gr ra + imm.signExtend 64 * 128) with
    | none => .fault s .access dNone
    | some a =>
      match k.readBar a 128 with
      | some cause => .stall s cause
      | none =>
        if !k.clean a 128 then .fault s .csumAtUse dNone
        else .ok (s.updCore c fun k =>
          k.setLanes vd.toNat ((wideCodes 4 32 (k.loadBytes a 128)).map (BitVec.ofNat 32)))) s

def execVst (c : CoreId) (vd ra : Reg) (imm : BitVec 11) (s : State) : Host.Outcome State Fault Refusal :=
  issue c 4 [ra] (fun k =>
    match vecOff (k.gr ra + imm.signExtend 64 * 128) with
    | none => .fault s .access dNone
    | some a =>
      (s.forWrite c a 128).andThen fun s =>
        .ok (s.updCore c fun k => k.storeBytes a ((k.vr vd.toNat).flatMap fun w => leBytes 4 w.toNat))) s

def execVbc (c : CoreId) (vd ra : Reg) (s : State) : Host.Outcome State Fault Refusal :=
  issue c 4 [ra] (fun k =>
    .ok (s.updCore c fun j => j.setLanes vd.toNat (List.replicate 32 ((k.gr ra).setWidth 32)))) s

def execVext (c : CoreId) (rd va : Reg) (imm : BitVec 11) (s : State) : Host.Outcome State Fault Refusal :=
  issue c 4 [rd] (fun k =>
    .ok (s.updCore c fun j => j.setG rd ((k.lane va.toNat (imm.toNat % 32)).setWidth 64))) s

/-! ### vlsum (R212) -/

def execVlsum (c : CoreId) (ab va : Reg) (cell : BitVec 7) (s : State) : Host.Outcome State Fault Refusal :=
  issue c 8 [] (fun k =>
    if badBank ab then .fault s .featureUnsupported dNone
    else
      let b := k.bank ab.toNat
      if b.otherKind false then .fault s .formatMismatch (dBank ab.toNat)
      else if !b.fixed || b.tight then .fault s .descFormat (dBank ab.toNat)
      else
        let xs := k.vr va.toNat
        .ok (s.updCore c fun j =>
          (j.setBank ab.toNat (b.longSum cell.toNat (xs.map (fp32In k.ftz)))).flag
            (xs.foldl (fun w x => w ||| flushIn k.ftz x) 0))) s

/-! ### vupd (R213, R214) -/

/-- FP32 operations that carry the flags of what came before. -/
structure Fp where
  val : Num
  fl : W32

def Fp.of (r : LaneOut) (fl : W32) : Fp := ⟨fp32In false r.1, r.2 ||| fl⟩

/-- One step: round to nearest even, FTZ and ZNORM (R206). -/
def Fp.step (k : Core) (x : Num) (fl : W32) : Fp := Fp.of (laneOf k.ftz k.znorm x) fl

def Fp.input (k : Core) (x : W32) : Fp := ⟨fp32In k.ftz x, flushIn k.ftz x⟩

def fpMul (k : Core) (a b : Fp) : Fp := Fp.step k (Num.mul a.val b.val) (a.fl ||| b.fl)
def fpSub (k : Core) (a b : Fp) : Fp := Fp.step k (Num.add a.val b.val.negate) (a.fl ||| b.fl)
def fpAdd (k : Core) (a b : Fp) : Fp := Fp.step k (Num.add a.val b.val) (a.fl ||| b.fl)
def fpFma (k : Core) (a b d : Fp) : Fp := Fp.step k (Num.add (Num.mul a.val b.val) d.val) (a.fl ||| b.fl ||| d.fl)
def fpDiv (k : Core) (a b : Fp) : Fp := Fp.of (divLane k.ftz k.znorm a.val b.val) (a.fl ||| b.fl)
def fpSqrt (k : Core) (a : Fp) : Fp := Fp.of (sqrtLane k.ftz k.znorm a.val) a.fl

/-- The lanes that one weight's update writes, and its flags. -/
structure Upd where
  w : W32
  m : W32
  v : W32
  fl : W32

def fpCode (x : Fp) : W32 := codeOf x.val

/-- One lane of vupd. `p` gives the hyperparameters by number, `r` is the random word, `f` the weight's format.
The weight's rounding sets OVF, UNDER and FLUSHED only (R214). -/
def updLane (k : Core) (momentum : Bool) (f : FloatFmt) (p : Nat → Fp) (r : W32) (w0 m0 v0 g0 : W32) : Upd :=
  let w := Fp.input k w0
  let m := Fp.input k m0
  let v := Fp.input k v0
  let g := Fp.input k g0
  let one : Fp := ⟨.fin false 1 0, 0⟩
  let m2 := if momentum then fpFma k (p 0) m g else fpFma k (p 0) m (fpMul k (fpSub k one (p 0)) g)
  let v2 := fpFma k (p 1) v (fpMul k (fpSub k one (p 1)) (fpMul k g g))
  let st :=
    if momentum then fpFma k (p 4) w m2
    else fpFma k (p 4) w (fpDiv k (fpMul k m2 (p 5)) (fpAdd k (fpSqrt k (fpMul k v2 (p 6))) (p 3)))
  let x := Num.add w.val (Num.mul (p 2).val st.val).negate
  let e := f.round .sr r k.ftz k.znorm x
  { w := codeOf e.val, m := fpCode m2, v := if momentum then v0 else fpCode v2
    fl := (e.flags &&& (fOvf ||| fUnder ||| fFlushed)) ||| m2.fl ||| st.fl ||| w.fl ||| (p 2).fl ||| if momentum then 0 else v2.fl }

/-- The index of an element (R213, spec/02 R67). -/
def updIndex (tw : Desc) (col row : W16) (l : Nat) : W64 :=
  tw.ebase + row.setWidth 64 * tw.rstride.setWidth 64 + col.setWidth 64 + BitVec.ofNat 64 l

def vupdRun (c : CoreId) (k : Core) (vd va : Nat) (tw : Desc) (f : FloatFmt) (momentum : Bool) (col row : W16) (s : State) :
    Res :=
  let p (i : Nat) : Fp := Fp.input k (k.lane va i)
  let live (l : Nat) : Bool := decide (col.toNat + l < tw.cols.toNat)
  let one (l : Nat) : Upd :=
    if live l then
      updLane k momentum f p (srBits k.srkey tw.tensor tw.step (updIndex tw col row l))
        (k.lane vd l) (k.lane (vd + 1) l) (k.lane (vd + 2) l) (k.lane (vd + 3) l)
    else ⟨k.lane vd l, k.lane (vd + 1) l, k.lane (vd + 2) l, 0⟩
  let out := (List.range 32).map one
  .ok (s.updCore c fun k =>
    (k.setLanes vd (out.map (·.w) ++ out.map (·.m) ++ out.map (·.v))).flag (out.foldl (fun w o => w ||| o.fl) 0))

def execVupd (c : CoreId) (vd va tw : Reg) (momentum : Bool) (col row : W16) (s : State) :
    Host.Outcome State Fault Refusal :=
  issue c 8 [] (fun k =>
    if badT tw || vd.toNat % 4 != 0 then .fault s .featureUnsupported dNone
    else
      let d := k.desc tw
      if d.fmt = 0 ∨ d.fmt = 1 ∨ d.fmt = 2 then
        vupdRun c k vd.toNat va.toNat d ((floatFmt d.fmt).getD fpFp32) momentum col row s
      else .fault s .formatMismatch (dDesc tw)) s

/-! ### vcvt, vunpk (R210, R211) -/

def vcvtRun (c : CoreId) (k : Core) (td : Desc) (at_ va : Nat) (rm : BitVec 2) (hslot : Bool) (bound : W16) (rstep : Bool)
    (s : State) : Res :=
  if td.survey && !s.surveyProceeds c td then .ok s
  else if s.convBar c [] then .stall s 7
  else
    let n := td.rows.toNat * td.cols.toNat
    let raw := ((List.range (n / 32)).flatMap fun i => k.vr (va + i)).take n
    let src := raw.map (fp32In k.ftz)
    let lp := isLong td.fmt
    let s := s.updCore c fun k => k.newEpoch []
    let o : Rounding := { mode := k.rmode rm, ftz := k.ftz, znorm := k.znorm, datum := sInt bound }
    convFinish c k.pc k.seq td at_ o hslot src bound (if lp then 0x8000 else bound) rstep
      (raw.any fun x => flushIn k.ftz x != 0) s

def execVcvt (c : CoreId) (td va : Reg) (rmsel : BitVec 2) (hslot : Bool) (bound : W16) (rstep : Bool) (s : State) :
    Host.Outcome State Fault Refusal :=
  issue c 8 [] (fun k =>
    if badT td then .fault s .featureUnsupported dNone
    else
      let d := k.desc td
      let n := d.rows.toNat * d.cols.toNat
      match capacity d with
      | none => .fault s .formatMismatch (dDesc td)
      | some cap =>
        if n % 32 ≠ 0 ∨ 32 * (32 - va.toNat) < n ∨ badOutput d then .fault s .descFormat (dDesc td)
        else match ownTile c d.addr cap with
          | none => .fault s .access (dDesc td)
          | some a =>
            (s.forWrite c a cap).andThen fun s => vcvtRun c k d a va.toNat rmsel hslot bound rstep s) s

def execVunpk (c : CoreId) (vd ts : Reg) (s : State) : Host.Outcome State Fault Refusal :=
  issue c 4 [] (fun k =>
    if badT ts then .fault s .featureUnsupported dNone
    else
      let d := k.desc ts
      let n := d.rows.toNat * d.cols.toNat
      if (elemBits d.fmt).isNone then .fault s .formatMismatch (dDesc ts)
      else if 32 * (32 - vd.toNat) < n then .fault s .descFormat (dDesc ts)
      else match ownTile c d.addr 64 with
        | none => .fault s .access (dDesc ts)
        | some a =>
          match k.readBar a (k.tileSpan a) with
          | some cause => .stall s cause
          | none =>
            match k.useTile a (some d.fmt) with
            | .error e => .fault s e (dDesc ts)
            | .ok t =>
              if t.cart.rows ≠ d.rows ∨ t.cart.cols ≠ d.cols then .fault s .formatMismatch (dDesc ts)
              else match s.consumeTile c t.cart with
                | .full => .stall s 4
                | .access => .fault s .access (dDesc ts)
                | .ok s =>
                  let x := decodeTile k.ftz t.cart t.payload
                  let out := x.1.map (laneOf k.ftz k.znorm)
                  let pad := List.replicate ((n + 31) / 32 * 32 - n) (0 : W32)
                  .ok (s.updCore c fun k =>
                    ((k.touchTag a t.cart.plen.toNat).setLanes vd.toNat (out.map (·.1) ++ pad)).flag
                      (out.foldl (fun w o => w ||| o.2) (if x.2 then fFlushed else 0)))) s

end Sys2Proof.Machine
end

