-- ==== Sys2Proof/Machine/Reduce.lean ====
section
/-! DEFINITION. Tables, tiles and sums of the reduction engines (spec/09 R356 to R370, spec/10 R384 to R389). -/

namespace Sys2Proof.Machine

/-! ### Tables (R356 to R358) -/

def opSum : Nat := 0
def opMax : Nat := 1
def opGather : Nat := 2
def opRing : Nat := 3
def polWait : Nat := 0
def polFold : Nat := 1
def polDrop : Nat := 2

/-- Reads a collective descriptor (Table 9-5). -/
def CDesc.parse (bs : List Byte) : CDesc :=
  let mode := field bs 1 1
  { op := field bs 0 1 % 16, scope := field bs 0 1 / 16 % 4, policy := mode % 4, agree := mode.testBit 2
    lp32 := mode.testBit 3, replay := mode.testBit 4, tiles := field bs 2 2, lcnt := field bs 4 2
    rdatum := BitVec.ofNat 16 (field bs 6 2), gbase := field bs 8 2, gcount := field bs 0xA 2
    deadline := field bs 0xC 4, work := field bs 0x10 8, out := field bs 0x18 8, carry := field bs 0x20 8
    carrylen := field bs 0x28 4, wpout := BitVec.ofNat 16 (field bs 0x2C 2), wpfree := BitVec.ofNat 16 (field bs 0x2E 2)
    tensor := BitVec.ofNat 32 (field bs 0x30 4), ofmt := field bs 0x34 1 % 16 }

/-- A group-table entry (Table 9-7). -/
structure Grp where
  parent : BitVec 15
  root : Bool
  nchild : Nat
  rank : Nat
  members : Nat
  kids : List (BitVec 15)
  deriving DecidableEq, Repr

def Grp.parse (bs : List Byte) : Grp :=
  let n := field bs 2 1
  { parent := BitVec.ofNat 15 (field bs 0 2), root := (field bs 0 2).testBit 15, nchild := n, rank := field bs 4 2
    members := field bs 8 4
    kids := (List.range (if n < 8 then n else 8)).map fun i => BitVec.ofNat 15 (field bs (0x10 + 2 * i) 2) }

/-- Bytes of a table in device memory; what cannot be read is zero. -/
def State.tableBytes (s : State) (a n : Nat) : List Byte :=
  match s.unitRead (s.translate a) n with
  | .bytes bs => bs
  | _ => List.replicate n 0

def State.grp (s : State) (part g : Nat) : Grp :=
  Grp.parse (s.tableBytes ((s.part part).gtab.toNat + 32 * g) 32)

/-- The groups of an instance. -/
def CDesc.groups (d : CDesc) : List Nat :=
  if d.op = opRing then [d.gbase]
  else (List.range (if d.tiles < d.gcount then d.tiles else d.gcount)).map (d.gbase + ·)

/-- The group of a tile (R362). -/
def CDesc.groupOf (d : CDesc) (i : Nat) : Nat := if d.op = opRing then d.gbase else d.gbase + i % d.gcount

/-- The local slots of an instance: LCNT, or T for a ring. -/
def CDesc.slots (d : CDesc) : Nat := if d.op = opRing then d.tiles else d.lcnt

/-- The lane width and format. -/
def CDesc.laneBits (d : CDesc) : Nat := if d.lp32 then 32 else 64
def CDesc.laneFmt (d : CDesc) : BitVec 4 := if d.lp32 then 13 else 12

/-- R357, with the field ranges of Table 9-5 and the feature REPLAY (spec/12 R453). -/
def State.badDesc (s : State) (part : Nat) (d : CDesc) : Bool :=
  decide (3 < d.op) || decide (1 < d.scope) || decide (2 < d.policy) || (d.agree && d.policy == polFold)
  || (d.policy != polWait && d.deadline == 0) || (d.op == opSum && !(isLong (BitVec.ofNat 4 d.ofmt)))
  || d.tiles == 0 || d.gcount == 0 || decide (4096 < d.gbase + d.gcount) || (d.replay && !s.feature featReplay)
  || d.groups.any fun g => decide (8 < (s.grp part g).nchild)

/-! ### Slots in stacked memory -/

def CDesc.slotAt (d : CDesc) (j : Nat) : Nat := d.work + 4096 * j
/-- The slot of a local contribution: the next one, or for a ring that of its tile in the own block. -/
def CDesc.localSlot (d : CDesc) (used idx : Nat) : Nat := d.slotAt (if d.op = opRing then idx else used)
def CDesc.carryAt (d : CDesc) (j : Nat) : Nat := d.work + 4096 * (d.lcnt + d.tiles + j)
def CDesc.outAt (d : CDesc) (i : Nat) : Nat := d.out + 4096 * i

/-- Writes a tile to a slot: the payload, then the cartouche; none when the table refuses it (spec/07 R265, R268). -/
def State.slotWrite (s : State) (part a : Nat) (bytes : List Byte) : Option State :=
  let a := s.translate a
  if decide (a + 4096 ≤ memTop) && s.slotLocal a && s.permits part true a 4096 && s.permits part true (s.cartLocal a) 64 then
    let plen := (Cart.parse bytes).plen.toNat
    some ((s.memWrite a ((bytes.drop 64).take plen)).memWrite (s.cartLocal a) (bytes.take 64))
  else none

/-- The tile in a slot. -/
def State.slotRead (s : State) (a : Nat) : List Byte :=
  let a := s.translate a
  let cart := s.mem.bytes.readBytes (s.cartLocal a) 64
  tileBytes cart (s.mem.bytes.readBytes a (Cart.parse cart).plen.toNat)

/-! ### Tiles and lanes (R360, R363, R370) -/

def CTile.cart (t : CTile) : Cart := Cart.parse t.bytes
def CTile.payload (t : CTile) : List Byte := (t.bytes.drop 64).take t.cart.plen.toNat
def CTile.shape (t : CTile) : Nat × Nat := (t.cart.rows.toNat, t.cart.cols.toNat)

/-- The values of a tile's elements. -/
def CTile.vals (t : CTile) : List Num := (decodeTile false t.cart t.payload).1

/-- A lane: markers and integer. -/
structure Lane where
  nan : Bool
  pinf : Bool
  ninf : Bool
  n : Int
  deriving DecidableEq, Repr

def laneZero : Lane := ⟨false, false, false, 0⟩

/-- The lane of a code of `w` bits (spec/03 Table 3-6). -/
def laneOfCode (w code : Nat) : Lane :=
  if code = 2 ^ (w - 1) then { laneZero with nan := true }
  else if code = 2 ^ (w - 1) + 1 then { laneZero with ninf := true }
  else if code = 2 ^ (w - 1) + 2 then { laneZero with pinf := true }
  else { laneZero with n := (BitVec.ofNat w code).toInt }

/-- An exact addition of lanes. -/
def Lane.add (a b : Lane) : Lane := ⟨a.nan || b.nan, a.pinf || b.pinf, a.ninf || b.ninf, a.n + b.n⟩

/-- The value of a lane at datum `d`. -/
def Lane.val (d : Int) (a : Lane) : Num :=
  if a.nan || (a.pinf && a.ninf) then .nan
  else if a.pinf then .inf false
  else if a.ninf then .inf true
  else .ofInt a.n d

/-- Whether a finite lane is outside the finite range of Table 3-6. -/
def Lane.beyond (w : Nat) (a : Lane) : Bool :=
  !a.nan && !a.pinf && !a.ninf && (decide (2 ^ (w - 1) - 1 < a.n) || decide (a.n < -(2 ^ (w - 1)) + 3))

/-- The lanes of a tile at datum `d` (Table 3-7), and whether a finite element lay beyond the window (R126). -/
def CTile.lanes (t : CTile) (w : Nat) (d : Int) : List Lane × Bool :=
  let es := t.vals.map (roundLong w d)
  (es.map fun e => laneOfCode w e.code, es.any fun e => e.flags &&& fOvf != 0)

/-- The exact sum of tiles in lanes, and whether it met a value beyond the window (R363, R365). -/
def laneSum (w : Nat) (d : Int) (n : Nat) (ts : List CTile) : List Lane × Bool :=
  let ls := ts.map fun t => t.lanes w d
  let sum := ls.foldl (fun acc l => List.zipWith Lane.add acc l.1) (List.replicate n laneZero)
  (sum, ls.any (·.2) || sum.any (Lane.beyond w))

/-- A tile that the engine of context `ctx` makes from values (R370), and whether a finite value lay beyond its format's window
(R126). -/
def State.collTile (s : State) (part ctx : Nat) (d : CDesc) (step : W32) (i : Nat) (fmt : BitVec 4) (rows cols : Nat)
    (datum : Int) (xs : List Num) : List Byte × Bool :=
  let r := writeElems fmt 0 ⟨.rne, false, false, datum⟩ (xs.map fun x => (x, 0))
  let td : Desc := { fmt := fmt, rows := BitVec.ofNat 16 rows, cols := BitVec.ofNat 16 cols, tensor := d.tensor, step := step
                     tcoord := BitVec.ofNat 32 i, version := Config.collVersion ctx i, ebase := Config.collEbase ctx i
                     rstride := Config.collRstride ctx i }
  let c := convCart td r.2 r.1 ((s.coll part ctx).epoch + 1) (BitVec.ofNat 16 (0xFF00 + ctx)) s.modId (BitVec.ofInt 16 datum)
  (tileBytes c.bytes r.1, r.2.any fun e => e.flags &&& fOvf != 0)

/-- The zero tile of a GATHER index that no module contributes to; its VERSION is 0 (spec/10 R387). -/
def State.gatherZero (s : State) (part ctx : Nat) (d : CDesc) (step : W32) (i : Nat) : List Byte :=
  let payload := List.replicate ((plenOf Config.gatherFmt 1 1 0).getD 0) (0 : Byte)
  let td : Desc := { fmt := Config.gatherFmt, rows := 1, cols := 1, tensor := d.tensor, step := step
                     tcoord := BitVec.ofNat 32 i }
  let c := convCart td [] payload ((s.coll part ctx).epoch + 1) (BitVec.ofNat 16 (0xFF00 + ctx)) s.modId 0
  tileBytes c.bytes payload

/-! ### Datums (R364) -/

/-- The reduction datum of a group, once it is known. -/
def Coll.datumOf (k : Coll) (d : CDesc) (g : Nat) : Option W16 :=
  match k.datums.find? fun e => e.1 == g with
  | some e => some e.2
  | none => if d.agree || k.repeated.contains g then none else some d.rdatum

/-- The agreed datum: EMAX + ceil(log2 N) − w + 3, clamped; after a repeat at least the old one plus 1 (R365). -/
def agreedDatum (w : Nat) (emax : W16) (n : Nat) (floor : Option W16) : W16 :=
  let d := if emax = 0x8000 then 0 else clampDatum (sInt emax + clog2 n - (w : Int) + 3)
  match floor with
  | some f => if sInt d < sInt f + 1 then clampDatum (sInt f + 1) else d
  | none => d

/-! ### What a tile index has received -/

/-- The contributions to tile `i`: local ones, and partials that carry any. -/
def Coll.inputs (k : Coll) (i : Nat) : List CTile :=
  (k.locals.filter (·.idx == i)) ++ k.partials.filter fun t => t.idx == i && t.count != 0

/-- The local contributions as the slots of WORK hold them when the engine takes them into a sum (R360). -/
def State.retained (s : State) (d : CDesc) (k : Coll) : List CTile :=
  k.locals.zipIdx.map fun t => { t.1 with bytes := s.slotRead (d.localSlot t.2 t.1.idx) }

/-- Whether a tile's shape is that of every other contribution to its index (R360). -/
def Coll.shapeFits (k : Coll) (t : CTile) : Bool := (k.inputs t.idx).all fun u => u.shape == t.shape

/-- The format that an operation requires of a contribution or of a partial. -/
def CDesc.needs (d : CDesc) (part : Bool) : Option (BitVec 4) :=
  if d.op = opSum then some (if part then d.laneFmt else fmtLp128)
  else if d.op = opMax then some fmtFp32
  else none

/-- The check of a tile as the engine takes it in: R61, its index, its shape. -/
def Coll.refuses (k : Coll) (d : CDesc) (partial_ : Bool) (t : CTile) : Option FCode :=
  match useCheck (t.bytes.take 64) (d.needs partial_) (fun n => crc32c ((t.bytes.drop 64).take n)) with
  | some e => some e
  | none => if d.tiles ≤ t.idx ∨ !k.shapeFits t then some .descFormat else none

/-- The check of the contributions to tile `i` as they are taken into its sum: a slot of WORK may have changed since (R360). -/
def State.sumFault (s : State) (part ctx : Nat) (d : CDesc) (i : Nat) : Option FCode :=
  let k := s.coll part ctx
  ((s.retained d k).filter (·.idx == i)).findSome? fun t => k.refuses d false t

/-- The tile that the engine forms for index `i` at datum `dr`: its bytes, the contributions in it, and whether a value
lay beyond the window. `root` asks for the result, otherwise for the partial. -/
def State.formTile (s : State) (part ctx : Nat) (d : CDesc) (root : Bool) (i : Nat) (dr : Int) : List Byte × Nat × Bool :=
  let k := s.coll part ctx
  let ts := { k with locals := s.retained d k }.inputs i
  let n := ts.foldl (fun a t => a + t.count) 0
  let sh := match ts with | t :: _ => t.shape | [] => (1, 1)
  if d.op = opSum then
    let w := d.laneBits
    let r := laneSum w dr (sh.1 * sh.2) ts
    let fmt := if root then BitVec.ofNat 4 d.ofmt else d.laneFmt
    let o := s.collTile part ctx d k.step i fmt sh.1 sh.2 dr (r.1.map (Lane.val dr))
    (o.1, n, r.2 || o.2)
  else if d.op = opMax then
    let xs := match ts.map CTile.vals with
      | [] => [Num.fin false 0 0]
      | x :: r => r.foldl (fun a b => List.zipWith numMax a b) x
    ((s.collTile part ctx d k.step i fmtFp32 sh.1 sh.2 0 xs).1, n, false)
  else
    match ts[Config.gatherPick ts.length % (if ts.length = 0 then 1 else ts.length)]? with
    | some t => (t.bytes, n, false)
    | none => (s.gatherZero part ctx d k.step i, n, false)

/-! ### Packets (Table 9-9) -/

def ctxId (ctx : Nat) : W16 := BitVec.ofNat 16 (0xFF00 + ctx % 256)

/-- A collective packet; bytes 0x2C context, 0x2D attempt, 0x2E tile index or EMAX, 0x30 step, 0x34 count, or the group
in packets of an agreement (log 33). -/
def State.collPacket (s : State) (part ctx : Nat) (typ : PType) (m : BitVec 15) (step : W32) (i count : Nat) (arg : W16) :
    Packet :=
  { typ := typ, src := 0xFFFF, dst := ctxId ctx, edge := 4, dlocal := false, dmod := m, smod := s.modId
    msgid := BitVec.ofNat 32 (65536 * ctx + i), arg := arg.setWidth 32
    ext := extOf (ctx + 2 ^ 8 * (s.part part).attempt.toNat + 2 ^ 16 * i + 2 ^ 32 * step.toNat + 2 ^ 64 * count) }

/-- A partial, result or ring tile with its message. -/
def State.sendTileTo (s : State) (part ctx : Nat) (typ : PType) (m : BitVec 15) (step : W32) (i count : Nat) (arg : W16)
    (bytes : List Byte) : State :=
  let h := { s.collPacket part ctx typ m step i count arg with
    len := BitVec.ofNat 32 bytes.length, pencil := (Cart.parse bytes).pencil }
  s.sendAll (h :: segments { h with typ := .mdata } bytes.length (bytes.length / 256 + 1) 0 bytes)

def ctxOf (p : Packet) : Nat := extField p 0x2C 1
def attemptOf (p : Packet) : Nat := extField p 0x2D 1
def idxOf (p : Packet) : Nat := extField p 0x2E 2
def stepOf (p : Packet) : W32 := BitVec.ofNat 32 (extField p 0x30 4)
def collCount (p : Packet) : Nat := extField p 0x34 4
def datumOfPacket (p : Packet) : W16 := p.arg.setWidth 16

/-- The message packets that belong to a tile's header packet leave the mesh with it. -/
def State.dropMessage (s : State) (p : Packet) : State :=
  { s with net := s.net.filter fun q => !(q.typ == .mdata && q.smod == p.smod && q.dst == p.dst && q.msgid == p.msgid) }

/-! ### Foreign inputs of a context (R370; spec/08 R312) -/

/-- Consumption of a tile by a context: only a pencilled one counts, and its producer is tested (spec/08 R544). -/
def State.consumeFor (s : State) (part ctx : Nat) (t : Cart) : Consume :=
  if !t.pencil then .ok s
  else if !s.inPlan part t.module then .access
  else if t.module == s.modId && !((s.part part).hasCore t.core.toNat || decide (0xFF00 ≤ t.core.toNat)) then .access
  else
    let k := s.coll part ctx
    match foreignAdd k.foreign k.epoch t.module t.core t.epoch with
    | none => .full
    | some (tab, q) =>
      let s := s.updColl part ctx fun k => { k with foreign := tab }
      .ok (if q then s.send { s.inkQuery (ctxId ctx) t.module t.core t.epoch with msgid := ctxTag part } else s)

/-! ### Gather records (spec/10 R384 to R389) -/

/-- The gather record of a context: its address and CAP; none when no record is kept. -/
def State.gatherEntry (s : State) (part ctx : Nat) : Option (Nat × Nat) :=
  let g := (s.part part).grec.toNat
  if g = 0 then none
  else
    let bs := s.tableBytes (g + 16 * ctx) 16
    if field bs 0 8 = 0 then none else some (field bs 0 8, field bs 8 4)

/-- R385 at the opening of a GATHER instance. -/
def State.badRecord (s : State) (part ctx : Nat) (d : CDesc) : Option FCode :=
  if d.op ≠ opGather then none
  else match s.gatherEntry part ctx with
  | none => none
  | some (a, cap) => if a % 64 ≠ 0 then some .descFormat else if cap < d.tiles then some .descBounds else none

/-- The instance writes no tile, and the fault is raised. -/
def State.gatherFail (s : State) (part ctx : Nat) (code : FCode) : State :=
  (s.updColl part ctx fun k => { k with failed := true }).raiseJob part none code code.cls

/-- SHARD_CHANGED, with context, tile index, the recorded VERSION and the one found; the record's layout of them is a
free value (log 83). -/
def State.shardChanged (s : State) (part ctx tile : Nat) (recorded found : W32) : State :=
  (s.updColl part ctx fun k => { k with failed := true }).raiseJob part none .shardChanged FCode.shardChanged.cls 0
    (some (Config.shardDetail ctx tile recorded found))

/-- Decides at the first tile whether the gather records or compares. The record is read and written under R and W of
the partition's table (R389). -/
def State.gatherBegin (s : State) (part ctx : Nat) (d : CDesc) (a : Nat) : State :=
  let k := s.coll part ctx
  let n := 0x40 + 4 * d.tiles
  if !s.accessOk part false (s.translate a) n then s.gatherFail part ctx .access
  else
  let bs := s.tableBytes a 12
  let same := field bs 9 1 == 1 && field bs 0 4 == d.tensor.toNat && field bs 4 4 == k.step.toNat
    && field bs 8 1 == (s.part part).attempt.toNat
  if !same && !s.accessOk part true (s.translate a) n then s.gatherFail part ctx .access
  else if !same then
    (s.unitWrite (s.translate (a + 9)) [0]).updColl part ctx fun k => { k with recording := some true }
  else
    let s := s.updColl part ctx fun k => { k with recording := some false }
    if field bs 0xA 2 ≠ d.tiles then s.shardChanged part ctx 0xFFFF 0 0 else s

/-- Records or compares the VERSION of tile `i` before it is written. -/
def State.gatherTile (s : State) (part ctx : Nat) (d : CDesc) (i : Nat) (ver : W32) : State :=
  if d.op ≠ opGather ∨ (s.coll part ctx).failed then s
  else match s.gatherEntry part ctx with
  | none => s
  | some (a, _) =>
    let s := if (s.coll part ctx).recording.isNone then s.gatherBegin part ctx d a else s
    match (s.coll part ctx).recording with
    | some true => s.unitWrite (s.translate (a + 0x40 + 4 * i)) (leBytes 4 ver.toNat)
    | some false =>
      let old := field (s.tableBytes (a + 0x40 + 4 * i) 4) 0 4
      if (s.coll part ctx).failed ∨ old = ver.toNat then s else s.shardChanged part ctx i (BitVec.ofNat 32 old) ver
    | none => s

/-- After the last tile of a first gather: TENSOR, STEP, ATTEMPT and TILES, then STATE RECORDED. -/
def State.gatherEnd (s : State) (part ctx : Nat) (d : CDesc) : State :=
  match (s.coll part ctx).recording, s.gatherEntry part ctx with
  | some true, some (a, _) =>
    let k := s.coll part ctx
    let a := s.translate a
    let s := s.unitWrite a (leBytes 4 d.tensor.toNat ++ leBytes 4 k.step.toNat ++ [(s.part part).attempt])
    (s.unitWrite (a + 0xA) (leBytes 2 d.tiles)).unitWrite (a + 9) [1]
  | _, _ => s

end Sys2Proof.Machine
end

