-- ==== Sys2Proof/Machine/Collective.lean ====
section
/-! DEFINITION. Collective instances: contributions, partials, results, agreement, repeats, stragglers, the ring pass
(spec/09 R359 to R374). -/

namespace Sys2Proof.Machine

/-- A fault of a reduction engine: an event of its class, and the end of the step. -/
def State.collFault (s : State) (part : Nat) (code : FCode) : State := s.raiseJob part none code code.cls

/-- Whether the engine of a context works. -/
def State.engineOn (s : State) (part ctx : Nat) : Bool :=
  !s.rst.inReset && decide (part < 16) && decide (ctx < 256) && (s.part part).job.isSome
  && !s.svr.closed.contains (engineOf ctx)

/-- An arrival of the engine at a local waypoint. -/
def State.collArrive (s : State) (part : Nat) (wp : W16) : State :=
  if s.wpOk part wp.toNat then s.send (s.arrivalPacket 0xFFFF wp false 0 none) else s.collFault part .access

/-! ### Opening (R356, R357, R361, R368, R369, R372) -/

/-- What an opening comes to. -/
inductive Opening where
  | ok (s : State)
  | wait
  | fault (c : FCode)
  | poison (page : Nat)

/-- The open instances of the engine that serves a context. -/
def State.openCount (s : State) (ctx : Nat) : Nat :=
  (s.fab.colls.filter fun e => e.2.opn && engineOf (e.1 % 256) == engineOf ctx).length

/-- The carry log's entries for context `ctx` and step `step` (Table 9-10). -/
def State.logged (s : State) (ctx : Nat) (d : CDesc) (step : Nat) : List CListed :=
  if d.carry = 0 then []
  else
    (List.range (field (s.tableBytes d.carry 4) 0 4)).filterMap fun k =>
      let e := s.tableBytes (d.carry + 64 + 32 * k) 32
      if field e 0xA 2 = ctx ∧ field e 0 4 = step then
        some ⟨BitVec.ofNat 32 step, field e 4 2, BitVec.ofNat 15 (field e 6 2), BitVec.ofNat 32 (field e 0xC 4), field e 0x18 4⟩
      else none

/-- The entries that a replay reads (R369). -/
def State.listedFor (s : State) (ctx : Nat) (d : CDesc) (step : W32) : List CListed :=
  if d.replay then s.logged ctx d step.toNat else []

/-- The carried partials that memory holds for the instance of step `step`: those that the log names for the step before, in the
carry slots in the log's order. A slot that does not hold its entry's partial gives none (R367, spec/11 R423; log 106). -/
def State.storedCarries (s : State) (ctx : Nat) (d : CDesc) (step : W32) : List CTile :=
  (s.logged ctx d (step.toNat - 1)).zipIdx.filterMap fun e =>
    let t : CTile := { step := e.1.step, idx := e.1.tile, src := e.1.src, count := e.1.count, late := true
                       bytes := s.slotRead (d.carryAt e.2) }
    if t.cart.pcrc = e.1.pcrc ∧ crc32c t.payload = e.1.pcrc then some t else none

/-- Opens the instance of step `step`: the descriptor is read and checked, and the carried partials enter it, from memory when
the engine opens its first instance of the job or of the attempt. -/
def State.openColl (s : State) (part ctx : Nat) (step : W32) : Opening :=
  if 128 ≤ s.openCount ctx then .wait
  else match s.unitRead (s.translate ((s.part part).ctab.toNat + 64 * ctx)) 64 with
  | .poison g => .poison g
  | .fault e => .fault e
  | .bytes bs =>
    let d := CDesc.parse bs
    if field bs 0x3C 4 ≠ (crc32c (bs.take 60)).toNat ∨ s.badDesc part d then .fault .descFormat
    else match s.badRecord part ctx d with
    | some e => .fault e
    | none =>
      let listed := s.listedFor ctx d step
      let stored := s.storedCarries ctx d step
      .ok (s.updColl part ctx fun k => { k with
        opn := true, step := step, desc := some d, locals := [], datums := [], floors := []
        agrees := k.agrees.filter fun a => decide (step.toNat ≤ a.step.toNat)
        agreedSent := [], repeated := [], opened := s.tick, expired := false, fenced := false, formed := [], written := []
        unwritten := [], delivered := false, fresh := false
        recording := none, failed := false, listed := listed, round := 0, ownSent := false, fwd := []
        partials := if k.fresh then stored else k.carries.filter fun t => t.step.toNat < step.toNat
        carries := k.carries.filter fun t => step.toNat ≤ t.step.toNat })

/-! ### Agreement (R364, R365) -/

/-- The larger of two bounds, 0x8000 being none. -/
def largerBound (a b : W16) : W16 := if sInt a < sInt b then b else a

/-- The agreement of group `g`, when this engine can make it: its EMAX and count. -/
def State.agreementOf (s : State) (part ctx : Nat) (d : CDesc) (g : Nat) : Option (W16 × Nat) :=
  let k := s.coll part ctx
  let kids := (s.grp part g).kids
  let got := k.agrees.filter fun a => a.group == g && a.step == k.step
  if k.agreedSent.contains g || (!d.agree && !k.repeated.contains g) || decide (k.locals.length < d.lcnt)
      || !kids.all (fun m => got.any fun a => a.src == m) then none
  else
    some (got.foldl (fun e a => largerBound e a.emax)
        ((k.locals.map fun t => t.cart.exphi).foldl largerBound 0x8000),
      got.foldl (fun n a => n + a.n) (k.locals.foldl (fun n t => n + t.count) 0))

/-- Sets a group's datum and sends it to the children. -/
def State.setDatum (s : State) (part ctx g : Nat) (dr : W16) : State :=
  let step := (s.coll part ctx).step
  let s := s.updColl part ctx fun k => { k with datums := k.datums.filter (fun e => e.1 != g) ++ [(g, dr)] }
  s.sendAll ((s.grp part g).kids.map fun m => s.collPacket part ctx .cagd m step 0 g dr)

/-- Sends the agreements that this engine can make now; the root fixes the datum. -/
def State.agreeGroup (d : CDesc) (part ctx : Nat) (s : State) (g : Nat) : State :=
  match s.agreementOf part ctx d g with
  | none => s
  | some (emax, n) =>
    let k := s.coll part ctx
    let s := s.updColl part ctx fun k => { k with agreedSent := k.agreedSent ++ [g] }
    let e := s.grp part g
    if e.root then
      let old := (k.floors.find? fun f => f.1 == g).map (·.2)
      s.setDatum part ctx g (agreedDatum d.laneBits emax n old)
    else
      s.send { s.collPacket part ctx .cagr e.parent k.step emax.toNat g 0 with arg := BitVec.ofNat 32 n }

/-- Whether an instance is open, or has delivered and is kept for a repeat (R365). -/
def Coll.here (k : Coll) : Bool := k.opn || k.delivered

def State.agree (s : State) (part ctx : Nat) : State :=
  match (s.coll part ctx).desc with
  | some d => if (s.coll part ctx).here && d.op != opRing then d.groups.foldl (State.agreeGroup d part ctx) s else s
  | none => s

/-- Starts the repeat of a group: its sums are discarded, its tiles are formed again at a raised datum (R365). -/
def State.repeatGroup (s : State) (part ctx : Nat) (d : CDesc) (g : Nat) (old : W16) : State :=
  let mine (i : Nat) : Bool := d.groupOf i == g
  let s := s.updColl part ctx fun k => { k with
    partials := k.partials.filter fun t => t.late || !mine t.idx
    datums := k.datums.filter fun e => e.1 != g
    floors := k.floors.filter (fun e => e.1 != g) ++ [(g, old)]
    agrees := k.agrees.filter fun a => a.group != g || a.step != k.step
    agreedSent := k.agreedSent.filter (· != g), repeated := k.repeated ++ [g]
    opened := s.tick, expired := false, fenced := false
    formed := k.formed.filter fun i => !mine i, written := k.written.filter fun i => !mine i }
  s.agree part ctx

/-- The root repeats a group and tells every member; another engine repeats and passes the notice on. -/
def State.repeatDown (s : State) (part ctx : Nat) (d : CDesc) (g : Nat) (old : W16) : State :=
  let step := (s.coll part ctx).step
  let s := s.sendAll ((s.grp part g).kids.map fun m => s.collPacket part ctx .crep m step 0 g old)
  s.repeatGroup part ctx d g old

/-- A value beyond the window in group `g`: the repeat notice leaves for the root; a second time raises
DATUM_OVERFLOW. -/
def State.beyondWindow (s : State) (part ctx : Nat) (d : CDesc) (g : Nat) (old : W16) : State :=
  let e := s.grp part g
  let k := s.coll part ctx
  if k.repeated.contains g then s.collFault part .datumOverflow
  else if e.root then s.repeatDown part ctx d g old
  else s.send (s.collPacket part ctx .crep e.parent k.step 0 g old)

/-! ### Landing (R359 to R361, R367) -/

/-- What landing a tile comes to. -/
inductive Landing where
  | ok (s : State)
  | wait
  | fault (c : FCode)

/-- Takes a local contribution into its slot of the open instance. -/
def State.landLocal (s : State) (part ctx : Nat) (d : CDesc) (t : CTile) : Landing :=
  let k := s.coll part ctx
  match k.refuses d false t with
  | some e => .fault e
  | none =>
    match s.consumeFor part ctx t.cart with
    | .full => .wait
    | .access => .fault .access
    | .ok s =>
      match s.slotWrite part (d.localSlot k.locals.length t.idx) t.bytes with
      | none => .fault .access
      | some s => .ok ((s.updColl part ctx fun k => { k with locals := k.locals ++ [t] }).agree part ctx)

/-- LATE_DROPPED, with the tile and the source module (R366). -/
def State.lateDropped (s : State) (part : Nat) (t : CTile) : State :=
  s.raiseJob part none .lateDropped .info 0 (some (BitVec.ofNat 64 (t.idx + 2 ^ 16 * t.src.toNat)))

/-- The carry log's next entry; none when the log is full. No log is kept without CARRY or under REPLAY (R368, R369). -/
def State.logCarry (s : State) (ctx : Nat) (d : CDesc) (t : CTile) : Option State :=
  if d.carry = 0 ∨ d.replay then some s
  else
    let n := field (s.tableBytes d.carry 4) 0 4
    if d.carrylen ≤ n then none
    else
      let e := leBytes 4 t.step.toNat ++ leBytes 2 t.idx ++ leBytes 2 t.src.toNat ++ leBytes 2 t.cart.datum.toNat
        ++ leBytes 2 ctx ++ leBytes 4 t.cart.pcrc.toNat ++ leBytes 8 s.tick.toNat ++ leBytes 4 t.count ++ leBytes 4 0
      let a := s.translate d.carry
      some ((s.unitWrite (a + 64 + 32 * n) e).unitWrite a (leBytes 4 (n + 1)))

/-- Whether the partition's table lets the engine write the carry log, when one is kept. -/
def State.carryOk (s : State) (part : Nat) (d : CDesc) : Bool :=
  d.carry == 0 || d.replay || s.accessOk part true (s.translate d.carry) (64 + 32 * d.carrylen)

/-- Carries a late partial into the instance of the next step, or drops it (R367). -/
def State.carry (s : State) (part ctx : Nat) (d : CDesc) (t : CTile) : State :=
  let k := s.coll part ctx
  let t := { t with late := true }
  if 64 ≤ k.carries.length then s.lateDropped part t
  else if !s.carryOk part d then s.collFault part .access
  else match s.logCarry ctx d t with
  | none => s.lateDropped part t
  | some s =>
    match s.slotWrite part (d.carryAt k.carries.length) t.bytes with
    | none => s.collFault part .access
    | some s =>
      if k.opn ∧ t.step.toNat < k.step.toNat ∧ !k.fenced then
        s.updColl part ctx fun k => { k with partials := k.partials ++ [t] }
      else s.updColl part ctx fun k => { k with carries := k.carries ++ [t] }

/-- A partial that missed its fence, or that a replay's log lists (R366, R369); one of a module that is no child is
discarded. -/
def State.latePartial (s : State) (part ctx : Nat) (d : CDesc) (t : CTile) : Landing :=
  if d.tiles ≤ t.idx then .fault .descFormat
  else if !(s.grp part (d.groupOf t.idx)).kids.contains t.src then .ok s
  else if (s.listedFor ctx d t.step).any fun e => e.tile == t.idx && e.src == t.src && e.pcrc != t.cart.pcrc then
    .fault .descFormat
  else match useCheck (t.bytes.take 64) (d.needs true) (fun n => crc32c ((t.bytes.drop 64).take n)) with
  | some e => .fault e
  | none =>
    if d.policy = polFold ∨ d.replay then
      match s.consumeFor part ctx t.cart with
      | .full => .wait
      | .access => .fault .access
      | .ok s => .ok (s.carry part ctx d t)
    else if d.policy = polDrop then .ok (s.lateDropped part t)
    else .ok s

/-- Takes a partial into the open instance. One of a module that is no child, a second one, or one that carries the datum from
before a repeat is discarded. -/
def State.landPartial (s : State) (part ctx : Nat) (d : CDesc) (t : CTile) : Landing :=
  let k := s.coll part ctx
  let g := d.groupOf t.idx
  if d.tiles ≤ t.idx then .fault .descFormat
  else if !(s.grp part g).kids.contains t.src || k.partials.any (fun u => u.idx == t.idx && u.src == t.src && !u.late)
      || (d.op == opSum && k.floors.contains (g, t.cart.datum)) then .ok s
  else if k.listed.any fun e => e.tile == t.idx && e.src == t.src then s.latePartial part ctx d t
  else
    let add (s : State) : State := s.updColl part ctx fun k => { k with partials := k.partials ++ [t] }
    if t.count = 0 then .ok (add s)
    else match k.refuses d true t with
    | some e => .fault e
    | none =>
      match s.consumeFor part ctx t.cart with
      | .full => .wait
      | .access => .fault .access
      | .ok s => .ok (add s)

/-! ### Delivery (R362, R370) -/

/-- Writes result tile `i`, with the gather record and the overlay record of the delivery; it waits while the context holds two
unreleased overlay blocks (spec/11 R427). -/
def State.writeResult (s : State) (part ctx : Nat) (d : CDesc) (i : Nat) (bytes : List Byte) : State :=
  let c := Cart.parse bytes
  if s.overlayOn part && (s.ovl part (0xFF00 + ctx)).full then
    s.updColl part ctx fun k => { k with unwritten := k.unwritten ++ [(i, bytes)] }
  else
    let s := s.gatherTile part ctx d i c.version
    let k := s.coll part ctx
    if k.failed || k.written.contains i then s
    else match s.slotWrite part (d.outAt i) bytes with
    | none => (s.updColl part ctx fun k => { k with failed := true }).collFault part .access
    | some s =>
      let s := s.updColl part ctx fun k => { k with written := k.written ++ [i] }
      s.ovlRecord part (0xFF00 + ctx) (s.stepNo part) c.tensor c.pcrc

/-- The result tiles that this module writes. -/
def State.ownTiles (s : State) (part : Nat) (d : CDesc) : List Nat :=
  (List.range d.tiles).filter fun i => d.scope == 0 || (s.grp part (d.groupOf i)).root

/-- An instance as it closes: its slots are free, the engine's epoch advances. Under SCATTER a module does not learn that the
roots have finished, so it keeps what a repeat needs until its next instance opens (R365; log 107). -/
def Coll.closed (k : Coll) : Coll :=
  let k := { k with
    opn := false, lastStep := some k.step, epoch := k.epoch + 1, slotsUsed := k.slotsUsed - k.locals.length
    delivered := k.desc.any fun d => d.scope == 1 && d.op != opRing }
  if k.delivered then k
  else { k with
    locals := [], partials := [], datums := [], floors := [], agrees := k.agrees.filter fun a => decide (k.step.toNat < a.step.toNat)
    agreedSent := [], repeated := [], listed := [] }

/-- Closes an instance; what was held for the next step is to land. -/
def State.closeOne (s : State) (part ctx : Nat) : State := (s.updColl part ctx Coll.closed).advanceContext part ctx

/-- Delivery is complete when every result tile of the module is written, its own fence behind it (R362). -/
def State.delivered (s : State) (part ctx : Nat) (d : CDesc) : Bool :=
  let k := s.coll part ctx
  k.opn && k.fenced && !k.failed && (s.ownTiles part d).all k.written.contains

/-- Takes a result from the parent: it is passed on to the children and written, also when the module's own fence has not come
(R362, R366). -/
def State.landResult (s : State) (part ctx : Nat) (d : CDesc) (t : CTile) (datum : W16) : State :=
  let k := s.coll part ctx
  let e := s.grp part (d.groupOf t.idx)
  if d.scope ≠ 0 || e.root || e.parent != t.src || decide (d.tiles ≤ t.idx) || k.written.contains t.idx
      || k.unwritten.any (fun u => u.1 == t.idx) then s
  else
    let s := e.kids.foldl (fun s m => s.sendTileTo part ctx .cres m k.step t.idx t.count datum t.bytes) s
    s.writeResult part ctx d t.idx t.bytes

/-! ### Arrivals in order (R361) -/

/-- Lands a tile in the instance of its step; one that comes for a fenced instance is late. -/
def State.put (s : State) (part ctx : Nat) (h : CHeld) : Landing :=
  let k := s.coll part ctx
  match k.desc with
  | none => .ok s
  | some d =>
    match h.kind with
    | .contribution _ => s.landLocal part ctx d h.tile
    | .partialSum => if k.fenced then s.latePartial part ctx d h.tile else s.landPartial part ctx d h.tile
    | .result datum => .ok (s.landResult part ctx d h.tile datum)

/-- A partial of a step that is behind is late; a result of it is of no use any more. -/
def State.behind (s : State) (part ctx : Nat) (h : CHeld) : Landing :=
  match h.kind, (s.coll part ctx).desc with
  | .partialSum, some d => s.latePartial part ctx d h.tile
  | _, _ => .ok s

/-- Whether a tile is a core's contribution. -/
def CHeld.isLocal (h : CHeld) : Bool := match h.kind with | .contribution _ => true | _ => false

/-- Lands a tile: in the instance of its step, which it opens when none is open (R361); a result does so too, so that every
module writes it (R362, R366; log 105). One for a later step is held. -/
def State.land (s : State) (part ctx : Nat) (h : CHeld) : Landing :=
  let k := s.coll part ctx
  let t := h.tile
  let past : Bool := match k.lastStep with | some v => decide (t.step.toNat ≤ v.toNat) | none => false
  if k.opn then
    if t.step = k.step then s.put part ctx h
    else if !h.isLocal ∧ t.step.toNat < k.step.toNat then s.behind part ctx h
    else .ok (s.updColl part ctx fun k => { k with held := k.held ++ [h] })
  else if !h.isLocal ∧ k.delivered ∧ t.step = k.step then s.put part ctx h
  else if !h.isLocal ∧ past then s.behind part ctx h
  else match s.openColl part ctx t.step with
    | .wait => .wait
    | .fault c => .fault c
    | .poison g => .ok (s.uncorrectable g none (some part))
    | .ok s => s.put part ctx h

/-- Lands held tiles, in the order in which they arrived. -/
def landHeld (part ctx : Nat) : List CHeld → State → State
  | [], s => s
  | h :: r, s =>
    landHeld part ctx r (match s.land part ctx h with
      | .ok s => s
      | .wait => s.updColl part ctx fun k => { k with held := k.held ++ [h] }
      | .fault c => s.collFault part c)

/-- The lowest step among held tiles. -/
def firstStep : List CHeld → Option W32
  | [] => none
  | h :: r => match firstStep r with
    | some v => some (if h.tile.step.toNat ≤ v.toNat then h.tile.step else v)
    | none => some h.tile.step

/-- After a delivery the tiles held for the next step land (R361). -/
def State.landNext (s : State) (part ctx : Nat) : State :=
  let hs := (s.coll part ctx).held
  match firstStep hs with
  | none => s
  | some st =>
    let s := s.updColl part ctx fun k => { k with held := hs.filter fun h => h.tile.step != st }
    landHeld part ctx (hs.filter fun h => h.tile.step == st) s

/-- Closes an instance; what was held for the next step lands. -/
def State.closeColl (s : State) (part ctx : Nat) : State := (s.closeOne part ctx).landNext part ctx

/-- The end of a delivery: WPOUT, and the instance closes. -/
def State.deliver (s : State) (part ctx : Nat) : State :=
  match (s.coll part ctx).desc with
  | none => s
  | some d =>
    if s.delivered part ctx d then ((s.gatherEnd part ctx d).collArrive part d.wpout).closeColl part ctx else s

/-- The results that waited for overlay blocks are written. -/
def State.drainResults (s : State) (part ctx : Nat) : State :=
  match (s.coll part ctx).desc with
  | none => s
  | some d =>
    let us := (s.coll part ctx).unwritten
    (us.foldl (fun s u => s.writeResult part ctx d u.1 u.2) (s.updColl part ctx fun k => { k with unwritten := [] })).deliver part ctx

/-! ### The commands -/

/-- The MDATA packets of the oldest message from a core to a context, once all have come. -/
def State.ctxMessage (s : State) (ctx : Nat) (src : CoreId) : Option (List Packet) :=
  let ms := s.net.filter fun p =>
    p.typ == .mdata && p.smod == s.modId && p.dst == ctxId ctx && p.src.toNat == src && s.forUs p && p.code == rcOk
  match ms with
  | [] => none
  | p :: _ =>
    let ps := ms.filter fun q => q.msgid == p.msgid
    if ps.any (·.last) then some ps else none

/-- A contribution lands (R359). The message asks for its arrival as any landing does. -/
def execContribution (part ctx : Nat) (src : CoreId) (tile : List Byte) (s : State) : Host.Outcome State Fault Refusal :=
  if !s.engineOn part ctx ∨ s.partOf src ≠ some part then .next s
  else match s.ctxMessage ctx src with
  | none => .next s
  | some ps =>
    if ps.flatMap (·.payload) ≠ tile then .next s
    else
      let t : CTile :=
        { step := (Cart.parse tile).step, idx := (Cart.parse tile).tcoord.toNat % 65536, src := s.modId, count := 1
          late := false, bytes := tile }
      let away (s : State) : State := { s with net := s.net.filter fun p => !ps.contains p }
      let done (s : State) : State :=
        match ps with
        | p :: _ => if p.warr then s.arriveFor src p.wpid p.pencil p.epoch s.modId p.src else s
        | [] => s
      match s.land part ctx ⟨t, .contribution src⟩ with
      | .wait => .next s
      | .fault c => .next ((away s).collFault part c)
      | .ok s => .next (done (away s))

/-- The tile that a collective packet brings, with its message. -/
def tileOf (p : Packet) (tile : List Byte) : CTile :=
  { step := stepOf p, idx := idxOf p, src := p.smod, count := collCount p, late := false, bytes := tile }

/-- Arrival of a collective packet of the job's current attempt (R371); none when it is not one. -/
def State.collArrival (s : State) (part : Nat) (p : Packet) (typ : PType) : Option State :=
  if p.typ != typ || !s.engineOn part (ctxOf p) || !(s.otherModules part).contains p.smod then none
  else (s.arrive p).map fun s => s.dropMessage p

/-- Between a smudge and the advance of ATTEMPT no packet is of the current attempt. -/
def State.sameAttempt (s : State) (part : Nat) (p : Packet) : Bool :=
  attemptOf p == (s.part part).attempt.toNat && (match (s.part part).smudging with | some m => m.quiesced | none => true)

/-- Whether the fence of the open instance has come (R366, R369). -/
def State.fenceDue (s : State) (part ctx : Nat) : Bool :=
  let k := s.coll part ctx
  match k.desc with
  | none => false
  | some d =>
    let here (i : Nat) (m : BitVec 15) : Bool :=
      k.listed.any (fun e => e.tile == i && e.src == m) || k.partials.any fun t => t.idx == i && t.src == m && !t.late
    k.here && !k.fenced && d.op != opRing && decide (d.lcnt ≤ k.locals.length)
    && d.groups.all (fun g => (k.datumOf d g).isSome || d.op != opSum)
    && (((k.expired && d.policy != polWait && !d.replay)
      || (List.range d.tiles).all fun i => (s.grp part (d.groupOf i)).kids.all (here i)))

/-- Forms tile `i` of the contributions that pass their check: the partial leaves for the parent, the result is written and leaves for the children. -/
def State.fenceTile (d : CDesc) (part ctx : Nat) (s : State) (i : Nat) : State :=
  let k := s.coll part ctx
  let g := d.groupOf i
  let e := s.grp part g
  let dr := k.datumOf d g
  if k.formed.contains i || k.failed || (d.op == opSum && dr.isNone) then s
  else match s.sumFault part ctx d i with
  | some e => (s.updColl part ctx fun k => { k with failed := true }).collFault part e
  | none =>
    let r := s.formTile part ctx d e.root i (sInt (dr.getD 0))
    if r.2.2 then s.beyondWindow part ctx d g (dr.getD 0)
    else
      let s := s.updColl part ctx fun k => { k with formed := k.formed ++ [i] }
      if !e.root then s.sendTileTo part ctx .cpart e.parent k.step i r.2.1 (dr.getD 0) r.1
      else
        let s := if d.scope = 0 then
            e.kids.foldl (fun s m => s.sendTileTo part ctx .cres m k.step i r.2.1 (dr.getD 0) r.1) s
          else s
        s.writeResult part ctx d i r.1

/-- The fence: every tile is formed. -/
def State.fence (s : State) (part ctx : Nat) (d : CDesc) : State :=
  let s := (List.range d.tiles).foldl (State.fenceTile d part ctx) s
  let all := (List.range d.tiles).all (s.coll part ctx).formed.contains
  (s.updColl part ctx fun k => { k with fenced := all }).deliver part ctx

/-- Whether the deadline's tick has passed: in that tick itself every arrival comes first (spec/11 R410). -/
def State.deadlinePast (s : State) (k : Coll) (d : CDesc) : Bool :=
  k.here && d.policy != polWait && d.deadline != 0 && decide (d.deadline < (s.tick - k.opened).toNat)

/-- What had come before an arrival: a deadline of an earlier tick, and the fence that it made due. -/
def State.overdue (s : State) (part ctx : Nat) : State :=
  let k := s.coll part ctx
  match k.desc with
  | none => s
  | some d =>
    if !k.fenced && s.deadlinePast k d then
      let s := s.updColl part ctx fun k => { k with expired := true }
      if s.fenceDue part ctx then s.fence part ctx d else s
    else s

def execCpart (part : Nat) (p : Packet) (tile : List Byte) (s : State) : Host.Outcome State Fault Refusal :=
  match s.collArrival part p .cpart with
  | none => .next s
  | some t =>
    if !t.sameAttempt part p then .next t
    else match (t.overdue part (ctxOf p)).land part (ctxOf p) ⟨tileOf p tile, .partialSum⟩ with
    | .ok t => .next t
    | .wait => .next s
    | .fault c => .next ((t.overdue part (ctxOf p)).collFault part c)

/-- A result from the parent. -/
def execCres (part : Nat) (p : Packet) (tile : List Byte) (s : State) : Host.Outcome State Fault Refusal :=
  match s.collArrival part p .cres with
  | none => .next s
  | some t =>
    if !t.sameAttempt part p then .next t
    else match t.land part (ctxOf p) ⟨tileOf p tile, .result (datumOfPacket p)⟩ with
    | .ok t => .next (t.deliver part (ctxOf p))
    | .wait => .next s
    | .fault c => .next (t.collFault part c)

/-- An agreement of a child; one for a later step is kept for its instance. -/
def execCagr (part : Nat) (p : Packet) (s : State) : Host.Outcome State Fault Refusal :=
  match s.collArrival part p .cagr with
  | none => .next s
  | some s =>
    let ctx := ctxOf p
    let k := s.coll part ctx
    let old : Bool := if k.here then decide ((stepOf p).toNat < k.step.toNat)
      else match k.lastStep with | some v => decide ((stepOf p).toNat ≤ v.toNat) | none => false
    if !s.sameAttempt part p || old then .next s
    else
      let a : CAgree := ⟨stepOf p, p.smod, collCount p, BitVec.ofNat 16 (idxOf p), p.arg.toNat⟩
      .next ((s.updColl part ctx fun k =>
        { k with agrees := k.agrees.filter (fun b => !(b.src == a.src && b.group == a.group && b.step == a.step)) ++ [a] }).agree
        part ctx)

/-- The agreed datum from the parent. -/
def execCagd (part : Nat) (p : Packet) (s : State) : Host.Outcome State Fault Refusal :=
  match s.collArrival part p .cagd with
  | none => .next s
  | some s =>
    let ctx := ctxOf p
    let g := collCount p
    if !s.sameAttempt part p || !(s.coll part ctx).here || (s.coll part ctx).step != stepOf p || (s.grp part g).parent != p.smod then
      .next s
    else .next (s.setDatum part ctx g (datumOfPacket p))

/-- A repeat notice: from the parent it acts, from a child it goes on to the root. -/
def execCrep (part : Nat) (p : Packet) (s : State) : Host.Outcome State Fault Refusal :=
  match s.collArrival part p .crep with
  | none => .next s
  | some s =>
    let ctx := ctxOf p
    let g := collCount p
    let e := s.grp part g
    let k := s.coll part ctx
    match k.desc with
    | none => .next s
    | some d =>
      let old := datumOfPacket p
      if !s.sameAttempt part p || !k.here || k.step != stepOf p then .next s
      else if !e.root && p.smod == e.parent then .next (s.repeatDown part ctx d g old)
      else if !e.kids.contains p.smod || k.datumOf d g != some old then .next s
      else .next (s.beyondWindow part ctx d g old)

def execCollectiveFence (part ctx : Nat) (s : State) : Host.Outcome State Fault Refusal :=
  if !s.engineOn part ctx ∨ !s.fenceDue part ctx then .next s
  else match (s.coll part ctx).desc with
  | none => .next s
  | some d => .next (s.fence part ctx d)

def execCollectiveDeadline (part ctx : Nat) (s : State) : Host.Outcome State Fault Refusal :=
  let k := s.coll part ctx
  match k.desc with
  | none => .next s
  | some d =>
    if !s.engineOn part ctx ∨ !s.deadlinePast k d then .next s
    else .next (s.updColl part ctx fun k => { k with expired := true })

/-! ### The ring pass (R373, R374) -/

/-- Sends block `r` of the ring to the next module: 0 the own block, otherwise the one landed in round r. -/
def State.ringSend (s : State) (part ctx : Nat) (d : CDesc) (r : Nat) : State :=
  let k := s.coll part ctx
  let e := s.grp part d.gbase
  let at_ (i : Nat) : Nat := if r = 0 then d.slotAt i else d.outAt ((r - 1) % 2 * d.tiles + i)
  (List.range d.tiles).foldl (fun s i =>
    s.sendTileTo part ctx .cpart e.parent k.step i (r + 1) 0 (s.slotRead (at_ i))) s

/-- Sends what waits for a credit of the next module, in order. `n` bounds the blocks. -/
def ringDrain (part ctx : Nat) (d : CDesc) : Nat → State → State
  | 0, s => s
  | n + 1, s =>
    let k := s.coll part ctx
    if k.credits = 0 then s
    else if !k.ownSent then
      ringDrain part ctx d n ((s.ringSend part ctx d 0).updColl part ctx fun k =>
        { k with ownSent := true, credits := k.credits - 1 })
    else match k.fwd with
      | [] => s
      | r :: rest =>
        ringDrain part ctx d n ((s.ringSend part ctx d r).updColl part ctx fun k =>
          { k with fwd := rest, credits := k.credits - 1 })

/-- Sends the ring's blocks that may leave; the instance ends once M − 1 blocks have landed and every block has left. -/
def State.ringGo (s : State) (part ctx : Nat) : State :=
  let k := s.coll part ctx
  match k.desc with
  | none => s
  | some d =>
    if !k.opn || d.op != opRing || decide (k.locals.length < d.tiles) then s
    else
      let m := (s.grp part d.gbase).members
      let s := if m ≤ 1 then s else ringDrain part ctx d 3 s
      let k := s.coll part ctx
      if m ≤ 1 ∨ (k.ownSent ∧ k.fwd = [] ∧ m ≤ k.round + 1) then s.closeColl part ctx else s

/-- Writes a landed block to its buffer. -/
def State.ringLand (s : State) (part : Nat) (d : CDesc) (buf : Nat) (block : List (List Byte)) : Option State :=
  block.zipIdx.foldl (fun s t => s.bind fun s => s.slotWrite part (d.outAt (buf * d.tiles + t.2)) t.1) (some s)

/-- The packets of a ring block from the previous module leave the mesh. -/
def State.ringTake (s : State) (ctx : Nat) (prev : BitVec 15) (step : W32) (round : Nat) : State :=
  let ps := s.net.filter fun p =>
    p.typ == .cpart && p.smod == prev && s.forUs p && ctxOf p == ctx && stepOf p == step && collCount p == round
  let s := ps.foldl State.dropMessage s
  { s with net := s.net.filter fun p => !ps.contains p }

/-- The WARM by which the engine of a context arms WPFREE with target LCNT for a buffer. -/
def State.ringArm (s : State) (ctx buf : Nat) (d : CDesc) : Packet :=
  { typ := .warm, edge := 5, dst := BitVec.ofNat 16 (wpHomeCore d.wpfree.toNat), src := 0xFFFF, smod := s.modId
    wpid := d.wpfree, arg := BitVec.ofNat 32 d.lcnt, msgid := BitVec.ofNat 32 (2 * ctx + buf) }

/-- With no block a ring whose own block is complete begins round 1; a block of T tiles is the next one to land. -/
def execRingRound (part ctx : Nat) (block : List (List Byte)) (s : State) : Host.Outcome State Fault Refusal :=
  let k := s.coll part ctx
  match k.desc with
  | none => .next s
  | some d =>
    if !s.engineOn part ctx ∨ !k.opn ∨ d.op ≠ opRing ∨ k.locals.length < d.tiles then .next s
    else if block.isEmpty then .next (s.ringGo part ctx)
    else
      let e := s.grp part d.gbase
      let r := k.round + 1
      let buf := (r - 1) % 2
      let free := if buf = 0 then k.bufFree0 else k.bufFree1
      if block.length ≠ d.tiles ∨ e.members ≤ r ∨ !free then .next s
      else
        let prev := e.kids.headD 0
        let s := s.ringTake ctx prev k.step r
        match s.ringLand part d buf block with
        | none => .next (s.collFault part .access)
        | some s =>
          let s := s.updColl part ctx fun k => { k with
            round := r, bufFree0 := k.bufFree0 && buf != 0, bufFree1 := k.bufFree1 && buf != 1
            fwd := if r + 2 ≤ e.members then k.fwd ++ [r] else k.fwd }
          let s := (s.collArrive part d.wpout).send (s.ringArm ctx buf d)
          .next (s.ringGo part ctx)

/-- A buffer is free once its own arming of WPFREE has completed and its block has been forwarded (R374). -/
def execRingBufferFree (part ctx buf : Nat) (s : State) : Host.Outcome State Fault Refusal :=
  let k := s.coll part ctx
  match k.desc with
  | none => .next s
  | some d =>
    let free := if buf = 0 then k.bufFree0 else k.bufFree1
    if !s.engineOn part ctx ∨ 2 ≤ buf ∨ d.op ≠ opRing ∨ free ∨ !k.released.contains buf
        ∨ k.fwd.any (fun r => (r - 1) % 2 == buf) then .next s
    else
      let prev := (s.grp part d.gbase).kids.headD 0
      let s := s.updColl part ctx fun k =>
        { k with bufFree0 := k.bufFree0 || buf == 0, bufFree1 := k.bufFree1 || buf == 1, released := k.released.erase buf }
      .next (s.send { s.collPacket part ctx .rcred prev (BitVec.ofNat 32 k.round) 0 0 0 with dlocal := prev == s.modId })

/-- A credit of the next module. -/
def execRcred (part : Nat) (p : Packet) (s : State) : Host.Outcome State Fault Refusal :=
  match s.collArrival part p .rcred with
  | none => .next s
  | some s =>
    let ctx := ctxOf p
    if !s.sameAttempt part p then .next s
    else .next ((s.updColl part ctx fun k => { k with credits := k.credits + 1 }).ringGo part ctx)

end Sys2Proof.Machine
end

