-- ==== Sys2Proof/Machine/Control.lean ====
section
/-! DEFINITION. Control registers, fences, halt and run-ahead fills (spec/04 R163, R164, R169, R171). -/

namespace Sys2Proof.Machine

/-- The listed control registers (spec/04 Table 4-15). -/
inductive CReg where
  | fmode | fstat | chkrate | srkeyLo | srkeyHi | histb | datum (n : Nat) | idle (n : Nat)
  | coreid | epoch | stepno | steppc | rahead | cfault | cycle | icount
  deriving DecidableEq, Repr

/-- IMM11 as an unsigned index; none when it is not listed (R163). -/
def cReg (idx : BitVec 11) : Option CReg :=
  let i := idx.toNat
  if 0x008 ≤ i ∧ i ≤ 0x00B then some (.datum (i - 0x008))
  else if 0x010 ≤ i ∧ i ≤ 0x017 then some (.idle (i - 0x010))
  else match i with
    | 0x000 => some .fmode
    | 0x001 => some .fstat
    | 0x002 => some .chkrate
    | 0x003 => some .srkeyLo
    | 0x004 => some .srkeyHi
    | 0x005 => some .histb
    | 0x020 => some .coreid
    | 0x021 => some .epoch
    | 0x022 => some .stepno
    | 0x023 => some .steppc
    | 0x024 => some .rahead
    | 0x025 => some .cfault
    | 0x026 => some .cycle
    | 0x027 => some .icount
    | _ => none

/-- DATUM_n as it reads (spec/03 Table 3-4, R101): the values last written, the state in force. -/
def Bank.readDatum (b : Bank) : W64 :=
  b.written.pbound ++ b.pemax ++ (BitVec.ofInt 16 b.d) ++ (if b.opn then 1 else 0 : BitVec 1)
  ++ (if b.repeated then 1 else 0 : BitVec 1) ++ (if b.intmode then 1 else 0 : BitVec 1) ++ b.written.klog
  ++ b.written.policy ++ b.written.tighten

/-- CFAULT as it reads (spec/04 Table 4-24). -/
def CFault.read (f : CFault) : W64 :=
  (if f.valid then 1 else 0 : BitVec 1) ++ (0 : BitVec 7) ++ f.code ++ f.count ++ f.detail ++ (0 : BitVec 14) ++ f.pc

/-- A read of a control register. -/
def Core.readC (k : Core) (c : CoreId) (m : BitVec 15) : CReg → W64
  | .fmode => k.ctl.fmode.setWidth 64
  | .fstat => k.ctl.fstat.setWidth 64
  | .chkrate => k.ctl.chkrate.setWidth 64
  | .srkeyLo => k.ctl.srkeyLo.setWidth 64
  | .srkeyHi => k.ctl.srkeyHi.setWidth 64
  | .histb => k.ctl.histb.setWidth 64
  | .datum n => (k.bank n).readDatum
  | .idle n => Sparse.get 0 k.idle n
  | .coreid => BitVec.ofNat 64 (m.toNat * 65536 + c)
  | .epoch => k.epoch.setWidth 64
  | .stepno => k.ctl.stepno.setWidth 64
  | .steppc => k.steppc.setWidth 64
  | .rahead => k.ctl.rahead.setWidth 64
  | .cfault => k.cfault.read
  | .cycle => k.cycle
  | .icount => k.icount

/-- A write of FMODE: RM 0b11 leaves RM unchanged (spec/02 Tables 2-8, 2-9). -/
def fmodeWrite (old v : W32) : W32 := (v &&& 0xC) ||| (if v &&& 3 = 3 then old &&& 3 else v &&& 3)

/-- A write of CHKRATE: 6 and 7 leave RATE unchanged (spec/04 Table 4-16). -/
def chkrateWrite (old v : W32) : W32 := if 6 ≤ (v &&& 7).toNat then old else v &&& 7

/-- A write of RAHEAD, clamped (spec/04 Table 4-23). -/
def raheadWrite (v : W32) : W32 :=
  let depth := if 32 < (v >>> 10).toNat % 64 then 32 else (v >>> 10).toNat % 64
  let slots := if 8 < v.toNat % 16 then 8 else v.toNat % 16
  BitVec.ofNat 32 (depth * 1024 + slots) ||| (v &&& 0x100)

/-- The RW fields of a control register, as a write of the whole value `v` sets them. -/
def Core.setRW (k : Core) (v : W64) : CReg → Core
  | .fmode => { k with ctl := { k.ctl with fmode := fmodeWrite k.ctl.fmode (v.setWidth 32) } }
  | .chkrate => { k with ctl := { k.ctl with chkrate := chkrateWrite k.ctl.chkrate (v.setWidth 32) } }
  | .srkeyLo => { k with ctl := { k.ctl with srkeyLo := v.setWidth 32 } }
  | .srkeyHi => { k with ctl := { k.ctl with srkeyHi := v.setWidth 32 } }
  | .histb => { k with ctl := { k.ctl with histb := v.setWidth 32 &&& 0xFFFF } }
  | .datum n => k.setBank n ((k.bank n).writeDatum v 0x1F)
  | .idle n => { k with idle := Sparse.put 0 k.idle n (v &&& 0xFFFFFFFFFFFF) }
  | .stepno => { k with ctl := { k.ctl with stepno := v.setWidth 32 } }
  | .steppc => { k with steppc := v.setWidth 18 &&& 0x3FFFC }
  | .rahead => { k with ctl := { k.ctl with rahead := raheadWrite (v.setWidth 32) } }
  | _ => k

/-- FMODE.ZNORM reads 0 and ignores writes while its feature is absent (spec/12 R453). -/
def Core.zgate (k : Core) (there : Bool) : Core :=
  if there then k else { k with ctl := { k.ctl with fmode := k.ctl.fmode &&& ~~~8 } }

/-- crw: the RW fields, and the W1C fields of FSTAT and CFAULT (R163, spec/00 R10). -/
def Core.writeC (k : Core) (v : W64) : CReg → Core
  | .fstat => { k with ctl := { k.ctl with fstat := k.ctl.fstat &&& ~~~(v.setWidth 32) } }
  | .cfault =>
    if v.getLsbD 63 then { k with cfault := { k.cfault with valid := false, count := 0 } } else k
  | r => k.setRW v r

/-- The device accesses, tlds and tsts whose answers are outstanding. -/
def Core.accesses (k : Core) : List Remote :=
  k.remotes.filter fun r => match r.use with
    | .load _ _ => true
    | .tile _ _ _ _ => true
    | .store _ => true
    | _ => false

/-- The idle cause of an earlier send, memory access or transfer that is still in flight (spec/04 R164, Table 4-22). -/
def Core.earlier (k : Core) : Option Nat :=
  firstCause ((if k.sends.isEmpty then [] else [1]) ++ (k.accesses.map fun r => if r.far then 3 else 2)
    ++ (if k.flights.isEmpty then [] else [k.flightCause]))

/-- Whether the core's own units still work on earlier instructions. -/
def Core.unitsBusy (k : Core) : Bool := k.stage.isSome || k.mseg.isSome || !k.defq.isEmpty || !k.lent.isEmpty

/-- Why an instruction that follows every earlier one waits (R164, R169): what `earlier` names, a wtest, the own units. -/
def Core.unfinished (k : Core) : Option Nat :=
  firstCause (k.earlier.toList ++ (if k.wtests.isEmpty then [] else [0]) ++ if k.unitsBusy then [8] else [])

def execCrr (c : CoreId) (rd : Reg) (idx : BitVec 11) (s : State) : Host.Outcome State Fault Refusal :=
  issue c 4 [rd] (fun _ =>
    match cReg idx with
    | none => .fault s .featureUnsupported dNone
    | some r =>
      (match r with | .datum n => s.forBank c n | _ => .ok s).andThen fun s =>
        .ok (s.updCore c fun k => k.setG rd ((k.zgate (s.feature featZnorm)).readC c s.modId r))) s

/-- What crw, crs and crc share: the order of R169, then the change `f`. -/
def ctlWrite (c : CoreId) (ra : Reg) (idx : BitVec 11) (f : Core → W64 → CReg → Core) (s : State) :
    Host.Outcome State Fault Refusal :=
  issue c 4 [ra] (fun k =>
    match cReg idx with
    | none => .fault s .featureUnsupported dNone
    | some r =>
      let go (s : State) : Res := .ok (s.updCore c fun j => (f j (k.gr ra) r).zgate (s.feature featZnorm))
      match r with
      | .datum n => (s.forBank c n).andThen go
      | .fmode => go s
      | .srkeyLo => go s
      | .srkeyHi => go s
      | .histb => go s
      | _ =>
        match k.unfinished with
        | some cause => .stall s cause
        | none => go s) s

def execCrw (c : CoreId) (ra : Reg) (idx : BitVec 11) (s : State) : Host.Outcome State Fault Refusal :=
  ctlWrite c ra idx (fun k v r => k.writeC v r) s

def execCrs (c : CoreId) (ra : Reg) (idx : BitVec 11) (s : State) : Host.Outcome State Fault Refusal :=
  ctlWrite c ra idx (fun k v r => k.setRW (k.readC c s.modId r ||| v) r) s

def execCrc (c : CoreId) (ra : Reg) (idx : BitVec 11) (s : State) : Host.Outcome State Fault Refusal :=
  ctlWrite c ra idx (fun k v r => k.setRW (k.readC c s.modId r &&& ~~~v) r) s

/-- Whether data of core `c` has not landed: packets on the mesh, bytes that a port has still to send or its partner to
acknowledge, staged contributions. What a message to another module does behind that link this module cannot see (spec/06
R235; log 102). -/
def State.landing (s : State) (c : CoreId) : Bool :=
  (s.net.any fun p => p.src.toNat == c && p.smod == s.modId && (p.typ == .mdata || p.typ == .acc || p.typ == .mwr))
  || (s.fab.ports.any fun e => e.2.tails.any fun x => x.core == c)
  || s.cores.any fun e => e.2.stages.any fun x => x.who.smod == s.modId && x.who.src.toNat == c

def execFence (c : CoreId) (s : State) : Host.Outcome State Fault Refusal :=
  issue c 4 [] (fun k =>
    match k.earlier with
    | some cause => .stall s cause
    | none => if s.landing c then .stall s 1 else .ok s) s

/-- The instruction cache is not modelled (log 12), so ifence only waits. -/
def execIfence (c : CoreId) (s : State) : Host.Outcome State Fault Refusal :=
  issue c 4 [] (fun k =>
    match k.unfinished with
    | some cause => .stall s cause
    | none => .ok s) s

/-- The digest of the last partial block at the core's halt (spec/11 R425). -/
def State.haltDigest (s : State) (c : CoreId) : State :=
  match s.partOf c with
  | none => s
  | some p =>
    let k := s.core c
    if s.overlayOn p ∧ k.ovl.ord % 64 ≠ 0 then s.ovlClose p c k.ctl.stepno (k.ovl.ord / 64) else s

/-- halt forces every deferred entry, waits for earlier instructions, frees the prefetch slots and stops issue. -/
def execHalt (c : CoreId) (s : State) : Host.Outcome State Fault Refusal :=
  issue c 4 [] (fun _ =>
    (s.force c fun _ => true).andThen fun s =>
      match (s.core c).unfinished with
      | some cause => .stall s cause
      | none => .ok ((s.haltDigest c).updCore c fun k => { k.freeSlots with run := .halted })) s

/-- A prefetch completes: HCRC and PLEN as a tld would check them, else the slot is abandoned (R171). One whose answers are
outstanding is not complete. -/
def execPrefetchFill (c : CoreId) (slot : Nat) (s : State) : Host.Outcome State Fault Refusal :=
  let k := s.core c
  match k.slots.find? fun x => x.idx == slot && x.tile.isNone with
  | none => .next s
  | some x =>
    if k.fetching (.prefetch slot) then .next s
    else
      let data := ((k.fetchOf (.prefetch slot)).map (·.data)).getD []
      let cart := Memory.readBytes data 0 64
      match tileAccept x.capacity cart (Memory.readBytes data 64) with
      | .ok payload =>
        .next (s.updCore c fun k =>
          { k.freeSlot slot with slots := (k.freeSlot slot).slots ++ [{ x with tile := some (cart ++ payload) }] })
      | .error _ => .next (s.updCore c fun k => k.freeSlot slot)

end Sys2Proof.Machine
end

