-- ==== Sys2Proof/Machine/Controller.lean ====
section
/-! DEFINITION. Read requests at a memory controller (spec/07 R257 to R261, R273, R277). -/

namespace Sys2Proof.Machine

/-- The core of this module that sent a request, for the report of an uncorrectable error. -/
def State.ownCore (s : State) (p : Packet) : Option CoreId :=
  if p.smod == s.modId && p.src != 0xFFFF then some p.src.toNat else none

/-- An uncorrectable error is answered POISON before the module resets: a core or engine of this module raises
MEM_UNCORRECTABLE, and the answer to another module leaves by its port (R277). -/
def State.answerPoison (s : State) (p : Packet) : State :=
  if p.smod != s.modId then s.sendNow (s.reply p .mrdr rcPoison)
  else if p.src = 0xFFFF then
    match s.engineOfTag p.msgid with
    | some x => s.endXfer x.1 x.2 (.fault .memUncorrectable) (BitVec.ofNat 64 x.2.next)
    | none => s
  else
    match (s.core p.src.toNat).remotes.find? fun r => r.tag == p.msgid with
    | some r => s.poisonRemote p.src.toNat r
    | none => s

/-- A read request at a controller; it waits for a page that is being copied (R275). `err` tells what the line's check symbols find: 0 none, 1 corrected, 2 and 3
uncorrectable. -/
def execMrdRequest (p : Packet) (err : BitVec 2) (s : State) : Host.Outcome State Fault Refusal :=
  if p.typ ≠ .mrd ∨ memTop ≤ memAddr p ∨ s.copying (memAddr p) p.len.toNat then .next s
  else match s.arrive p with
  | none => .next s
  | some s =>
    let a := memAddr p
    let n := p.len.toNat
    match s.refuseRequest p false a n with
    | some code => .next (s.send (s.reply p .mrdr code))
    | none =>
      match s.poisonIn a n with
      | some _ => .next (s.send (s.reply p .mrdr rcPoison))
      | none =>
        if 2 ≤ err.toNat then .next ((s.answerPoison p).uncorrectable (a / 4096) (s.ownCore p) (s.requester p))
        else
          let s := if err = 1 then s.corrected (a / 4096) else s
          .next (s.send (s.readReply p a n))

end Sys2Proof.Machine
end

