-- ==== Sys2Proof/Machine/Reset.lean ====
section
/-! DEFINITION. The reset sources, internal causes, the end of an episode, NV pulses, the backup domain
(spec/13 R454 to R469, spec/01 R22 to R29, spec/15 R512). -/

namespace Sys2Proof.Machine

/-! ### RESET_N (R455, R458, R460) -/

/-- Whether the filter recognises a low level of `ns` nanoseconds (R455). -/
def pinSeen (ns : Nat) : Bool := decide (120 ≤ ns) || (decide (100 ≤ ns) && Config.shortResetSeen ns)

/-- The board pulls RESET_N low for `ns` nanoseconds. What the T4's own drive hides has no effect (R460). -/
def execResetNAssert (ns : Nat) (s : State) : Host.Outcome State Fault Refusal :=
  if !s.rst.islandOn ∨ s.rst.resetNDrive ∨ !pinSeen ns then .next s
  else .next (s.recognise bitPin).pinEntry

/-! ### Power-on (R25 to R29, R461, R465) -/

/-- The retention monitor latches LOST when the domain's supply is below 2.7 V: VBK, with V3A absent (R29, R467). -/
def State.retention (s : State) : State :=
  if s.rst.vbkLow && !s.rst.islandOn then s.updBkp fun b => { b with lost := true } else s

/-- The power-on source asserts with V3A present: every block but a running NV pulse enters reset at once (R465). -/
def State.powerOnIn (s : State) : State :=
  ((s.updRst fun r => { r with powerOn := true }).recognise bitPowerOn).enterReset true

/-- V3A falls below 3.0 V: the standby island is reset, and the entry of the episode waits for V3A (R25, R468). -/
def State.islandOff (s : State) : State :=
  let s := if s.rst.episodeOn then s else s.openEpisode true
  let s := (s.updRst fun r => { r with
    powerOn := true, epPowerOn := true, resetNDrive := false, tripDrive := false, islandOn := false
    islandTemp := 0 }).enterReset true
  (s.updSvr fun v => { v with
    slot := 0, slotBad := false, chainCnt := 0, chainOut := 0, idoff := 0, smbAddr := none, smbAlert := false }).retention

/-- A level of VIN below 38.0 V asserts the power-on source; one above 40.0 V, and no lower one, lets it be released again for
VIN (R25). -/
def execPowerOnAssert (cause : PowerOnCause) (s : State) : Host.Outcome State Fault Refusal :=
  match cause with
  | .v3a mV => if 3000 ≤ mV ∨ !s.rst.islandOn then .next s else .next s.islandOff
  | .vin mV =>
    if 40000 < mV then .next (s.updRst fun r => { r with vinLow := false })
    else if 38000 ≤ mV then .next s
    else
      let s := s.updRst fun r => { r with vinLow := true }
      if s.rst.islandOn then .next s.powerOnIn else .next s
  | .pwrgd =>
    let s := s.updRst fun r => { r with pwrgd := false }
    if s.rst.islandOn then .next s.powerOnIn else .next s
  | .pll =>
    let s := s.updRst fun r => { r with pll := false }
    if s.rst.islandOn then .next s.powerOnIn else .next s

/-- A reference absent for more than 10 µs: holdover, and the power-on source (R22). -/
def execReferenceLoss (us : Nat) (s : State) : Host.Outcome State Fault Refusal :=
  if us ≤ 10 ∨ !s.rst.pll then .next s
  else
    let s := s.updRst fun r => { r with pll := false, holdover := true }
    if s.rst.islandOn then .next s.powerOnIn else .next s

/-- {RACK, straps, slot}. -/
def moduleId (rack : BitVec 9) (straps slot : BitVec 3) : BitVec 15 := rack ++ straps ++ slot

/-- What the release of the power-on source latches and clears (R27, R512). The carrier EEPROM is read next. -/
def Surveyor.released (v : Surveyor) : Surveyor :=
  { v with
    lSlot := v.slot, lStraps := v.straps, lSlotBad := v.slotBad, lRack := 0, lEepromBad := false, lValid := false
    lModid := moduleId 0 v.straps v.slot, eepromDue := true, chainMoved := false
    idoff := 0, smbAddr := none, smbAlert := false }

/-- The source releases once every condition of R26 holds: V3A within limits and VIN above 40.0 V, as earlier commands told;
PWRGD high and the root PLL locked, as this command tells, for no other one does (log 38). -/
def execPowerOnRelease (s : State) : Host.Outcome State Fault Refusal :=
  if !s.rst.powerOn ∨ !s.rst.islandOn ∨ s.rst.vinLow then .next s
  else
    .next ((s.updRst fun r => { r with
      powerOn := false, pwrgd := true, pll := true, holdover := false }).updSvr Surveyor.released)

/-- V3A enters its operating range: the island leaves reset, drives RESET_N low and writes the entry of the episode
with TICK all ones (R458, R468, Table 1-8). -/
def execV3aEntersOperatingRange (mV : Nat) (s : State) : Host.Outcome State Fault Refusal :=
  if s.rst.islandOn ∨ mV < 3135 ∨ 3465 < mV then .next s
  else
    let s := s.updRst fun r => { r with islandOn := true, resetNDrive := true }
    if s.rst.epEntry then .next (s.addCause bitPowerOn) else .next (s.newEntry bitPowerOn (BitVec.allOnes 64))

/-! ### Internal causes (R456, R457, spec/01 R15) -/

/-- The watchdog's crash record has CODE 0x00; its DETAIL is a free value (log 18). -/
def State.watchdog (s : State) : State :=
  s.internalCause 0 bitWdog none none (Config.eventDetail 0 0xFFFF s.tick)

/-- The surveyor runs: out of reset, its pair not stopped. -/
def State.surveyorOn (s : State) : Bool := !s.rst.inReset && !s.svr.pairStopped

def execWdog (s : State) : Host.Outcome State Fault Refusal :=
  if s.rst.inReset then .next s else .next s.watchdog

/-- The pair stops; Table 13-1 names the stop itself as the cause. -/
def execLockstepMismatch (s : State) : Host.Outcome State Fault Refusal :=
  if s.surveyorOn then .next (s.updSvr fun v => { v with pairStopped := true }).watchdog else .next s

/-- A junction sensor's reading at or above the trip threshold (R456); the sensor only tells where. -/
def execThermal (_sensor : Nat) (celsius : Int) (s : State) : Host.Outcome State Fault Refusal :=
  if celsius < 105 ∨ s.rst.powerOn ∨ s.rst.tripDrive then .next s
  else
    let s := s.updRst fun r => { r with tripDrive := true, islandTemp := celsius }
    let s := s.updSvr fun v => { v with smbAlert := true }
    .next (s.internalCause FCode.thermal.byte bitThermal none none
      (Config.eventDetail FCode.thermal.byte.toNat 0xFFFF s.tick))

/-- The highest of a list of readings. -/
def highest (xs : List Int) : Int := xs.foldl (fun a b => if a < b then b else a) (xs.headD 0)

/-- The island's readings while the main domain is in reset: THERMTRIP_N is released once all are below 85 °C (R457). -/
def execThermtripRelease (readings : List Int) (s : State) : Host.Outcome State Fault Refusal :=
  if readings = [] ∨ !s.rst.islandOn ∨ !s.rst.inReset then .next s
  else .next (s.updRst fun r => { r with
    islandTemp := highest readings, tripDrive := r.tripDrive && decide (85 ≤ highest readings) })

/-! ### The end of the episode (R460) -/

def execResetStretchEnd (s : State) : Host.Outcome State Fault Refusal :=
  if s.rst.inReset ∧ !s.rst.powerOn ∧ !s.rst.tripDrive then .next (s.updRst fun r => { r with resetNDrive := false })
  else .next s

/-- RESET_N has been high for 1 µs: the module leaves reset, and the start begins in phase ROM. -/
def execResetExit (s : State) : Host.Outcome State Fault Refusal :=
  if s.rst.inReset ∧ !s.rst.resetNDrive ∧ !s.rst.powerOn then
    .next (s.updRst fun r => { r with inReset := false, episodeOn := false, phase := 0, kind := 0 })
  else .next s

/-! ### NV writes (R463 to R466) -/

/-- An NV pulse ends; `us` is how long it deferred an entry into reset, at most 50 µs. The commit pulse of its record follows
a payload pulse, the next record a commit pulse; none starts in reset or while NV writes are blocked (R463 to R466). -/
def execNvPulseEnd (us : Nat) (s : State) : Host.Outcome State Fault Refusal :=
  if !s.rst.nvPulse ∨ 50 < us then .next s
  else
    let cur := s.rst.nvCur
    let last := s.rst.nvCommit
    let s := s.updRst fun r => { r with nvPulse := false, nvCommit := false, nvCur := none }
    let s := match last, cur with | true, some m => s.nvCommitted m | _, _ => s
    if s.rst.deferred then
      let s := if s.rst.epEntry then s.updEntry fun e => { e with defer := BitVec.ofNat 16 us } else s
      .next (s.enterReset s.rst.epPowerOn)
    else if s.rst.inReset then .next s
    else if last then .next s.nvStart
    else if s.rst.nvblk then .next s.nvRefused
    else .next (s.updRst fun r => { r with nvPulse := true, nvCommit := true, nvCur := cur })

/-- VIN below 42.0 V for 10 µs. -/
def execNvBlocked (mV : Nat) (s : State) : Host.Outcome State Fault Refusal :=
  if 42000 ≤ mV then .next s else .next (s.updRst fun r => { r with nvblk := true })

/-- VIN above 44.0 V for 1 ms: the surveyor writes the records again that were refused, or cut short. VIN is then above
40.0 V too (R25). -/
def execNvUnblock (mV : Nat) (s : State) : Host.Outcome State Fault Refusal :=
  if mV ≤ 44000 ∨ !s.rst.nvblk then .next s
  else
    let s := s.updRst fun r => { r with nvblk := false, nvRaised := false, vinLow := false }
    .next (if s.rst.nvPulse || s.rst.inReset then s else s.nvStart)

/-! ### The backup domain (R29, R467, R468) -/

/-- VBK's level; the domain is lost when it supplies it below 2.7 V. -/
def execBackupLoss (mV : Nat) (s : State) : Host.Outcome State Fault Refusal :=
  .next (s.updRst fun r => { r with vbkLow := decide (mV < 2700) }).retention

def execBkpCtlClrlog (s : State) : Host.Outcome State Fault Refusal :=
  if !s.rst.islandOn then .next s
  else .next ((s.updBkp fun b => { b with log := [], logHead := 0 }).updRst fun r => { r with epEntry := false })

def execBkpCtlClrcnt (s : State) : Host.Outcome State Fault Refusal :=
  if !s.rst.islandOn then .next s
  else .next (s.updBkp fun b => { b with cold := 0, warm := 0, uncorr := 0, thermal := 0, wdog := 0 })

end Sys2Proof.Machine
end

