-- ==== Sys2Proof/Machine/Service.lean ====
section
/-! DEFINITION. Isolation wrappers, quarantine, inset substitution, sweeps, job boundaries
(spec/13 R479 to R482, spec/15 R527 to R530, spec/06 R222). -/

namespace Sys2Proof.Machine

/-! ### Physical positions (spec/06 R222) -/

/-- The healthy positions of a physical column, from the north. -/
def healthy (insets : List Position) (sheet col : Nat) : List Nat :=
  (List.range 42).filter fun p => !insets.contains ⟨sheet, col, p⟩

/-- Where a logical core lies, if its column has a position for its row. -/
def placeOf (insets : List Position) (c : CoreId) : Option Position :=
  let sh := sheetOf c
  let col := coreX c % 40
  ((healthy insets sh col)[coreY c % 40]?).map fun p => ⟨sh, col, p⟩

/-- Logical core of a sheet, column and row. -/
def coreIn (sheet col row : Nat) : CoreId := coreAt (40 * (sheet % 4) + col) (40 * (sheet / 4) + row)

/-- Sheets with a physical column that holds more than two failed positions (R529). -/
def outSheets (insets : List Position) : W16 :=
  BitVec.ofNat 16 ((List.range 16).foldl (fun v sh =>
    if (List.range 40).any fun col => (healthy insets sh col).length < 40 then v + 2 ^ sh else v) 0)

/-- Logical cores whose column has no position for their row. -/
def homeless (insets : List Position) : List Block :=
  (insets.map fun p => (p.sheet, p.col)).eraseDups.flatMap fun sc =>
    ((List.range 40).filter fun r => (healthy insets sc.1 sc.2).length ≤ r).map fun r => .core (coreIn sc.1 sc.2 r)

/-- The logical row that takes over position after position when the core at (x, y) is left out: the rows south of it
in its column of the sheet move one north, and the southernmost row takes a new position. -/
def movedNorth (c d : CoreId) : Bool := coreX d == coreX c && coreY d / 40 == coreY c / 40 && decide (coreY c < coreY d)

/-- A wrapper's block after the substitution of core `c`, none for the position left out. -/
def Block.afterSubstitution (c : CoreId) (b : Block) : Option Block :=
  match b with
  | .core d => if d = c then none else if movedNorth c d then some (.core (coreAt (coreX d) (coreY d - 1))) else some b
  | _ => some b

/-- The inset map in force: with a record that a supply sag holds back (spec/13 R466). -/
def State.insets (s : State) : List Position := s.nvView.insets

/-- Reloads the map of a core's column without the core's position (R222, R528). What the physical cores hold moves
with them. -/
def State.reload (s : State) (c : CoreId) : State :=
  let last := coreAt (coreX c) (coreY c / 40 * 40 + 39)
  let cores := Sparse.tabulate {} 65536 fun d =>
    if d = last then {}
    else if d = c ∨ movedNorth c d then s.core (coreAt (coreX d) (coreY d + 1))
    else s.core d
  let lost := (placeOf s.insets last).isNone
  { s with
    cores := cores
    svr := { s.svr with
      closed := s.svr.closed.filterMap (Block.afterSubstitution c) ++ (if lost then [.core last] else [])
      quarantines := s.svr.quarantines.filterMap (Block.afterSubstitution c)
      causes := s.svr.causes.filterMap fun e => (Block.afterSubstitution c e.1).map fun b => (b, e.2)
      sheetout := outSheets s.insets } }

/-! ### The field fault history -/

/-- Records a fault of a block, with the inset map for a core (R474, R481, R528). -/
def State.recordQuarantine (s : State) (b : Block) (code : Option Byte) : State :=
  let place := match b with
    | .core c => placeOf s.insets c
    | _ => none
  let e : HistEntry := { block := b, place := place, code := code, tick := s.tick, quarantine := true }
  s.nvWrite fun m => { m with
    history := pushHistory m.history e
    insets := match place with | some p => m.insets ++ [p] | none => m.insets }

/-- Quarantines a core of no attached job: its wrapper closes, its position goes into the inset map, and the map is
reloaded (R528). -/
def State.retireCore (s : State) (c : CoreId) (code : Option Byte) : State :=
  ((s.closeCore c).recordQuarantine (.core c) code).reload c

/-! ### Job boundaries (R528) -/

/-- Whether a pending quarantine may take effect at a boundary of partition `p`. -/
def State.boundaryOf (s : State) (p : Nat) (b : Block) : Bool :=
  match b with
  | .core c => match s.partOf c with
    | some q => q == p
    | none => true
  | _ => true

/-- The first pending core quarantine of a boundary, with what remains. `n` bounds the number taken. -/
def State.takeQuarantines : Nat → Nat → State → State
  | 0, _, s => s
  | n + 1, p, s =>
    match s.svr.quarantines.find? (s.boundaryOf p) with
    | some (.core c) => takeQuarantines n p
        ((s.updSvr fun v => { v with
          quarantines := v.quarantines.erase (.core c), causes := v.causes.filter fun e => e.1 != .core c }).retireCore c
            ((s.svr.causes.find? fun e => e.1 == .core c).map (·.2)))
    | some b => takeQuarantines n p (s.updSvr fun v => { v with quarantines := v.quarantines.erase b })
    | none => s

/-- At the boundary a lost port leaves LOST, and a degraded one returns to four lanes: a cage that is powered and accepted
trains again on all four (spec/09 R375, Table 9-12). -/
def State.freePort (s : State) (n : Nat) : State :=
  let o := s.port n
  if !(o.state == .lost || o.state == .up2) || s.svr.closed.contains (.port n) then s
  else
    (s.updPort n fun o => { o.fourLanes with
      state := if o.powered && o.cage == .accepted then .training else .down, use := .unused, replay := [] }).updSvr fun v =>
      { v with portout := v.portout &&& ~~~(BitVec.ofNat 12 (2 ^ n)) }

/-- The job boundary of a partition without a job. -/
def State.boundary (s : State) (p : Nat) : State :=
  let s := s.takeQuarantines s.svr.quarantines.length p
  let s := if s.attached then s else (List.range 12).foldl State.freePort s
  s.fixedBoundary

def execJobBoundary (part : Nat) (s : State) : Host.Outcome State Fault Refusal :=
  if !s.surveyorOn ∨ 16 ≤ part ∨ (s.part part).job.isSome then .next s else .next (s.boundary part)

/-! ### Sweeps (R530) -/

/-- Whether the partition that holds a sheet has no job attached. -/
def State.sheetIdle (s : State) (sh : Nat) : Bool :=
  match s.sheetPart sh with
  | some p => (s.part p).job.isNone && (s.part p).attaching.isNone
  | none => true

/-- A written SWEEP field requests sweeps (Table 15-8); the request stands also when a sweep of the sheet ends in the same cycle
(spec/16 R535). -/
def State.requestSweep (s : State) (sheets : W16) : State := (s.hwSet 8 (sheets.setWidth 64 <<< 16)).updSvr fun v => { v with sweep := v.sweep ||| sheets }

def execSweepRequest (sheets : W16) (s : State) : Host.Outcome State Fault Refusal :=
  if s.rst.inReset then .next s else .next (s.requestSweep sheets)

/-- Cores of a sheet that the sweep leaves reopened: reset locally. -/
def State.sweepCores (s : State) (sh : Nat) : State :=
  let inSheet (c : CoreId) : Bool := coreExists c && sheetOf c == sh
  let keep := homeless s.insets
  { s with
    cores := s.cores.filter fun e => !inSheet e.1
    svr := { s.svr with
      closed := s.svr.closed.filter fun b => match b with
        | .core c => !inSheet c || keep.contains b
        | _ => true
      sweep := s.svr.sweep &&& ~~~((s.clears 8 (BitVec.ofNat 64 (2 ^ (16 + sh))) >>> 16).setWidth 16) } }

/-- The sweep of an idle sheet and what its self-test found; a failed core is quarantined at once. -/
def execSweep (sheet : Nat) (failed : List CoreId) (s : State) : Host.Outcome State Fault Refusal :=
  if !s.surveyorOn ∨ s.rst.phase ≠ 8 ∨ 16 ≤ sheet ∨ !s.sheetIdle sheet then .next s
  else
    let bad := failed.filter fun c => coreExists c && sheetOf c == sheet
    let s := bad.foldl (fun s c => s.quarantineLater (.core c) none) (s.sweepCores sheet)
    let s := match s.sheetPart sheet with
      | some p => s.takeQuarantines s.svr.quarantines.length p
      | none => s.takeQuarantines s.svr.quarantines.length 16
    .next s

/-! ### Closing a wrapper (R479, R481) -/

/-- The fault end of every transfer that an engine runs or that waits for one. -/
def State.isolateEngines (s : State) : State :=
  let s := (List.range 16).foldl (fun s e =>
    match s.engine e with
    | some x => s.endXfer e x (.fault .isolated) (BitVec.ofNat 64 x.next)
    | none => s) s
  let ws := s.mem.waiting
  let s := s.updMem fun m => { m with waiting := [] }
  ws.foldl (fun s x =>
    (s.event { code := .isolated, cls := .job, part := some x.part, step := s.stepNo x.part
               detail := Config.eventDetail FCode.isolated.byte.toNat 0xFFFF s.tick }).finishFront x.q
      (.fault .isolated) 0 0 true) s

/-- A reduction engine is reset: the sends to its contexts end with ERR_ISOLATED. -/
def State.isolateReduction (s : State) (k : Nat) : State :=
  let mine (m : Send) : Bool := m.dlocal && decide (0xFF00 ≤ m.dst.toNat) && engineOf (m.dst.toNat % 256) == .reductionEngine k
  let s := (s.cores.map (·.1)).foldl (fun s c =>
    ((s.core c).sends.filter mine).foldl (fun s m => s.failSend c m .isolated) s) s
  s.updFab fun b => { b with colls := b.colls.filter fun e => engineOf (e.1 % 256) != .reductionEngine k }

/-- What closing a block other than a core does, its wrapper being closed. A controller's or a port's wrapper
quarantines it: no sweep of this model reopens it. -/
def State.closed (s : State) (b : Block) : State :=
  match b with
  | .core _ => s
  | .controller n _ =>
    (s.updSvr fun v => { v with stackout := v.stackout ||| BitVec.ofNat 8 (2 ^ n) }).recordQuarantine b none
  | .port n =>
    let s := if (s.port n).linked ∨ (s.port n).use = .inUse then s.losePort n else s
    (s.updSvr fun v => { v with portout := v.portout ||| BitVec.ofNat 12 (2 ^ n) }).recordQuarantine b none
  -- no event but a reset clears the energy counters (spec/14 R508)
  | .queueFrontEnd => s.updHost fun h => { h with queues := Sparse.mapVals {} h.queues fun _ u => { energy := u.energy } }
  | .transferEngines => s.isolateEngines
  | .reductionEngine k => s.isolateReduction k

/-- Closes a wrapper. -/
def State.closeBlock (s : State) (b : Block) : State :=
  match b with
  | .core c => s.closeCore c
  | _ =>
    if s.svr.closed.contains b then s else (s.updSvr fun v => { v with closed := v.closed ++ [b] }).closed b

/-- Whether the module has the block. -/
def blockExists : Block → Bool
  | .core c => coreExists c
  | .controller n k => decide (n < 8) && decide (k < 2)
  | .port n => decide (n < 12)
  | .reductionEngine k => decide (k < 2)
  | _ => true

def execWrapperClose (b : Block) (s : State) : Host.Outcome State Fault Refusal :=
  if !s.surveyorOn ∨ !blockExists b then .next s else .next (s.closeBlock b)

end Sys2Proof.Machine
end

