-- ==== Sys2Proof/Machine/Start.lean ====
section
/-! DEFINITION. The start: phases ROM to FINAL, READY and FAILED (spec/13 R470 to R478, spec/01 R34 to R37,
spec/07 R278, spec/15 R522, R523). -/

namespace Sys2Proof.Machine

/-! ### ROM (R467, R470) -/

/-- A lost domain is cleared; the entry of the episode that the start follows is the first of the cleared log. -/
def State.clearLost (s : State) : State :=
  if !s.bkp.lost then s
  else
    let e := Sparse.get {} s.bkp.log s.bkp.entryIdx
    let b : Backup := { lost := false, crash := { no := s.bkp.crash.no } }
    if s.rst.epEntry then
      { s with bkp := { b with seq := 1, logHead := 1, log := Sparse.put {} [] 0 { e with seq := 1 } } }
    else { s with bkp := b }

/-- The start-kind flag of phase ROM (Table 13-6): BKVALID, POISONOVF, INCOMPLETE, KIND. -/
def startFlag (valid ovf incomplete cold : Bool) : Byte :=
  (if valid then 128 else 0) + (if ovf then 64 else 0) + (if incomplete then 4 else 0) + (if cold then 1 else 2)

/-- Decides the kind and records it (R468, R470). -/
def State.decideKind (s : State) : State :=
  let valid := !s.bkp.lost
  let cold := s.rst.epPowerOn || !valid || s.rst.episodeColdStart
  let kind : BitVec 2 := if cold then 1 else 2
  let s := s.clearLost
  let s := s.updBkp fun b => { b with
    start := startFlag valid b.poisonOvf s.rst.epIncomplete cold
    cold := if cold then sat32 b.cold else b.cold
    warm := if cold then b.warm else sat32 b.warm }
  let s := if s.rst.epEntry then s.updEntry fun e => { e with start := kind } else s
  s.updRst fun r => { r with kind := kind }

/-- Whether the start is cold. -/
def State.cold (s : State) : Bool := s.rst.kind == 1

/-- Sets a bit of BKP_START. -/
def State.startBit (s : State) (b : Byte) : State := s.updBkp fun k => { k with start := k.start ||| b }

/-! ### FIRMWARE (spec/15 R522, R524) -/

/-- Whether an image runs: it is there, its signature verifies, its SVN is at or above the fused minimum. -/
def imagePasses (i : Option Image) (verifies : Bool) (fused : Nat) : Bool :=
  match i with
  | some i => verifies && decide (fused ≤ i.svn) && decide (i.svn ≤ 64)
  | none => false

/-- Runs an image. -/
def Surveyor.boot (v : Surveyor) (i : Option Image) (b : Bool) (fused : Nat) : Surveyor :=
  { v with booted := i, image := b, fwver := (i.map (·.version)).getD 0, svn := BitVec.ofNat 8 fused }

/-! ### IDENTITY (spec/01 R35, R37) -/

/-- Whether the identity EEPROM's magic, layout version and CRC match. -/
def identityValid (m : Memory) : Bool :=
  m.readBytes 0 4 == asciiField 4 ['C', 'H', 'T', '4'] && m.readLE 4 2 == 1 && decide (4 ≤ m.readLE 6 2)
  && m.readLE (m.readLE 6 2 - 4) 4 == (crc32c (m.readBytes 0 (m.readLE 6 2 - 4))).toNat

/-- Stacks whose device ID differs from the recorded one. -/
def mismatches (m : Memory) (ids : List W32) : List Nat :=
  (List.range 8).filter fun n => m.readLE (0x40 + 4 * n) 4 != (ids.getD n 0).toNat

/-! ### INSETS (R474, R482, spec/15 R528, R529) -/

/-- Blocks other than cores that the history records as quarantined. -/
def quarantined (h : List HistEntry) : List Block :=
  (h.filter fun e => e.quarantine && (match e.block with | .core _ => false | _ => true)).map (·.block)

/-- STACKOUT and PORTOUT of a list of blocks. -/
def stackMask (bs : List Block) : Byte :=
  bs.foldl (fun v b => match b with | .controller n _ => v ||| BitVec.ofNat 8 (2 ^ n) | _ => v) 0
def portMask (bs : List Block) : BitVec 12 :=
  bs.foldl (fun v b => match b with | .port n => v ||| BitVec.ofNat 12 (2 ^ n) | _ => v) 0

/-- The map and the history are applied; pending quarantines are part of them (R528): partition 0
holds every sheet during a start. -/
def State.applyMaps (s : State) : State :=
  let s := s.takeQuarantines s.svr.quarantines.length 0
  let bs := (quarantined s.nvView.history).eraseDups
  s.updSvr fun v => { v with
    closed := bs ++ homeless s.insets, sheetout := outSheets s.insets, stackout := stackMask bs, portout := portMask bs }

/-! ### STACKS (R472, R473, spec/07 R278) -/

/-- Whether the stored training records may be used: one for each stack, within 15 °C of its temperature now. -/
def State.recordsFit (s : State) (temps : List Int) : Bool :=
  s.mram.trained.length == 8 &&
    (List.range 8).all fun n => decide ((temps.getD n 0 - s.mram.trained.getD n 0).natAbs ≤ 15)

/-- The bytes of a page read as zeros. -/
def zeroPage (m : Memory) (page : Nat) : Memory := m.filter fun e => e.1 / 4096 != page

/-- Pages of the poison record. -/
def Backup.lostPages (b : Backup) : List Nat := b.poison.map fun a => a.toNat / 4096

/-- The spare pages that a stack has left: each retirement, also one of a page that was retired before, has taken one. -/
def spareCount (retired : List Nat) (n : Nat) : Nat := 32768 - (retired.filter fun g => g % 8 == n).length

/-- Zero fill, or the retirement of the poisoned pages (R473, R278). -/
def State.prepare (s : State) : State :=
  let lost := s.bkp.lostPages
  let s := s.updMem fun m =>
    { m with bytes := if s.cold || s.bkp.poisonOvf then [] else lost.foldl zeroPage m.bytes }
  if lost = [] || s.bkp.poisonOvf then s
  else
    let s := s.updSvr fun v => { v with poisonDue := true }
    s.nvWrite fun m => lost.foldl (fun m g => m.retire s.tick g) m

/-- Training, out of self-refresh (R472); `fails` has one bit per stack. -/
def State.train (s : State) (temps : List Int) (fails : Nat) : State :=
  let full := s.cold || s.bkp.poisonOvf || !s.recordsFit temps
  let code (n : Nat) : BitVec 2 := if fails.testBit n then 3 else if full then 2 else 1
  let retired := s.nvView.pagesRetired
  let s := s.updMem fun m => { m with stackStats := Sparse.tabulate {} 8 fun n =>
    { Sparse.get {} m.stackStats n with
      selfref := false, train := code n, spares := BitVec.ofNat 16 (spareCount retired n)
      nospare := spareCount retired n == 0 } }
  if full then (s.startBit 16).nvWrite fun m => { m with trained := (List.range 8).map fun n => temps.getD n 0 } else s

/-! ### CORETEST (R474) -/

/-- The cores that fail the self-test go into the history and the inset map, applied at once. -/
def State.testCores (s : State) (fails : List CoreId) : State :=
  let bad := fails.filter coreExists
  let s := bad.foldl (fun s c => s.quarantineLater (.core c) none) s
  s.takeQuarantines s.svr.quarantines.length 0

/-! ### The phases (R471, R475) -/

/-- The next phase, and the start's failure. -/
def State.toPhase (s : State) (n : BitVec 4) : State := s.updRst fun r => { r with phase := n }
def State.fail (s : State) : State := s.toPhase 15

/-- READY: the thermometer field takes the SVN of the running image (spec/15 R523). -/
def State.ready (s : State) : State :=
  let svn := (s.svr.booted.map (·.svn)).getD 0
  let fused := if s.mram.svnFused < svn then svn else s.mram.svnFused
  ({ s with mram := { s.mram with svnFused := fused } }.updSvr fun v => { v with svn := BitVec.ofNat 8 fused }).toPhase 8

/-- Completes the phase that the start is in, with what it found. -/
def State.phaseDone (s : State) (f : PhaseFindings) : State :=
  match s.rst.phase.toNat with
  | 0 => s.decideKind.toPhase 1
  | 1 =>
    if imagePasses s.mram.imageA f.aVerifies s.mram.svnFused then
      (s.updSvr fun v => v.boot s.mram.imageA false s.mram.svnFused).toPhase 2
    else if imagePasses s.mram.imageB f.bVerifies s.mram.svnFused then
      (s.updSvr fun v => v.boot s.mram.imageB true s.mram.svnFused).toPhase 2
    else (s.updSvr fun v => { v with romAgent := true }).fail
  | 2 =>
    if !identityValid s.svr.idrom then (s.respond .identityInvalid).fail
    else
      match mismatches s.svr.idrom f.stackIds with
      | [] => (s.updHost fun h => { h with linkOn := true, linkUp := true }).toPhase 3
      | bad => (bad.foldl (fun s n => (s.updStack n fun t => { t with mismatch := true }).respond (.stackMismatch n)) s).fail
  | 3 =>
    if s.cold || !s.bkp.fuseShadow then
      ((s.updBkp fun b => { b with fuseShadow := true }).startBit 8).toPhase 4
    else s.toPhase 4
  | 4 => s.applyMaps.toPhase 5
  | 5 =>
    let s := s.prepare.train f.stackTemps f.trainFails
    if f.trainFails % 256 ≠ 0 then s.fail else s.toPhase 6
  | 6 => ((if s.cold then s.startBit 32 else s).testCores f.coreFails).toPhase 7
  | 7 => (s.updMer fun m => { m with count := 0 }).ready.cageBudget.firstEvents
  | _ => s

/-- The end of the start's current phase; an NV pulse of the phase before has long ended. No phase ends once an episode
has begun. -/
def execStartPhase (f : PhaseFindings) (s : State) : Host.Outcome State Fault Refusal :=
  if s.starting && !s.svr.pairStopped && !s.rst.episodeOn then
    .next (s.nvFlush.phaseDone f)
  else .next s

end Sys2Proof.Machine
end

