-- ==== Sys2Proof/Machine/Manage.lean ====
section
/-! DEFINITION. Position, SMBus, MCTP, PLDM, SPDM, debug unlock (spec/15 R509 to R526). -/

namespace Sys2Proof.Machine

/-! ### The board chain (R509 to R512) -/

/-- CHAIN_OUT's burst: slot + 1 pulses. -/
def execChainOutBurst (s : State) : Host.Outcome State Fault Refusal :=
  if s.rst.islandOn then .next (s.updSvr fun v => { v with chainOut := v.slot.toNat + 1 }) else .next s

/-- A decoded slot; a change of it after the latch sets CHAINMOVED (R512). -/
def State.decodeSlot (s : State) (slot : BitVec 3) : State :=
  let moved := !s.rst.powerOn && slot != s.svr.slot
  (if moved then s.hwSet 0 0x80000000 else s).updSvr fun v => { v with
    slot := slot, slotBad := false, chainMoved := v.chainMoved || (!s.rst.powerOn && slot != v.slot) }

/-- A burst of `pulses` pulses has ended (R510). -/
def execChainInBurst (pulses : Nat) (s : State) : Host.Outcome State Fault Refusal :=
  if !s.rst.islandOn ∨ pulses = 0 then .next s
  else
    let s := s.updSvr fun v => { v with chainCnt := BitVec.ofNat 4 (if pulses < 15 then pulses else 15) }
    if pulses < 8 then .next (s.decodeSlot (BitVec.ofNat 3 pulses))
    else .next (s.updSvr fun v => { v with chainBad := true, slotBad := true })

/-- No burst for 10 ms (R510). -/
def execChainSilence (s : State) : Host.Outcome State Fault Refusal :=
  if s.rst.islandOn then .next ((s.decodeSlot 0).updSvr fun v => { v with chainCnt := 0 }) else .next s

/-! ### The carrier EEPROM (R513, R514) -/

/-- RACK of a carrier EEPROM whose magic and CRC match. -/
def carrierRack (bs : List Byte) : Option (BitVec 9) :=
  if bs.take 4 = asciiField 4 ['C', 'H', 'B', '1'] ∧ field bs 0x18 4 = (crc32c (bs.take 0x18)).toNat then
    some (BitVec.ofNat 9 (field bs 4 2))
  else none

/-- The surveyor reads the carrier EEPROM once after each release of the power-on source; none: no answer in 35 ms. -/
def execCarrierEepromRead (answer : Option (List Byte)) (s : State) : Host.Outcome State Fault Refusal :=
  if !s.surveyorOn ∨ !s.svr.eepromDue then .next s
  else match answer.bind carrierRack with
    | some r => .next (s.updSvr fun v => { v with
        eepromDue := false, lRack := r, lValid := !v.lSlotBad, lModid := moduleId r v.lStraps v.lSlot })
    | none => .next (s.updSvr fun v => { v with eepromDue := false, lEepromBad := true, lValid := false })

/-! ### SMBus (R515 to R518) -/

/-- The address at which the T4 answers: assigned, or 0x40 + slot. -/
def Surveyor.address (v : Surveyor) : BitVec 7 := v.smbAddr.getD (0x40 + v.slot.setWidth 7)

/-- A byte of the identity EEPROM; the unused area reads 0xFF (spec/01 Table 1-9). -/
def identityByte (m : Memory) (a : Nat) : Byte := if a % 4096 < 0x100 then m.read (a % 4096) else 0xFF

def execIdoff (v : W16) (s : State) : Host.Outcome State Fault Refusal :=
  if s.rst.islandOn then .next (s.updSvr fun k => { k with idoff := v.setWidth 12 }) else .next s

def execIdread (s : State) : Host.Outcome State Fault Refusal :=
  if !s.rst.islandOn then .next s
  else
    let o := s.svr.idoff.toNat
    .next ((s.respond (.smbus ((List.range 32).map fun k => identityByte s.svr.idrom (o + k)))).updSvr fun v =>
      { v with idoff := v.idoff + 32 })

/-- RST_STATUS (spec/13 Table 13-8). -/
def State.rstStatus (s : State) : W64 :=
  if s.rst.inReset then 0
  else BitVec.ofNat 64 (s.rst.phase.toNat * 0x1000 + s.rst.kind.toNat * 0x400 + s.rst.nvblk.toNat)

/-- Byte 6 of the STATUS block (Table 15-10). -/
def Rst.signals (r : Rst) : Byte :=
  BitVec.ofNat 8 ((!r.resetNDrive).toNat + 2 * r.resetNDrive.toNat + 4 * r.tripDrive.toNat + 8 * r.pwrgd.toNat
    + 16 * r.powerOn.toNat)

/-- The STATUS block (R517, Table 15-10). -/
def State.statusBlock (s : State) : List Byte :=
  let pos := if s.rst.inReset then 0 else s.svr.lValid.toNat * 0x8000 + s.svr.lModid.toNat
  leBytes 2 s.rstStatus.toNat ++ [s.bkp.start, if s.rst.inReset then BitVec.ofInt 8 s.rst.islandTemp else s.pwr.tjmax]
  ++ leBytes 2 pos ++ [s.rst.signals, 0]

def execStatus (s : State) : Host.Outcome State Fault Refusal :=
  if s.rst.islandOn then .next (s.respond (.smbus s.statusBlock)) else .next s

/-- The Alert Response Address: the current address, and SMB_ALERT_N is released (R518). -/
def execAlertResponse (s : State) : Host.Outcome State Fault Refusal :=
  if s.rst.islandOn ∧ s.svr.smbAlert then
    .next ((s.respond (.smbus [s.svr.address.setWidth 8])).updSvr fun v => { v with smbAlert := false })
  else .next s

def execArp (addr : BitVec 7) (s : State) : Host.Outcome State Fault Refusal :=
  if s.rst.islandOn then .next (s.updSvr fun v => { v with smbAddr := some addr }) else .next s

/-! ### MCTP (R519) -/

/-- The MCTP endpoint answers from phase IDENTITY on, and while the recovery agent runs (R519, R524). -/
def State.mctpOn (s : State) : Bool := s.surveyorOn && decide (2 ≤ s.rst.phase.toNat)

/-- Whether a message other than an MCTP control message is answered: an EID is assigned. -/
def State.mctpOpen (s : State) : Bool := s.mctpOn && s.svr.eid.isSome

/-- A control message's answer. -/
def State.control (s : State) (bs : List Byte) : Host.Outcome State Fault Refusal :=
  if s.mctpOn then .next (s.respond (.mctp bs)) else .next s

def execSetEndpointId (eid : Byte) (s : State) : Host.Outcome State Fault Refusal :=
  if s.mctpOn then .next ((s.updSvr fun v => { v with eid := some eid }).respond (.mctp [eid])) else .next s

def execGetEndpointId (s : State) : Host.Outcome State Fault Refusal := s.control [s.svr.eid.getD 0]

def execGetEndpointUuid (s : State) : Host.Outcome State Fault Refusal := s.control Config.endpointUuid

def execGetMctpVersionSupport (s : State) : Host.Outcome State Fault Refusal := s.control (Config.protocolAnswer 0)

/-- PLDM 0x01, SPDM 0x05, vendor-defined PCI 0x7E; the recovery agent offers PLDM only (R524). -/
def execGetMessageTypeSupport (s : State) : Host.Outcome State Fault Refusal :=
  s.control (if s.svr.romAgent then [0x01] else [0x01, 0x05, 0x7E])

/-! ### PLDM (R520, R523) -/

/-- A sensor's reading: 0 TJMAX, 1 MEAS, 2 EST, 3 and 4 the coolant inlet and outlet, 5 to 12 the stacks' temperatures,
13 to 24 the cages' power. -/
def State.sensor (s : State) (k : Nat) : Int :=
  if k = 0 then s.pwr.tjmax.toInt
  else if k = 1 then s.pwr.meas.toNat
  else if k = 2 then s.pwr.est.toNat
  else Config.sensor k s.now

def execPldmMonitoring (sensor : Nat) (s : State) : Host.Outcome State Fault Refusal :=
  if !s.mctpOpen then .next s
  else if s.svr.romAgent ∨ 24 < sensor then .next (s.respond .refused)
  else .next (s.respond (.pldm (leBytes 4 (BitVec.ofInt 32 (s.sensor sensor)).toNat)))

/-- An update: A to B, the new image to A; refused as busy while NV writes are blocked. -/
def execPldmFirmwareUpdate (img : Image) (s : State) : Host.Outcome State Fault Refusal :=
  if !s.mctpOpen then .next s
  else if s.rst.nvblk then .next (s.respond .pldmBusy)
  else .next (((s.nvWrite fun m => { m with imageB := m.imageA }).nvWrite fun m => { m with imageA := some img }).respond
    (.pldm [0]))

/-! ### SPDM (R521) -/

/-- An SPDM answer; the recovery agent offers none (R524). -/
def State.spdm (s : State) (bs : List Byte) : Host.Outcome State Fault Refusal :=
  if !s.mctpOpen then .next s
  else if s.svr.romAgent then .next (s.respond .refused)
  else .next (s.respond (.spdm bs))

/-- An answer that uses the negotiated algorithms. -/
def State.spdmSigned (s : State) (bs : List Byte) : Host.Outcome State Fault Refusal :=
  if s.mctpOpen && !s.svr.spdmAlg then .next (s.respond .refused) else s.spdm bs

/-- SPDM 1.2. -/
def execGetVersion (s : State) : Host.Outcome State Fault Refusal := s.spdm [0x12]

def execGetCapabilities (s : State) : Host.Outcome State Fault Refusal := s.spdm (Config.protocolAnswer 1)

/-- ECDSA P-384 with SHA-384 is the only choice. -/
def execNegotiateAlgorithms (p384 : Bool) (s : State) : Host.Outcome State Fault Refusal :=
  if !s.mctpOpen then .next s
  else if s.svr.romAgent ∨ !p384 then .next (s.respond .refused)
  else .next ((s.updSvr fun v => { v with spdmAlg := true }).respond (.spdm (Config.protocolAnswer 2)))

def execGetDigests (s : State) : Host.Outcome State Fault Refusal := s.spdmSigned (Config.sha384 Config.certChain)

def execGetCertificate (off len : Nat) (s : State) : Host.Outcome State Fault Refusal :=
  s.spdmSigned ((Config.certChain.drop off).take len)

def execChallenge (nonce : List Byte) (s : State) : Host.Outcome State Fault Refusal :=
  s.spdmSigned (Config.sign (nonce ++ Config.sha384 Config.certChain))

/-- Bytes of the image that booted, with its letter. -/
def Surveyor.measuredImage (v : Surveyor) : List Byte :=
  Config.sha384 ((v.booted.map (·.bytes)).getD []) ++ [if v.image then 0x42 else 0x41]

/-- One measurement (Table 15-4). -/
def State.measurement (s : State) (idx : Nat) : List Byte :=
  match idx with
  | 1 => Config.sha384 Config.bootRom
  | 2 => s.svr.measuredImage
  | 3 => [s.svr.svn]
  | 4 => Config.sha384 Config.fuseShadow
  | 5 => Config.sha384 (s.svr.idrom.readBytes 0 0x100)
  | 6 => [s.svr.dbgLevel.setWidth 8]
  | _ => []

def execGetMeasurements (idx : Nat) (s : State) : Host.Outcome State Fault Refusal :=
  if s.mctpOpen ∧ (idx = 0 ∨ 6 < idx) then .next (s.respond .refused) else s.spdmSigned (s.measurement idx)

/-! ### Debug unlock (R525, R526) -/

/-- A fresh nonce; it replaces the one before. -/
def execNonceRequest (s : State) : Host.Outcome State Fault Refusal :=
  if !s.mctpOpen then .next s
  else if s.svr.romAgent then .next (s.respond .refused)
  else
    let n := s.svr.nonceNo + 1
    .next ((s.updSvr fun v => { v with nonceNo := n, nonceOk := true }).respond (.mctp (Config.nonce n)))

/-- What a token's signature covers. -/
def tokenBytes (t : Token) : List Byte := leBytes 8 t.uid.toNat ++ t.nonce ++ [t.level.setWidth 8]

/-- Whether a token is accepted (R525). -/
def State.tokenOk (s : State) (t : Token) : Bool :=
  t.uid.toNat == s.svr.idrom.readLE 0x30 8 && s.svr.nonceOk && t.nonce == Config.nonce s.svr.nonceNo
  && (t.level == 1 || t.level == 2) && Config.verifies (tokenBytes t) t.sig && (t.level == 1 || !s.attached)

def execDebugToken (t : Token) (s : State) : Host.Outcome State Fault Refusal :=
  if s.mctpOpen ∧ !s.svr.romAgent ∧ s.tokenOk t then
    .next (s.updSvr fun v => { v with dbgLevel := t.level, nonceOk := false })
  else .next s

end Sys2Proof.Machine
end

