-- ==== Sys2Proof/Machine/Matrix.lean ====
section
/-! DEFINITION. Matrix instructions and the deferred queue (spec/05 R178 to R205). -/

namespace Sys2Proof.Machine

/-- A matrix-class instruction other than mdefer issues only when the operand stage is free (R184); until then it waits
for the stage (cause 9). -/
def stageFree (c : CoreId) (s : State) (g : State → Res) : Res :=
  if (s.core c).stage.isSome || (s.core c).mseg.isSome then .stall s 9 else g s

/-- Orders a bank (R168, R202), then the operand stage, then goes on. -/
def bankFree (c : CoreId) (bn : Nat) (s : State) (g : State → Res) : Res :=
  (s.forBank c bn).andThen fun s => stageFree c s g

/-! ### mclr, mdat -/

def execMclr (c : CoreId) (ab : Reg) (s : State) : Host.Outcome State Fault Refusal :=
  issue c 4 [] (fun _ =>
    if badBank ab then .fault s .featureUnsupported dNone
    else bankFree c ab.toNat s fun s => .ok (s.updCore c fun k => k.setBank ab.toNat (k.bank ab.toNat).clear)) s

def execMdat (c : CoreId) (ab ra : Reg) (mask : BitVec 5) (s : State) : Host.Outcome State Fault Refusal :=
  issue c 4 [ra] (fun k =>
    if badBank ab then .fault s .featureUnsupported dNone
    else bankFree c ab.toNat s fun s =>
      .ok (s.updCore c fun j => j.setBank ab.toNat ((j.bank ab.toNat).writeDatum (k.gr ra) mask))) s

/-! ### mmac (R182 to R184) -/

/-- The pairs of an mmac. -/
def macPairs (ta tb : Desc) (a b n : Nat) : List PairIn :=
  (pairAddrs a b ((capacity ta).getD 0) ((capacity tb).getD 0) n).map fun p =>
    { a := p.1, b := p.2, hi := ta.cols.toNat }

/-- The wait of an operand range for a landing (spec/04 R167). -/
def Core.operandBar (k : Core) (a an b bn : Nat) : Option Nat :=
  match k.readBar a an with
  | some x => some x
  | none => k.readBar b bn

def execMmac (c : CoreId) (ab ta tb : Reg) (lp : Bool) (n1 : BitVec 4) (s : State) : Host.Outcome State Fault Refusal :=
  issue c 8 [] (fun k =>
    if badBank ab || badT ta || badT tb then .fault s .featureUnsupported dNone
    else
      let n := n1.toNat + 1
      let da := k.desc ta
      let db := k.desc tb
      match macOperands c da db n false with
      | .error e => .fault s e (dDesc ta)
      | .ok (a, b) =>
        let an := n * (capacity da).getD 0
        let bn := n * (capacity db).getD 0
        stageFree c s fun s =>
          match k.operandBar a an b bn with
          | some cause => .stall s cause
          | none =>
            match (k.bank ab.toNat).refuses (isIntRun da db lp) with
            | some e => .fault s e (dBank ab.toNat)
            | none =>
              let ps := macPairs da db a b n
              let s' := s.updCore c fun k =>
                ((((k.decideCover ab.toNat da db).startRun ab.toNat da db lp k.ftz ps).pend ⟨false, a, an, .stage⟩).pend
                  ⟨false, b, bn, .stage⟩)
              let r : RunIn := { owner := c, dst := c, bank := ab.toNat, ta := da, tb := db, ftz := k.ftz, eater := some c
                                 detA := dDesc ta, detB := dDesc tb }
              match runPairs r ps s' with
              | .full => .stall s 4
              | .fault t e det => .fault (t.updCore c fun k => k.unpend .stage) e det
              | .ok t => .ok (t.updCore c fun k => { k with stage := some .instr })) s

/-! ### mcvt (R188 to R191) -/

/-- The banks of a group, or none for a selector that Table 5-4 does not accept. -/
def mcvtBanks (ab : Reg) (nb : BitVec 2) : Option (List Nat) :=
  if badBank ab then none
  else if nb = 0 then some [ab.toNat]
  else if nb = 1 then (if ab = 0 ∨ ab = 2 then some [ab.toNat, ab.toNat + 1] else none)
  else if nb = 2 then (if ab = 0 then some [0, 1, 2, 3] else none)
  else none

/-- Orders every bank of a group. -/
def forBanks (c : CoreId) : List Nat → State → Forced
  | [], s => .ok s
  | b :: bs, s =>
    match s.forBank c b with
    | .ok s => forBanks c bs s
    | x => x

/-- The values of a group in row-major order of the output tile. -/
def Core.groupValues (k : Core) (bs : List Nat) : List Num :=
  (List.range 8).flatMap fun i => bs.flatMap fun b => (List.range 16).map fun j => (k.bank b).value (16 * i + j)

/-- Steps 2 to 8 of R189 for a group whose banks are ordered. -/
def mcvtRun (c : CoreId) (k : Core) (td : Desc) (at_ : Nat) (bs : List Nat) (rm : BitVec 2) (hslot clr : Bool) (bound : W16)
    (rstep : Bool) (s : State) : Res :=
  let clear (s : State) : State := if clr then s.updCore c fun k => k.clearBanks bs else s
  if td.survey && !s.surveyProceeds c td then .ok (clear s)
  else if s.convBar c bs then .stall s 7
  else match readyBanks c bs s with
    | .repeats s => .stall s 6
    | .fault s e det => .fault s e det
    | .ok s =>
      let j := s.core c
      let d := (j.bank (bs.headD 0)).d
      if td.fmt = fmtLp128 ∧ bs.any (fun b => (j.bank b).d != d) then .fault s .descFormat dNone
      else
        let lp := isLong td.fmt && td.fmt != fmtLp128
        let datum : W16 := if lp then bound else BitVec.ofInt 16 d
        let src := j.groupValues bs
        let s := bs.foldl (fun s b => s.surveyCompare c b) (s.reportSat c k.pc k.seq bs)
        let s := clear (s.updCore c fun k => k.newEpoch bs)
        let o : Rounding := { mode := k.rmode rm, ftz := k.ftz, znorm := k.znorm, datum := sInt datum }
        convFinish c k.pc k.seq td at_ o hslot src datum (if lp then 0x8000 else bound) rstep false s

def execMcvt (c : CoreId) (td ab : Reg) (rmsel : BitVec 2) (hslot clr : Bool) (nb : BitVec 2) (bound : W16) (rstep : Bool)
    (s : State) : Host.Outcome State Fault Refusal :=
  issue c 8 [] (fun k =>
    if badT td then .fault s .featureUnsupported dNone
    else match mcvtBanks ab nb with
      | none => .fault s .featureUnsupported dNone
      | some bs =>
        let d := k.desc td
        match capacity d with
        | none => .fault s .formatMismatch (dDesc td)
        | some cap =>
          if d.rows ≠ 8 ∨ d.cols.toNat ≠ 16 * bs.length ∨ badOutput d then .fault s .descFormat (dDesc td)
          else match ownTile c d.addr cap with
            | none => .fault s .access (dDesc td)
            | some a =>
              (forBanks c bs s).andThen fun s =>
                stageFree c s fun s =>
                  (s.forWrite c a cap).andThen fun s => mcvtRun c k d a bs rmsel hslot clr bound rstep s) s

/-! ### mrd, mhd (R192, R193) -/

/-- The rounding mode of mrd: never SR. -/
def mrdMode (k : Core) (rmsel : BitVec 2) : RMode := match k.rmode rmsel with | .sr => .rne | m => m

def mrdRun (c : CoreId) (k : Core) (vd : Nat) (b : Nat) (rmsel : BitVec 2) (hslot clr : Bool) (s : State) : Res :=
  if s.convBar c [b] then .stall s 7
  else match readyBanks c [b] s with
    | .repeats s => .stall s 6
    | .fault s e det => .fault s e det
    | .ok s =>
      let src := (List.range 128).map ((s.core c).bank b).value
      let s := (s.reportSat c k.pc k.seq [b]).surveyCompare c b
      let s := s.updCore c fun k => k.newEpoch [b]
      let s := if clr then s.updCore c fun k => k.clearBanks [b] else s
      let es := src.map (fpFp32.round (mrdMode k rmsel) 0 k.ftz k.znorm)
      let words := es.map fun e => BitVec.ofNat 32 e.code
      let s := s.updCore c fun k => ((k.setLanes vd words).histAdd hslot es).flag (elemFlags es)
      let s := s.overlayRecord c (Config.overlayTensor 0) (crc32c (words.flatMap fun w => leBytes 4 w.toNat))
      .ok (s.advanceFrontier c)

def execMrd (c : CoreId) (vd ab : Reg) (rmsel : BitVec 2) (hslot clr : Bool) (s : State) :
    Host.Outcome State Fault Refusal :=
  issue c 4 [] (fun k =>
    if badBank ab || vd.toNat % 4 != 0 || rmsel == 3 then .fault s .featureUnsupported dNone
    else bankFree c ab.toNat s fun s => mrdRun c k vd.toNat ab.toNat rmsel hslot clr s) s

/-- The 288-byte histogram record (spec/02 R83). -/
def Core.histRecord (k : Core) (slot : Bool) (tensor : W32) : List Byte :=
  leBytes 4 tensor.toNat ++ leBytes 2 (k.ctl.histb.setWidth 16).toNat ++ leBytes 2 0 ++ leBytes 4 k.ctl.stepno.toNat
  ++ leBytes 4 0
  ++ (List.range 68).flatMap fun i => leBytes 4 (Sparse.get 0 k.hist ((if slot then 68 else 0) + i)).toNat

def execMhd (c : CoreId) (ra rb : Reg) (slot : Bool) (s : State) : Host.Outcome State Fault Refusal :=
  issue c 4 [ra, rb] (fun k =>
    let a := (k.gr ra).toNat
    if a % 32 ≠ 0 ∨ a > 0x3FEE0 then .fault s .access dNone
    else stageFree c s fun s =>
      (s.forWrite c a 288).andThen fun s =>
        .ok (s.updCore c fun j =>
          { j.storeBytes a (j.histRecord slot ((k.gr rb).setWidth 32)) with
            hist := j.hist.filter fun e => decide (e.1 / 68 ≠ if slot then 1 else 0) })) s

/-! ### mseg (R194 to R198) -/

/-- The segment table (Table 5-6). -/
structure SegTable where
  vtbase : Nat
  vcount : Nat
  part : Nat
  buf0 : Nat
  buf1 : Nat
  bufcap : Nat
  segs : List Nat
  deriving DecidableEq, Repr

def segTable (bs : List Byte) : SegTable :=
  { vtbase := field bs 0 8, vcount := field bs 8 4, part := field bs 0xC 1, buf0 := field bs 0x10 4
    buf1 := field bs 0x14 4, bufcap := field bs 0x18 4, segs := (List.range 8).map fun i => field bs (0x20 + 4 * i) 4 }

/-- Segments as (variant, first row, end row, NONE), up to the first row count of 0. -/
def segRows : Nat → List Nat → List (W16 × Nat × Nat × Bool)
  | _, [] => []
  | row, w :: ws =>
    let n := w / 65536 % 16
    if n = 0 then [] else (BitVec.ofNat 16 w, row, row + n, w.testBit 20) :: segRows (row + n) ws

/-- Why an adapter read gives no bytes: a fault, or bytes that have not come yet. -/
inductive ReadFail where
  | code (e : FCode)
  | need (a n : Nat)
  deriving DecidableEq, Repr

/-- Bytes of device memory that the adapter unit reads for a table entry or a cartouche at the issue of an mseg: those that
its reads have brought (spec/07 R259). -/
def State.adapterBytes (s : State) (c : CoreId) (a n : Nat) : Except ReadFail (List Byte) :=
  let t := s.translate a
  match s.partOf c with
  | none => .error (.code .access)
  | some p =>
    if !s.accessOk p false t n then .error (.code .access)
    else match (s.core c).fetchOf (.issue t n) with
      | some r => if r.left = 0 then .ok (Memory.readBytes r.data 0 n) else .error (.need t n)
      | none => .error (.need t n)

/-- The running form of the segments without NONE: their variant table entries read and checked (R195). -/
def segsOf (c : CoreId) (t : SegTable) (s : State) : List (W16 × Nat × Nat × Bool) → Except ReadFail (List Seg)
  | [] => .ok []
  | (v, lo, hi, none?) :: r =>
    if none? then segsOf c t s r
    else if t.vcount ≤ v.toNat then .error (.code .access)
    else match s.adapterBytes c (t.vtbase + 32 * v.toNat) 32 with
      | .error e => .error e
      | .ok bs =>
        let rank := field bs 0x14 2
        if rank = 0 ∨ 64 < rank then .error (.code .descFormat)
        else match segsOf c t s r with
          | .error e => .error e
          | .ok more => .ok (⟨v, lo, hi, BitVec.ofNat 64 (field bs (8 * t.part) 8), BitVec.ofNat 32 (field bs 0x10 4)⟩ :: more)

def MsegRun.buf (m : MsegRun) (n : Nat) : Nat := if n = 0 then m.buf0 else m.buf1
def Core.abuf (k : Core) (n : Nat) : Option AdapterTag := if n = 0 then k.abuf0 else k.abuf1
def Core.setAbuf (k : Core) (n : Nat) (t : Option AdapterTag) : Core :=
  if n = 0 then { k with abuf0 := t } else { k with abuf1 := t }

/-- Whether a buffer's tag names the adapter of a segment (R197). -/
def tagFits (m : MsegRun) (g : Seg) (t : AdapterTag) : Bool :=
  t.variant == g.variant && t.part == m.part && t.base == m.tb.addr && t.n == m.n && t.version == g.version

/-- The buffer that already holds a segment's adapter, loaded or loading. -/
def Core.bufferFor (k : Core) (m : MsegRun) (g : Seg) : Option Nat :=
  [0, 1].find? fun n => match k.abuf n with | some t => tagFits m g t | none => false

/-- The buffers that a list of segments would load, from buffer tags `t0`, `t1` and the buffer used last (R197). -/
def loadsOf (m : MsegRun) : List Seg → Option AdapterTag → Option AdapterTag → Nat → List Nat
  | [], _, _, _ => []
  | g :: gs, t0, t1, last =>
    let fits (t : Option AdapterTag) : Bool := match t with | some x => tagFits m g x | none => false
    let tag : AdapterTag := ⟨g.variant, m.part, m.tb.addr, m.n, g.version, true⟩
    if fits t0 then loadsOf m gs t0 t1 0
    else if fits t1 then loadsOf m gs t0 t1 1
    else if last = 0 then 1 :: loadsOf m gs t0 (some tag) 1
    else 0 :: loadsOf m gs (some tag) t1 0

/-- Bytes that an adapter takes in its buffer. -/
def MsegRun.span (m : MsegRun) : Nat := m.n * (capacity m.tb).getD 0

/-- Whether a buffer is recorded in the replay log of a bank's open tight run (R198). -/
def Bank.logsRange (b : Bank) (a n : Nat) : Bool :=
  b.replay.any fun e => e.pairs.any fun p => overlap64 p.b (64 + e.tb.plen) a n

/-- The pairs of a segment with its adapter in buffer `n` (R196). -/
def MsegRun.pairsOf (m : MsegRun) (a : Nat) (g : Seg) (n : Nat) : List PairIn :=
  (pairAddrs a (m.buf n) ((capacity m.ta).getD 0) ((capacity m.tb).getD 0) m.n).map fun p =>
    { a := p.1, b := p.2, rowLo := g.rowLo, rowHi := g.rowHi, hi := m.ta.cols.toNat }

/-- Adds the pairs of a segment to the log entries that the mseg opened (spec/03 R112, spec/08 R305). -/
def Core.logSegment (k : Core) (m : MsegRun) (ps : List PairIn) : Core :=
  let e := k.logEnt m.ta m.tb false m.ftz ps
  let grow (l : List LogEnt) : List LogEnt :=
    match l.getLast? with
    | some x => l.dropLast ++ [{ x with pairs := x.pairs ++ e.pairs }]
    | none => l
  let b := k.bank m.bank
  k.setBank m.bank
    { b with replay := if b.tight then grow b.replay else b.replay
             clog := if b.cover = some true ∧ m.logged then grow b.clog else b.clog }

/-- Bytes that an mseg needs as it issues are asked for once; the instruction waits for them. -/
def State.need (s : State) (c : CoreId) (a n : Nat) : Res :=
  let k := s.core c
  let s := if (k.fetchOf (.issue a n)).isSome then s else s.askFor c (.issue a n) 0 [(a, n, 0)] k.pc k.seq
  .stall s (if farAddr a then 3 else 2)

/-- The tile-slot address of adapter tile `i` of a segment (R196). -/
def MsegRun.tileAddr (m : MsegRun) (g : Seg) (i : Nat) : W64 := g.entry + m.tb.addr + BitVec.ofNat 64 (4096 * i)

/-- The place of adapter tile `i` of a segment. -/
def State.adapterPlace (s : State) (c : CoreId) (m : MsegRun) (g : Seg) (i : Nat) : TilePlace :=
  s.tilePlace c false (m.tileAddr g i) 64

/-- The requests for the tiles of a segment's adapter. -/
def State.adapterReqs (s : State) (c : CoreId) (m : MsegRun) (g : Seg) : List (Nat × Nat × Nat) :=
  let cap := (capacity m.tb).getD 0
  (List.range m.n).flatMap fun i => (s.adapterPlace c m g i).reqs cap (i * cap)

/-- Starts the load of a segment's adapter in buffer `n`, whose own reads are over, unless writes to it must wait (R197). -/
def State.startLoad (s : State) (c : CoreId) (m : MsegRun) (g : Seg) (n : Nat) : State :=
  let s := s.updCore c fun k => { k with pends := k.pends.filter fun p => !(p.owner == .stage && p.lo == m.buf n) }
  match s.forWrite c (m.buf n) m.span with
  | .ok s =>
    let s := s.updCore c fun k =>
      (k.setAbuf n (some ⟨g.variant, m.part, m.tb.addr, m.n, g.version, false⟩)).pend ⟨true, m.buf n, m.span, .abuf n⟩
    let reqs := s.adapterReqs c m g
    if reqs.isEmpty then s else s.askFor c (.adapter n) (m.buf n) reqs m.pc m.seq
  | .stopped s => s
  | .wait s _ => s

/-- Makes sure that a segment's adapter is in a buffer or on its way to one, `n` being the buffer it would load. -/
def State.fetchSeg (s : State) (c : CoreId) (m : MsegRun) (g : Seg) (n : Nat) : State :=
  if ((s.core c).bufferFor m g).isSome then s else s.startLoad c m g n

/-- The other of two buffers. -/
def otherBuf (n : Nat) : Nat := if n = 0 then 1 else 0

/-- Runs segments while their adapters are in their buffers; the next segment's adapter loads meanwhile, in the buffer that
the preceding one does not use (R197). `fuel` bounds the segments left. -/
def segsGo (c : CoreId) (a : Nat) : Nat → State → State
  | 0, s => s
  | fuel + 1, s =>
    match (s.core c).mseg with
    | none => s
    | some m =>
      match m.segs with
      | [] => s.updCore c Core.endMseg
      | g :: gs =>
        let s := s.fetchSeg c m g (otherBuf m.last)
        match (s.core c).bufferFor m g with
        | none => s
        | some n =>
          let s := match gs with
            | [] => s
            | h :: _ => s.fetchSeg c m h (otherBuf n)
          if !(((s.core c).abuf n).any fun t => t.loaded) then s
          else
            let ps := m.pairsOf a g n
            let r : RunIn := { owner := c, dst := c, bank := m.bank, ta := m.ta, tb := m.tb, ftz := m.ftz, eater := some c }
            match runPairs r ps (s.updCore c fun k => (k.logSegment m ps).pend ⟨false, m.buf n, m.span, .stage⟩) with
            | .full => s
            | .fault t code _ => t.failMseg c m code
            | .ok t => segsGo c a fuel (t.updCore c fun k => { k with mseg := some { m with segs := gs, last := n } })

/-- EXPHI of the cartouches at translated addresses; one that cannot be read bounds nothing. -/
def hiAll (s : State) (c : CoreId) : List Nat → Except ReadFail (List W16)
  | [] => .ok []
  | a :: as =>
    match hiAll s c as with
    | .error e => .error e
    | .ok hs =>
      match s.adapterBytes c a 64 with
      | .ok bs => .ok ((Cart.parse bs).exphi :: hs)
      | .error (.need a n) => .error (.need a n)
      | .error _ => .ok (0x8000 :: hs)

/-- The largest bound over the pairs of every segment, from the adapters' own cartouches (R103, R105). -/
def State.msegBound (s : State) (c : CoreId) (m : MsegRun) (a : Nat) : Except ReadFail (Option Int) :=
  let hiA (i : Nat) : W16 := (Cart.parse ((s.core c).loadBytes (a + i * (capacity m.ta).getD 0) 64)).exphi
  let slots := m.segs.flatMap fun g => (List.range m.n).map fun i => s.cartAddr (s.translate (m.tileAddr g i).toNat)
  match hiAll s c slots with
  | .error e => .error e
  | .ok hs =>
    let all := (m.segs.flatMap fun _ => (List.range m.n).map hiA).zip hs
    if all.any fun x => x.1 == 0x8000 || x.2 == 0x8000 then .ok none
    else match all.map fun x => sInt x.1 + sInt x.2 + 1 with
      | [] => .ok none
      | x :: r => .ok (some (r.foldl max x))

/-- The bank at the issue of an mseg: its kind, its datum, its log entries without pairs. One whose segments are all NONE
adds nothing and begins no run. -/
def Core.openMseg (k : Core) (m : MsegRun) (pb : Option Int) : Core :=
  let int := isIntRun m.ta m.tb false
  let k := k.decideCover m.bank m.ta m.tb
  let b := k.bank m.bank
  let b := if int then b else b.fixDatum pb
  let b := if m.segs.isEmpty then b else b.begin int
  k.setBank m.bank (b.log ⟨m.ta, m.tb, false, m.ftz, []⟩)

/-- Forces what the loads of an mseg into the buffers at these offsets would overtake (R202). -/
def forBuffers (c : CoreId) (n : Nat) : List Nat → State → Forced
  | [], s => .ok s
  | b :: bs, s =>
    match s.forWrite c b n with
    | .ok s => forBuffers c n bs s
    | x => x

/-- The checks of R195 to R198 after the operands', then the run. -/
def msegRun (c : CoreId) (k : Core) (ab : Nat) (da db : Desc) (n a g : Nat) (s : State) : Res :=
  let t := segTable (k.loadBytes g 64)
  let rows := segRows 0 t.segs
  let bad (b : Nat) : Bool := b % 64 != 0 || decide (storeSize < b + t.bufcap)
  if !k.clean g 64 then .fault s .csumAtUse dNone
  else if 1 < t.part ∨ da.rows.toNat < (rows.map fun r => r.2.2.1 - r.2.1).foldl (· + ·) 0 then .fault s .descFormat dNone
  else if bad t.buf0 || bad t.buf1 || db.addr.toNat % 4096 != 0 then .fault s .access dNone
  else if t.bufcap < n * (capacity db).getD 0 then .fault s .descBounds dNone
  else match segsOf c t s rows with
    | .error (.code e) => .fault s e dNone
    | .error (.need a n) => s.need c a n
    | .ok segs =>
      let m : MsegRun :=
        { bank := ab, ta := da, tb := db, n := n, part := t.part, buf0 := t.buf0, buf1 := t.buf1, segs := segs, last := 1
          logged := decide ((k.bank ab).clog.length < 32), ftz := k.ftz, pc := k.pc, seq := k.seq }
      match (k.bank ab).refuses (isIntRun da db false) with
      | some e => .fault s e (dBank ab)
      | none =>
        let loads := (loadsOf m segs k.abuf0 k.abuf1 1).eraseDups
        if (k.bank ab).tight && loads.any fun i => (k.bank ab).logsRange (m.buf i) m.span then
          .fault s .descFormat (dBank ab)
        else
          match (if (k.bank ab).fixed || isIntRun da db false then .ok none else s.msegBound c m a) with
          | .error (.need a n) => s.need c a n
          | .error (.code e) => .fault s e dNone
          | .ok pb =>
            (forBuffers c m.span (loads.map m.buf) s).andThen fun s =>
              let s := s.updCore c fun k =>
                let k := k.openMseg m pb
                ({ k with stage := some .instr, mseg := some m
                          remotes := k.remotes.filter fun r => match r.use with | .issue _ _ => false | _ => true } : Core).pend
                  ⟨false, a, n * (capacity da).getD 0, .stage⟩
              .ok (segsGo c a (segs.length + 1) s)

def execMseg (c : CoreId) (ab ta tb gs : Reg) (n1 : BitVec 4) (s : State) : Host.Outcome State Fault Refusal :=
  issue c 8 [gs] (fun k =>
    if badBank ab || badT ta || badT tb || !s.feature featVariant then .fault s .featureUnsupported dNone
    else
      let n := n1.toNat + 1
      let da := k.desc ta
      let db := k.desc tb
      match macOperands c da db n true with
      | .error e => .fault s e (dDesc ta)
      | .ok (a, _) =>
        match tileOff (k.gr gs) with
        | none => .fault s .access dNone
        | some g =>
          stageFree c s fun s =>
            match k.operandBar a (n * (capacity da).getD 0) g 64 with
            | some cause => .stall s cause
            | none => msegRun c k ab.toNat da db n a g s) s

/-- The first `n` tiles of a segment's adapter, checked as by tld; their bytes have come in `data`, those of the own store
are read there (R196, R197). -/
def adapterTiles (c : CoreId) (s : State) (m : MsegRun) (g : Seg) (data : Sparse Byte) :
    Nat → Except FCode (List (List Byte × List Byte))
  | 0 => .ok []
  | n + 1 =>
    match adapterTiles c s m g data n with
    | .error e => .error e
    | .ok ts =>
      let cap := (capacity m.tb).getD 0
      match s.adapterPlace c m g n with
      | .bad => .error .access
      | .own a =>
        match (s.core c).readTile a cap with
        | .ok x => .ok (ts ++ [x])
        | .error e => .error e
      | _ =>
        let cart := Memory.readBytes data (n * cap) 64
        match tileAccept cap cart (Memory.readBytes data (n * cap + 64)) with
        | .ok payload => .ok (ts ++ [(cart, payload)])
        | .error e => .error e

/-- Places the tiles of an adapter in buffer `n`: the load is over. -/
def Core.placeAdapter (k : Core) (m : MsegRun) (n : Nat) (t : AdapterTag) (ts : List (List Byte × List Byte)) : Core :=
  let k := ts.zipIdx.foldl (fun k p => k.landTile (m.buf n + p.2 * (capacity m.tb).getD 0) p.1.1 p.1.2) k
  let k := { k with remotes := k.remotes.filter fun (r : Remote) => r.use != RemoteUse.adapter n }
  (k.unpend (.abuf n)).setAbuf n (some { t with loaded := true })

/-- A buffer finishes loading: its tiles lie in core store, and segments that wait for it run. A load that could not start
before starts now; one whose answers are outstanding, or whose buffer is held for triangulation (spec/08 R306), is not
finished. -/
def execAdapterLoadDone (c : CoreId) (buf : Nat) (s : State) : Host.Outcome State Fault Refusal :=
  match (s.core c).mseg with
  | none => .next s
  | some m =>
    let a := (ownOff c m.ta.addr.toNat).getD 0
    let s := segsGo c a (m.segs.length + 1) s
    let k := s.core c
    match k.mseg, k.abuf buf with
    | some m, some t =>
      match m.segs.find? fun g => tagFits m g t with
      | none => .next s
      | some g =>
        if t.loaded || k.fetching (.adapter buf) || k.triHeld (m.buf buf) m.span then .next s
        else
          let data := ((k.fetchOf (.adapter buf)).map (·.data)).getD []
          match adapterTiles c s m g data m.n with
          | .error e => .next (s.failMseg c m e)
          | .ok ts => .next (segsGo c a (m.segs.length + 1) (s.updCore c fun k => k.placeAdapter m buf t ts))
    | _, _ => .next s

/-! ### The deferred queue (R199 to R202) -/

def execMdefer (c : CoreId) (ab ta tb : Reg) (lp nosteal : Bool) (wp : W16) (n1 : BitVec 4) (s : State) :
    Host.Outcome State Fault Refusal :=
  issue c 8 [] (fun k =>
    if badBank ab || badT ta || badT tb then .fault s .featureUnsupported dNone
    else if 64 ≤ k.entries.length + k.lent.length then .stall s 8
    else
      let n := n1.toNat + 1
      let da := k.desc ta
      let db := k.desc tb
      let b := k.bank ab.toNat
      match macOperands c da db n false with
      | .error e => .fault s e (dDesc ta)
      | .ok (a, bo) =>
        let an := n * (capacity da).getD 0
        let bn := n * (capacity db).getD 0
        match k.operandBar a an bo bn with
        | some cause => .stall s cause
        | none =>
          let queued := ((k.entries ++ k.lent).filter fun e => e.bank == ab.toNat && !e.started).length
          if b.otherKind (isIntRun da db lp) then .fault s .formatMismatch (dBank ab.toNat)
          else if !b.fixed || (b.tight && decide (32 ≤ b.replay.length + queued)) then
            .fault s .descFormat (dBank ab.toNat)
          else
            .ok (s.updCore c fun k =>
              let k := k.decideCover ab.toNat da db
              let k := k.setBank ab.toNat ((k.bank ab.toNat).begin (isIntRun da db lp))
              let e : Defer :=
                { id := k.uid, bank := ab.toNat, ta := da, tb := db, n := n, lp := lp, nosteal := nosteal, wp := wp
                  ftz := k.ftz, started := false, progress := 0, pc := k.pc, seq := k.seq }
              (({ k with uid := k.uid + 1, defq := k.defq ++ [e] } : Core).pend ⟨false, a, an, .defer e.id⟩).pend
                ⟨false, bo, bn, .defer e.id⟩)) s

/-- Whether an issued matrix instruction waits for the operand stage (R201). -/
def Core.matrixWaits (k : Core) : Bool := k.stall == some 9

/-- The entry that a free operand stage takes: the oldest forced one; with none, the oldest one unless a matrix instruction
waits (R201, R202). -/
def Core.nextEntry (k : Core) : Option Defer :=
  match k.defq.find? (·.forced) with
  | some e => some e
  | none => if k.matrixWaits then none else k.defq.head?

/-- A queued entry takes the free operand stage (R201). -/
def execDeferEntryStart (c : CoreId) (s : State) : Host.Outcome State Fault Refusal :=
  let k := s.core c
  if k.stage.isSome || k.mseg.isSome || k.repeatLeft != 0 then .next s
  else match k.nextEntry with
    | none => .next s
    | some e =>
      match s.startEntry c e with
      | .full => .next s
      | .fault t code det => .next ((t.updCore c fun k => k.dropEntry e.id).raise c e.pc e.seq det code code.cls)
      | .ok t =>
        .next (t.updCore c fun k =>
          { k with defq := k.defq.filter (·.id != e.id), stage := some (.deferred { e with started := true }) })

/-- Products of an entry that have entered the cells after some cycles of its run (R185). -/
def Defer.after (e : Defer) (covered : Bool) (cycles : Nat) : Nat :=
  let t := e.progress + (if covered then cycles * 16 / 17 else cycles) / passes e.ta.fmt e.tb.fmt
  if t < e.total then t else e.total

/-- A running entry that has not been forced yields to a matrix instruction that waits, at a multiple of 16 cycles of its
run, and resumes from the same product (R201). -/
def execDeferYield (c : CoreId) (cycles : Nat) (s : State) : Host.Outcome State Fault Refusal :=
  let k := s.core c
  match k.stage with
  | some (.deferred e) =>
    if cycles % 16 ≠ 0 ∨ e.forced ∨ !k.matrixWaits then .next s
    else
      let hi := e.after ((k.bank e.bank).cover == some true) cycles
      match runPairs (e.runIn c) (e.pairs c e.progress hi) s with
      | .full => .next s
      | .fault t code det => .next ((t.updCore c fun k => k.dropEntry e.id).raise c e.pc e.seq det code code.cls)
      | .ok t =>
        if hi = e.total then .next (t.updCore c fun k => k.dropEntry e.id)
        else .next (t.updCore c fun k => { k with stage := none, defq := { e with progress := hi } :: k.defq })
  | _ => .next s

/-- The operand stage frees: the reads of the running instruction end, or the running entry completes (R184). -/
def execOperandStageFrees (c : CoreId) (s : State) : Host.Outcome State Fault Refusal :=
  let k := s.core c
  match k.stage with
  | some .instr =>
    if k.mseg.isSome then .next s else .next (s.updCore c fun k => ({ k with stage := none } : Core).unpend .stage)
  | some (.deferred e) => .next ((s.runEntry c e).getD s)
  | none => .next s

/-! ### Work stealing (R203 to R205) -/

/-- The steal bank. -/
def stealBank : Nat := 4

/-- Whether an entry may be stolen. -/
def Core.stealable (k : Core) (e : Defer) : Bool := !e.nosteal && !e.forced && !e.started && !(k.bank e.bank).tight

/-- The steal bank as a thief sets it up: the datum and the coverage of the victim's bank. -/
def Bank.forSteal (b : Bank) : Bank :=
  { force := b.force, written := b.written, datum := b.datum, fixed := b.fixed, cover := b.cover }

def execSteal (thief victim : CoreId) (s : State) : Host.Outcome State Fault Refusal :=
  let t := s.core thief
  let v := s.core victim
  match s.partOf thief with
  | none => .next s
  | some p =>
    if thief = victim ∨ s.partOf victim ≠ some p ∨ !(s.part p).steal ∨ !s.feature featSteal ∨ t.run ≠ .running
        ∨ t.triHold ∨ t.repeatLeft ≠ 0 ∨ !t.defq.isEmpty ∨ t.stage.isSome ∨ t.mseg.isSome ∨ t.stolen.isSome ∨ v.entries.length < 2 then .next s
    else match v.defq.find? v.stealable with
      | none => .next s
      | some e =>
        let take (s : State) : State := s.updCore victim fun k => { k with defq := k.defq.filter (·.id != e.id) }
        let fail (s : State) (code : FCode) (det : Byte) : State :=
          ((take s).updCore victim fun k => k.unpend (.defer e.id)).raise victim e.pc e.seq det code code.cls
        if s.svr.closed.contains (.core victim) then .next (fail s .isolated dNone)
        else match (v.bank e.bank).refuses (isIntRun e.ta e.tb e.lp) with
        | some code => .next (fail s code (dBank e.bank))
        | none =>
          let ps := e.pairs victim 0 e.total
          let s1 := s.updCore thief fun k =>
            let b := (v.bank e.bank).forSteal
            k.setBank stealBank
              ((b.begin (isIntRun e.ta e.tb e.lp)).log (v.logEnt e.ta e.tb e.lp e.ftz ps))
          let r : RunIn := { owner := victim, dst := thief, bank := stealBank, ta := e.ta, tb := e.tb, ftz := e.ftz, eater := some victim }
          match runPairs r ps s1 with
          | .full => .next s
          | .fault s2 code det => .next (fail (s2.updCore thief fun k => k.setBank stealBank {}) code det)
          | .ok s2 =>
            .next (((take s2).updCore victim fun k => { k with lent := k.lent ++ [e] }).updCore thief fun k =>
              { k with stolen := some ⟨victim, e⟩ })

def execStealMerge (thief : CoreId) (s : State) : Host.Outcome State Fault Refusal :=
  let t := s.core thief
  match t.stolen with
  | none => .next s
  | some x =>
    let s := if !(s.core x.victim).lent.any (·.id == x.entry.id) then s else s.updCore x.victim fun k =>
      ({ k.setBank x.entry.bank ((k.bank x.entry.bank).merge (t.bank stealBank)) with
         lent := k.lent.filter (·.id != x.entry.id) } : Core).unpend (.defer x.entry.id)
    .next (s.updCore thief fun k => { k.setBank stealBank {} with stolen := none })

end Sys2Proof.Machine
end

