-- ==== Sys2Proof/Machine/Overlay.lean ====
section
/-! DEFINITION. The comparison of overlay digests and records with the partner's (spec/11 R425 to R427). -/

namespace Sys2Proof.Machine

/-- The digest that an OVD packet carries. -/
def ovlDigOf (p : Packet) : OvlDig :=
  ⟨BitVec.ofNat 32 (extField p 0x2C 4), extField p 0x30 4, extField p 0x34 4, BitVec.ofNat 32 (extField p 0x38 4)⟩

/-- Whether a packet comes from the partition's overlay partner. -/
def State.fromPartner (s : State) (part : Nat) (p : Packet) : Bool := s.overlayOn part && p.smod == s.ovlPeer part

def execOvd (part : Nat) (p : Packet) (s : State) : Host.Outcome State Fault Refusal :=
  if p.typ ≠ .ovd ∨ !s.fromPartner part p then .next s
  else match s.arrive p with
  | none => .next s
  | some s =>
    let d := ovlDigOf p
    let k := p.dst.toNat
    let s := s.updOvl part k fun o =>
      { o with peer := o.peer.filter (fun x => !(x.step == d.step && x.block == d.block)) ++ [d] }
    let s := s.ovlCompare part k d.step d.block
    .next (if k < 0xFF00 then s else s.drainResults part (k % 256))

/-- The first ordinal from `n` of a block at which own records and the partner's differ, with the own record. `last`
tells that the partner has no more records after `theirs`. -/
def firstDiff (own : List OvlRec) (last : Bool) : Nat → List (List Byte) → Option (Option OvlRec)
  | n, [] => if last then (own.find? fun r => decide (n ≤ r.ordinal)).map some else none
  | n, b :: bs =>
    match own.find? fun r => r.ordinal == n with
    | none => some none
    | some r => if r.key = b.take 8 then firstDiff own last (n + 1) bs else some (some r)

/-- Raises OVERLAY_DIVERGED: core, TENSOR, step and tick of the own record. The step runs no further. -/
def State.diverged (s : State) (part k : Nat) (step : W32) (r : Option OvlRec) : State :=
  let tensor : W64 := match r with | some x => x.tensor.setWidth 64 | none => 0xFFFFFFFF
  let tick := match r with | some x => x.tick | none => s.tick
  (s.eventAt { code := .overlayDiverged, cls := .job, part := some part, core := some k, step := step, tick := tick
               detail := tensor }).finishStep part (.fault .overlayDiverged) true

def execOvr (part : Nat) (p : Packet) (s : State) : Host.Outcome State Fault Refusal :=
  if p.typ ≠ .ovr ∨ !s.fromPartner part p then .next s
  else match s.arrive p with
  | none => .next s
  | some s =>
    let d := ovlDigOf p
    let k := p.dst.toNat
    let o := s.ovl part k
    let here (x : OvlDig) : Bool := x.step == d.step && x.block == d.block
    if !o.mine.any here then .next s
    else
      let own := o.recs.filter fun r => ovlBlock r == (d.step, d.block)
      let bs := (List.range (p.payload.length / 16)).map fun i => (p.payload.drop (16 * i)).take 16
      match firstDiff own p.last (64 * d.block + p.off.toNat / 16) bs with
      | none => .next s
      | some r =>
        -- the block is reported once
        .next ((s.updOvl part k fun o => { o with mine := o.mine.filter fun x => !here x }).diverged part k d.step r)

end Sys2Proof.Machine
end

