-- ==== Sys2Proof/Machine/Registers.lean ====
section
/-! DEFINITION. Control space: what each register reads, and what a write does (spec/16). -/

namespace Sys2Proof.Machine

/-! ### Fields -/

/-- The sum of fields, each a value at a bit place. -/
def packed (fs : List (Nat × Nat)) : W64 := BitVec.ofNat 64 (fs.foldl (fun v f => v + f.1 * 2 ^ f.2) 0)

/-- 64-bit word `n` of a feature word. -/
def featWord (b : BitVec 256) (n : Nat) : W64 := (b >>> (64 * n)).setWidth 64

/-- Feature word `b` with its 64-bit word `n` replaced. -/
def setFeatWord (b : BitVec 256) (n : Nat) (v : W64) : BitVec 256 :=
  (b &&& ~~~((BitVec.allOnes 64).setWidth 256 <<< (64 * n))) ||| (v.setWidth 256 <<< (64 * n))

def PortState.code : PortState → Nat
  | .down => 0
  | .training => 1
  | .up4 => 2
  | .up2 => 3
  | .degrading => 4
  | .lost => 5

def PortUse.code : PortUse → Nat
  | .unused => 0
  | .inUse => 1
  | .dark => 2
  | .mismatched => 3

def Cage.code : Cage → Nat
  | .empty => 0
  | .unpowered => 1
  | .refused => 2
  | .accepted => 3

def Lock.code : Lock → Nat
  | .free => 0
  | .acquiring => 1
  | .locked => 2
  | .holdover => 3

def LaunchState.code : LaunchState → Nat
  | .none => 0
  | .pending => 1
  | .launched => 2
  | .refused => 3

def QState.code : QState → Nat
  | .disabled => 0
  | .running => 1
  | .stopped => 2

/-! ### Reading, block by block (Tables 16-2 to 16-10); `a` is the slot's offset within the block -/

/-- SVR_POSITION, SVR_SERVICE, SVR_SECURITY (Tables 15-2, 15-8, 15-9). -/
def Surveyor.position (v : Surveyor) : W64 :=
  packed [(v.lValid.toNat, 47), (v.lModid.toNat, 32), (v.chainMoved.toNat, 31), (v.lEepromBad.toNat, 30),
    (v.chainBad.toNat, 29), (v.lRack.toNat, 16), (v.chainCnt.toNat, 8), (v.lStraps.toNat, 3), (v.lSlot.toNat, 0)]
def Surveyor.service (v : Surveyor) : W64 :=
  packed [(v.portout.toNat, 52), (v.sheetout.toNat, 32), (v.sweep.toNat, 16), (v.stackout.toNat, 8)]
def Surveyor.security (v : Surveyor) : W64 :=
  packed [(v.fwver.toNat, 32), (v.svn.toNat, 24), (v.dbgLevel.toNat, 10), (v.romAgent.toNat, 9), (v.image.toNat, 8)]

/-- SVR_PART_p_CFG: STEAL reads 0 while the feature is absent (Table 16-11). -/
def State.partCfg (s : State) (p : Nat) : W64 :=
  let v : W64 := (s.part p).cfg.setWidth 64
  if s.feature featSteal then v else v &&& ~~~2

def State.readSvr (s : State) (a : Nat) : W64 :=
  if a = 0 then s.svr.position
  else if a = 8 then s.svr.service
  else if a = 0x10 then s.svr.security
  else if 0x1000 ≤ a ∧ a < 0x1800 then
    let p := (a - 0x1000) / 0x80
    let o := (a - 0x1000) % 0x80
    if o = 0 then s.partCfg p
    else if o < 0x48 then Sparse.get 0 (s.part p).idle (o / 8 - 1)
    else if o = 0x48 then (s.part p).cycles
    else 0
  else 0

/-- MER_STATUS (Table 11-3). -/
def State.merStatus (s : State) : W64 :=
  let seen := match s.mer.edgeAt with | some t => decide (s.now - t ≤ 10000000) | none => false
  packed [(s.mer.offsetPs.toNat, 32), (s.mer.delay.toNat, 16), (s.mer.stepped.toNat, 9), (seen.toNat, 8),
    (s.mer.lock.code, 0)]

def State.readMer (s : State) (a : Nat) : W64 :=
  if a = 0 then packed [(s.mer.bref.toNat, 13), (s.mer.upport.toNat, 8), (s.mer.role.toNat, 0)]
  else if a = 8 then s.merStatus
  else if a = 0x10 then s.mer.count
  else if 0x1000 ≤ a ∧ a < 0x1200 then
    let x := s.part ((a - 0x1000) / 0x20)
    match a % 0x20 with
    | 0 => x.launch
    | 8 => packed [(x.wref.toNat, 2), (x.lstate.code, 0)]
    | 0x10 => x.ctick
    | _ => 0
  else 0

/-- PWR_FIXED: EN reads 0 while the feature is absent (Table 11-7). -/
def State.pwrFixed (s : State) : W64 :=
  let f := s.pwr.fixed
  packed [(f.bcause.toNat, 10), (f.broken.toNat, 9), (f.active.toNat, 8), (f.step.toNat, 4),
    ((f.en && s.feature featFixed).toNat, 0)]

def State.readPwr (s : State) (a : Nat) : W64 :=
  let p := s.pwr
  if a = 0 then packed [(s.limitCode, 12), (s.granted.toNat, 8), (p.req.toNat, 0)]
  else if a = 8 then p.cap.setWidth 64
  else if a = 0x10 then
    packed [(p.meas.toNat, 48), (p.est.toNat, 32), (p.tjmax.toNat, 24), (p.clim.toNat, 21), (p.tlim.toNat, 18),
      (p.throt.toNat, 7), (p.sensflag.toNat, 6), (p.measure.toNat, 5)]
  else if a = 0x18 then s.pwrFixed
  else if a = 0x20 then p.total
  else if a = 0x28 then p.unattr
  else if 0x1000 ≤ a ∧ a < 0x1080 then (s.part ((a - 0x1000) / 8)).energy
  else if 0x2000 ≤ a ∧ a < 0x2800 then (s.queue ((a - 0x2000) / 8)).energy
  else 0

/-- FAB_PORT_n_STATUS (Table 9-11) and FAB_PORT_n_CNT (Table 9-13). -/
def Port.status (o : Port) : W64 :=
  packed [(o.peer.toNat, 49), (o.peerv.toNat, 48), (o.peerport.toNat, 44), (o.pkind.toNat, 43), (o.lanes.toNat, 36),
    (o.lanefail.toNat, 32), (o.use.code, 12), (o.cage.code, 8), (o.state.code, 0)]
def Port.counters (o : Port) : W64 :=
  packed [(o.replays.toNat, 48), (o.uncorr.toNat, 32), (o.darkdisc.toNat, 16)]

def State.readFab (s : State) (a : Nat) : W64 :=
  if a = 0 then packed [(s.fab.firstbad.toNat, 24), (s.fab.missing.toNat, 8), (s.fab.extra.toNat, 0)]
  else if 0x1000 ≤ a ∧ a < 0x1180 then
    let o := s.port ((a - 0x1000) / 0x20)
    match a % 0x20 with
    | 0 => o.status
    | 8 => o.counters
    | _ => 0
  else if 0x2000 ≤ a ∧ a < 0x2200 then
    let x := s.part ((a - 0x2000) / 0x20)
    match a % 0x20 with
    | 0 => x.ctab
    | 8 => x.gtab
    | 0x10 => x.grec
    | _ => 0
  else 0

/-- CHK_PART_p_CFG: SURVEY reads 0 while the feature is absent (Table 8-5). -/
def State.chkCfg (s : State) (p : Nat) : W64 :=
  let x := s.part p
  packed [(x.cwp.toNat, 48), (x.smdelay.toNat, 32), (if s.feature featSurvey then x.surveyRate.toNat else 0, 0)]

def State.readChk (s : State) (a : Nat) : W64 :=
  if 0x1000 ≤ a ∧ a < 0x1800 then
    let p := (a - 0x1000) / 0x80
    let x := s.part p
    let o := a % 0x80
    if o = 0 then s.chkCfg p
    else if o = 8 then x.commitWord
    else if o = 0x10 then x.ccell
    else if 0x18 ≤ o ∧ o < 0x38 then Sparse.get 0 x.survey (o / 8 - 3)
    else if o = 0x38 then (if s.feature featOverlay then x.ovlCfg else 0)
    else if o = 0x40 then x.ovlBuf
    else 0
  else 0

/-- BKP_LOG_n_INFO (Table 13-5). -/
def LogEpisode.info (e : LogEpisode) : W64 :=
  packed [(e.seq.toNat, 32), (e.defer.toNat, 16), (e.incomplete.toNat, 12), (e.start.toNat, 10), (e.causes.toNat, 0)]

/-- The crash record (Table 13-3), zeros when the domain holds none. -/
def Crash.bytes (c : Crash) : List Byte :=
  if !c.written then List.replicate 512 0
  else
    let body : List Byte := [if c.valid then 1 else 0, c.code, c.cause, c.count] ++ leBytes 2 c.core.toNat ++ [c.part, 0]
      ++ leBytes 4 c.step.toNat ++ leBytes 4 c.fwver.toNat ++ leBytes 8 c.tick.toNat ++ leBytes 8 c.detail.toNat
      ++ (List.range 476).map (Config.crashTrace c.no)
    body ++ leBytes 4 (crc32c body).toNat

def Backup.read (b : Backup) (a : Nat) : W64 :=
  if 0x100 ≤ a ∧ a < 0x300 then
    let e := Sparse.get {} b.log ((a - 0x100) / 0x10)
    if a % 0x10 = 0 then e.info else e.tick
  else if 0x400 ≤ a ∧ a < 0x480 then
    match b.poison[(a - 0x400) / 8]? with
    | some p => p ||| 1
    | none => 0
  else if 0x1000 ≤ a ∧ a < 0x1200 then BitVec.ofNat 64 (leNat ((b.crash.bytes.drop (a - 0x1000)).take 8))
  else match a with
    | 0 => b.start.setWidth 64
    | 0x10 => b.logHead.setWidth 64
    | 0x18 => b.cold.setWidth 64
    | 0x20 => b.warm.setWidth 64
    | 0x28 => b.uncorr.setWidth 64
    | 0x30 => b.thermal.setWidth 64
    | 0x38 => b.wdog.setWidth 64
    | _ => 0

/-- A function's mailbox and event ring (Table 12-14). -/
def State.readFunc (s : State) (f a : Nat) : W64 :=
  let x := s.func f
  if a < 0x20 then featWord (s.offer f) (a / 8)
  else if a < 0x40 then featWord x.accept (a / 8 - 4)
  else match a with
    | 0x40 => packed [(x.mstate.toNat, 1)]
    | 0x100 => x.evBase
    | 0x108 => packed [(x.evVector.toNat, 8), (x.elog.toNat, 0)]
    | 0x110 => x.evHead.setWidth 64
    | 0x118 => x.lost.setWidth 64
    | _ => 0

/-- A queue's registers (Tables 12-11 to 12-13). -/
def Queue.read (u : Queue) (o : Nat) : W64 :=
  match o with
  | 0 => u.base
  | 8 => u.jbase
  | 0x10 => packed [(u.vector.toNat, 32), (u.func.toNat, 22), (u.ahead.toNat, 16), (u.logsz.toNat, 8), (u.en.toNat, 0)]
  | 0x18 => u.nextseq
  | 0x20 => u.tail.setWidth 64
  | 0x28 => u.jhead.setWidth 64
  | 0x30 => packed [(u.head.toNat, 48), (u.jtail.toNat, 31), (u.seqerr.toNat, 8), (u.state.code, 0)]
  | _ => 0

/-- Whether function `f` reaches queue `q` (R436, Table 16-9). -/
def State.reaches (s : State) (f q : Nat) : Bool := f == 0 || (s.queue q).func.toNat == f

def State.readHq (s : State) (f a : Nat) : W64 :=
  if a < 0x120 then s.readFunc f a
  else if 0x4000 ≤ a ∧ a < 0x8000 then
    let q := (a - 0x4000) / 0x40
    if s.reaches f q then (s.queue q).read (a % 0x40) else 0
  else if f ≠ 0 then 0
  else if a = 0x200 then s.host.wlog.setWidth 64
  else if 0x300 ≤ a ∧ a < 0x380 then (s.func ((a - 0x300) / 8 + 1)).wbase
  else 0

/-- MEM_STACK_n_STATUS (Table 7-6). -/
def StackStat.read (t : StackStat) : W64 :=
  packed [(t.cecnt.toNat, 48), (t.spares.toNat, 32), (t.poison.toNat, 24), (t.train.toNat, 4), (t.selfref.toNat, 3),
    (t.mismatch.toNat, 2), (t.retiring.toNat, 1), (t.nospare.toNat, 0)]

def State.readMem (s : State) (a : Nat) : W64 :=
  if a = 0 then s.mem.tileCfg
  else if 0x100 ≤ a ∧ a < 0x140 then (s.stack ((a - 0x100) / 8)).read
  else if 0x10000 ≤ a ∧ a < 0x20000 then
    let k := (a - 0x10000) / 0x10
    if a % 0x10 = 0 then Sparse.get 0 s.mem.rgn0 k else Sparse.get 0 s.mem.rgn1 k
  else 0

/-- What the 8-byte slot at control-space offset `a` reads (R531, R532), as function `f` reaches it: a VF has its
register page only (Table 12-10). -/
def State.readReg (s : State) (f a : Nat) : W64 :=
  if f ≠ 0 then s.readHq f a
  else
    let o := a % 0x10000
    match a / 0x10000 with
    | 0 => s.readSvr o
    | 1 => s.readMer o
    | 2 => s.readPwr o
    | 3 => if o = 0 then s.rstStatus else 0
    | 4 => s.readFab o
    | 5 => s.readChk o
    | 6 => s.bkp.read o
    | 0x10 => s.readHq 0 o
    | 0x100 => s.readMem o
    | 0x101 => s.readMem (o + 0x10000)
    | _ => 0

/-! ### Writing (R533 to R536) -/

/-- A written word: `nv` the slot with the written half replaced, `w1` the bits that were written as 1, `wc` those of them
that clear a W1C bit: a bit that hardware set in the same cycle stays set (spec/00 R12). -/
structure Written where
  nv : W64
  w1 : W64
  wc : W64
  deriving DecidableEq, Repr

/-- Fields of SVR_PART_p_CFG. -/
def partCfgMask : W32 := 0xFF03

/-- Whether two enabled rectangles share a sheet. -/
def rectsMeet (v w : W32) : Bool := (List.range 16).any fun sh => cfgHas v sh && cfgHas w sh

/-- Whether a write to SVR_PART_p_CFG is discarded (R538). -/
def State.cfgRefused (s : State) (p : Nat) (v : W32) : Bool :=
  (s.part p).job.isSome
  || (v.getLsbD 0 && (decide (cfgCol1 v < cfgCol0 v) || decide (cfgRow1 v < cfgRow0 v)
    || (List.range 16).any fun q => q != p && (s.part q).en && rectsMeet v (s.part q).cfg))

def execSvrPartCfgWrite (part : Nat) (v : W64) (s : State) : Host.Outcome State Fault Refusal :=
  let c : W32 := v.setWidth 32 &&& partCfgMask
  if s.rst.inReset ∨ 16 ≤ part ∨ s.cfgRefused part c then .next s
  else
    let c := if s.feature featSteal then c else (c &&& ~~~2) ||| ((s.part part).cfg &&& 2)
    .next (s.updPart part fun x => { x with cfg := c })

def State.writeSvr (s : State) (a : Nat) (w : Written) : Host.Outcome State Fault Refusal :=
  if a = 0 then .next (s.updSvr fun v => { v with chainMoved := v.chainMoved && !w.wc.getLsbD 31 })
  else if a = 8 then .next (s.requestSweep ((w.w1 >>> 16).setWidth 16))
  else if 0x1000 ≤ a ∧ a < 0x1800 ∧ a % 0x80 = 0 then execSvrPartCfgWrite ((a - 0x1000) / 0x80) w.nv s
  else .next s

def State.writeMer (s : State) (a : Nat) (w : Written) : Host.Outcome State Fault Refusal :=
  if a = 0 then execMerCfgWrite w.nv s
  else if a = 8 then .next (s.updMer fun m => { m with stepped := m.stepped && !w.wc.getLsbD 9 })
  else if a = 0x18 then execMerSet w.nv s
  else if 0x1000 ≤ a ∧ a < 0x1200 then
    let p := (a - 0x1000) / 0x20
    match a % 0x20 with
    | 0 => execMerPartLaunchWrite p w.nv s
    | 8 => .next (s.updPart p fun x => { x with wref := x.wref && !w.wc.getLsbD 2 })
    | _ => .next s
  else .next s

def State.writePwr (s : State) (a : Nat) (w : Written) : Host.Outcome State Fault Refusal :=
  match a with
  | 0 => execPwrStepWrite w.nv s
  | 8 => execPwrCapWrite w.nv s
  | 0x10 => .next (if w.wc.getLsbD 6 && s.pwr.sensflag then s.updPwr Power.clearFlag else s)
  | 0x18 => execPwrFixedWrite ((w.nv &&& ~~~0x200) ||| (w.w1 &&& 0x200)) s
  | _ => .next s

/-- Low six bits are reserved in the table addresses. -/
def tableAddr (v : W64) : W64 := v &&& ~~~0x3F

def State.writeFab (s : State) (a : Nat) (w : Written) : State :=
  if 0x1000 ≤ a ∧ a < 0x1180 ∧ a % 0x20 = 0 then
    s.updPort ((a - 0x1000) / 0x20) fun o => { o with lanefail := o.lanefail &&& ~~~((w.wc >>> 32).setWidth 4) }
  else if 0x2000 ≤ a ∧ a < 0x2200 then
    let p := (a - 0x2000) / 0x20
    if (s.part p).job.isSome then s
    else match a % 0x20 with
      | 0 => s.updPart p fun x => { x with ctab := tableAddr w.nv }
      | 8 => s.updPart p fun x => { x with gtab := tableAddr w.nv }
      | 0x10 => s.updPart p fun x => { x with grec := tableAddr w.nv }
      | _ => s
  else s

/-- CHK_PART_p_CFG: SMDELAY at least 100; SURVEY ignores writes while the feature is absent. -/
def Part.chkCfg (x : Part) (v : W64) (survey : Bool) : Part :=
  let d : W16 := (v >>> 32).setWidth 16
  { x with
    cwp := (v >>> 48).setWidth 16, smdelay := if d.toNat < 100 then 100 else d
    surveyRate := if survey then v.setWidth 2 else x.surveyRate }

def State.writeChk (s : State) (a : Nat) (w : Written) : State :=
  if a < 0x1000 ∨ 0x1800 ≤ a then s
  else
    let p := (a - 0x1000) / 0x80
    let o := a % 0x80
    if (s.part p).job.isSome then s
    else if o = 0 then s.updPart p fun x => x.chkCfg w.nv (s.feature featSurvey)
    else if o = 0x10 then (if w.nv.toNat % 8 = 0 then s.updPart p fun x => { x with ccell := w.nv } else s)
    else if 0x18 ≤ o ∧ o < 0x38 then s.updPart p fun x => { x with survey := Sparse.put 0 x.survey (o / 8 - 3) w.nv }
    else if o = 0x38 then
      (if s.feature featOverlay then s.updPart p fun x => { x with ovlCfg := w.nv &&& 0x7FFF00F1 } else s)
    else if o = 0x40 then s.updPart p fun x => { x with ovlBuf := w.nv &&& ~~~0xFFF }
    else s

/-- BKP_CTL (Table 13-4). -/
def State.bkpCtl (s : State) (v : W64) : Host.Outcome State Fault Refusal :=
  let clear (s : State) : Host.Outcome State Fault Refusal := if v.getLsbD 0 then execBkpCtlClrcnt s else .next s
  if v.getLsbD 1 then
    match execBkpCtlClrlog s with
    | .next t => clear t
    | o => o
  else clear s

def State.writeFunc (s : State) (f a : Nat) (w : Written) : State :=
  if 0x20 ≤ a ∧ a < 0x40 then
    s.updFunc f fun x => { x with accept := setFeatWord x.accept (a / 8 - 4) w.nv }
  else match a with
    | 0x40 => if w.w1.getLsbD 0 then s.negotiate f else s
    | 0x100 => s.updFunc f fun x => { x with evBase := w.nv &&& ~~~0xFFF }
    | 0x108 => s.evtCfg f w.nv
    | 0x110 => s.evtHead f w.nv
    | _ => s

/-- HQ_Q_q_CFG (Table 12-12): the fields, then EN. -/
def State.queueCfg (s : State) (f q : Nat) (v : W64) : State :=
  let s := s.updQueue q fun u => { u with
    vector := (v >>> 32).setWidth 8
    func := if f = 0 ∧ !u.en then (v >>> 22).setWidth 5 else u.func
    ahead := (v >>> 16).setWidth 4
    logsz := if 10 < ((v >>> 8).setWidth 4).toNat then 10 else (v >>> 8).setWidth 4 }
  if v.getLsbD 0 then s.enableQueue q else s.disableQueue q

def State.writeQueue (s : State) (f q o : Nat) (w : Written) : Host.Outcome State Fault Refusal :=
  let off := !(s.queue q).en
  match o with
  | 0 => .next (if off then s.updQueue q fun u => { u with base := w.nv &&& ~~~0xFFF } else s)
  | 8 => .next (if off then s.updQueue q fun u => { u with jbase := w.nv &&& ~~~0xFFF } else s)
  | 0x10 => .next (s.queueCfg f q w.nv)
  | 0x18 => .next (if off then s.updQueue q fun u => { u with nextseq := w.nv } else s)
  | 0x20 => execHqQTailWrite q w.nv s
  | 0x28 => execHqQJheadWrite q w.nv s
  | 0x30 => .next (s.updQueue q fun u => { u with seqerr := u.seqerr && !w.wc.getLsbD 8 })
  | _ => .next s

def State.writeHq (s : State) (f a : Nat) (w : Written) : Host.Outcome State Fault Refusal :=
  if a < 0x120 then .next (s.writeFunc f a w)
  else if 0x4000 ≤ a ∧ a < 0x8000 then
    let q := (a - 0x4000) / 0x40
    if s.reaches f q then s.writeQueue f q (a % 0x40) w else .next s
  else if f ≠ 0 then .next s
  else if a = 0x200 then
    let g := (w.nv.setWidth 6).toNat
    if s.host.numVfs = 0 ∧ 30 ≤ g ∧ g ≤ 39 then .next (s.updHost fun h => { h with wlog := BitVec.ofNat 6 g }) else .next s
  else if 0x300 ≤ a ∧ a < 0x380 then
    .next (s.updFunc ((a - 0x300) / 8 + 1) fun x => { x with wbase := w.nv &&& 0xFFFFFFFFC0000000 })
  else .next s

def State.writeMem (s : State) (a : Nat) (w : Written) : Host.Outcome State Fault Refusal :=
  if a = 0 then execMemTileCfgWrite w.nv s
  else if 0x10000 ≤ a ∧ a < 0x20000 then
    let k := (a - 0x10000) / 0x10
    execRegionTableWrite (k / 256) (k % 256) (a % 0x10 != 0) w.nv s
  else .next s

/-- A write to the 8-byte slot at offset `a`; a VF's page shows the slots of the host-queue block. -/
def State.writeReg (s : State) (f a : Nat) (w : Written) : Host.Outcome State Fault Refusal :=
  let w : Written := { w with wc := s.clears (if f = 0 then a else 0x100000 + a) w.w1 }
  if f ≠ 0 then s.writeHq f a w
  else
    let o := a % 0x10000
    match a / 0x10000 with
    | 0 => s.writeSvr o w
    | 1 => s.writeMer o w
    | 2 => s.writePwr o w
    | 4 => .next (s.writeFab o w)
    | 5 => .next (s.writeChk o w)
    | 6 => if o = 8 then s.bkpCtl w.w1 else .next s
    | 0x10 => s.writeHq 0 o w
    | 0x100 => s.writeMem o w
    | 0x101 => s.writeMem (o + 0x10000) w
    | _ => .next s

/-- The slot's register within the host-queue block: a VF's page is laid out like it (Table 12-10). -/
def hqOffset (f a : Nat) : Option Nat := if f ≠ 0 then some a else if a / 0x10000 = 0x10 then some (a % 0x10000) else none

/-- Registers that ignore 4-byte writes (R533). -/
def needs8 (f a : Nat) : Bool :=
  match hqOffset f a with
  | some o => o == 0x40 || (decide (0x4000 ≤ o) && decide (o < 0x8000) && o % 0x40 == 0x10)
  | none => a == 0x10018 || (decide (0x11000 ≤ a) && decide (a < 0x11200) && a % 0x20 == 0) || a == 0x60008

/-- Registers whose fields that a write acts on all lie in bits 31:0; a 4-byte write to their upper half has none. -/
def lowOnly (f a : Nat) : Bool :=
  match hqOffset f a with
  | some o => (decide (0x108 ≤ o) && decide (o < 0x300))
      || (decide (0x4000 ≤ o) && decide (o < 0x8000) && (o % 0x40 == 0x20 || o % 0x40 == 0x28))
  | none => decide (a < 0x40000) || a == 0x1000000

/-- A control-space write of `size` bytes at offset `off` by function `f` (R533): any other size or alignment is an
Unsupported Request. -/
def execRegisterWrite (func : Nat) (off : Nat) (size : Nat) (v : W64) (s : State) : Host.Outcome State Fault Refusal :=
  if s.rst.inReset ∨ !s.host.linkUp ∨ (func ≠ 0 ∧ !s.vfOn func) then .next s
  else if !(size = 8 ∧ off % 8 = 0) ∧ !(size = 4 ∧ off % 4 = 0) then .next (s.respond (.bar func none))
  else
    let a := off / 8 * 8
    if size = 8 then s.writeReg func a ⟨v, v, 0⟩
    else if needs8 func a then .next s
    else
      let cur := s.readReg func a
      let lo : W64 := 0xFFFFFFFF
      if off % 8 = 0 then s.writeReg func a ⟨(cur &&& ~~~lo) ||| (v &&& lo), v &&& lo, 0⟩
      else if lowOnly func a then .next s
      else s.writeReg func a ⟨(cur &&& lo) ||| (v <<< 32), v <<< 32, 0⟩

end Sys2Proof.Machine
end

