-- ==== Sys2Proof/Machine/Scalar.lean ====
section
/-! DEFINITION. Scalar instructions (spec/04 R139 to R142, Tables 4-5 and 4-6). -/

namespace Sys2Proof.Machine

/-- An ALU function of two registers. -/
def alu (c : CoreId) (rd ra rb : Reg) (f : W64 → W64 → W64) (s : State) : Host.Outcome State Fault Refusal :=
  issue c 4 [rd, ra, rb] (fun _ => .ok (s.updCore c fun k => k.setG rd (f (k.gr ra) (k.gr rb)))) s

/-- An operation of a register and a sign-extended immediate. -/
def aluImm (c : CoreId) (rd ra : Reg) (imm : BitVec 11) (f : W64 → W64 → W64) (s : State) :
    Host.Outcome State Fault Refusal :=
  issue c 4 [rd, ra] (fun _ => .ok (s.updCore c fun k => k.setG rd (f (k.gr ra) (imm.signExtend 64)))) s

def bit64 (b : Bool) : W64 := if b then 1 else 0

def mulh64 (a b : W64) : W64 := BitVec.ofInt 64 (a.toInt * b.toInt / 2 ^ 64)
def mulhu64 (a b : W64) : W64 := BitVec.ofNat 64 (a.toNat * b.toNat / 2 ^ 64)
/-- R139: a divide by zero gives all ones; −2^63 ÷ −1 gives −2^63. -/
def div64 (a b : W64) : W64 := if b = 0 then BitVec.allOnes 64 else BitVec.ofInt 64 (a.toInt.tdiv b.toInt)
def divu64 (a b : W64) : W64 := if b = 0 then BitVec.allOnes 64 else BitVec.ofNat 64 (a.toNat / b.toNat)
/-- R139: a remainder by zero is the dividend; it takes the sign of the dividend. -/
def rem64 (a b : W64) : W64 := if b = 0 then a else BitVec.ofInt 64 (a.toInt.tmod b.toInt)
def remu64 (a b : W64) : W64 := if b = 0 then a else BitVec.ofNat 64 (a.toNat % b.toNat)
def clz64 (a : W64) : W64 := if a = 0 then 64 else BitVec.ofNat 64 (63 - Nat.log2 a.toNat)
def popc64 (a : W64) : W64 := BitVec.ofNat 64 ((List.range 64).filter fun i => a.getLsbD i).length

def execAdd (c : CoreId) (rd ra rb : Reg) (s : State) := alu c rd ra rb (fun a b => a + b) s
def execSub (c : CoreId) (rd ra rb : Reg) (s : State) := alu c rd ra rb (fun a b => a - b) s
def execAnd (c : CoreId) (rd ra rb : Reg) (s : State) := alu c rd ra rb (fun a b => a &&& b) s
def execOr (c : CoreId) (rd ra rb : Reg) (s : State) := alu c rd ra rb (fun a b => a ||| b) s
def execXor (c : CoreId) (rd ra rb : Reg) (s : State) := alu c rd ra rb (fun a b => a ^^^ b) s
def execSll (c : CoreId) (rd ra rb : Reg) (s : State) := alu c rd ra rb (fun a b => a <<< (b.toNat % 64)) s
def execSrl (c : CoreId) (rd ra rb : Reg) (s : State) := alu c rd ra rb (fun a b => a >>> (b.toNat % 64)) s
def execSra (c : CoreId) (rd ra rb : Reg) (s : State) := alu c rd ra rb (fun a b => a.sshiftRight (b.toNat % 64)) s
def execSlt (c : CoreId) (rd ra rb : Reg) (s : State) := alu c rd ra rb (fun a b => bit64 (a.slt b)) s
def execSltu (c : CoreId) (rd ra rb : Reg) (s : State) := alu c rd ra rb (fun a b => bit64 (a.ult b)) s
def execMin (c : CoreId) (rd ra rb : Reg) (s : State) := alu c rd ra rb (fun a b => if a.slt b then a else b) s
def execMax (c : CoreId) (rd ra rb : Reg) (s : State) := alu c rd ra rb (fun a b => if a.slt b then b else a) s
def execMinu (c : CoreId) (rd ra rb : Reg) (s : State) := alu c rd ra rb (fun a b => if a.ult b then a else b) s
def execMaxu (c : CoreId) (rd ra rb : Reg) (s : State) := alu c rd ra rb (fun a b => if a.ult b then b else a) s
def execMul (c : CoreId) (rd ra rb : Reg) (s : State) := alu c rd ra rb (fun a b => a * b) s
def execMulh (c : CoreId) (rd ra rb : Reg) (s : State) := alu c rd ra rb mulh64 s
def execMulhu (c : CoreId) (rd ra rb : Reg) (s : State) := alu c rd ra rb mulhu64 s
def execDiv (c : CoreId) (rd ra rb : Reg) (s : State) := alu c rd ra rb div64 s
def execDivu (c : CoreId) (rd ra rb : Reg) (s : State) := alu c rd ra rb divu64 s
def execRem (c : CoreId) (rd ra rb : Reg) (s : State) := alu c rd ra rb rem64 s
def execRemu (c : CoreId) (rd ra rb : Reg) (s : State) := alu c rd ra rb remu64 s

/-- clz and popc ignore rb. -/
def alu1 (c : CoreId) (rd ra : Reg) (f : W64 → W64) (s : State) : Host.Outcome State Fault Refusal :=
  issue c 4 [rd, ra] (fun _ => .ok (s.updCore c fun k => k.setG rd (f (k.gr ra)))) s

def execClz (c : CoreId) (rd ra _rb : Reg) (s : State) := alu1 c rd ra clz64 s
def execPopc (c : CoreId) (rd ra _rb : Reg) (s : State) := alu1 c rd ra popc64 s

def execAddi (c : CoreId) (rd ra : Reg) (imm : BitVec 11) (s : State) := aluImm c rd ra imm (fun a b => a + b) s
def execAndi (c : CoreId) (rd ra : Reg) (imm : BitVec 11) (s : State) := aluImm c rd ra imm (fun a b => a &&& b) s
def execOri (c : CoreId) (rd ra : Reg) (imm : BitVec 11) (s : State) := aluImm c rd ra imm (fun a b => a ||| b) s
def execXori (c : CoreId) (rd ra : Reg) (imm : BitVec 11) (s : State) := aluImm c rd ra imm (fun a b => a ^^^ b) s
def execSlli (c : CoreId) (rd ra : Reg) (imm : BitVec 11) (s : State) :=
  aluImm c rd ra imm (fun a b => a <<< (b.toNat % 64)) s
def execSrli (c : CoreId) (rd ra : Reg) (imm : BitVec 11) (s : State) :=
  aluImm c rd ra imm (fun a b => a >>> (b.toNat % 64)) s
def execSrai (c : CoreId) (rd ra : Reg) (imm : BitVec 11) (s : State) :=
  aluImm c rd ra imm (fun a b => a.sshiftRight (b.toNat % 64)) s
def execSlti (c : CoreId) (rd ra : Reg) (imm : BitVec 11) (s : State) := aluImm c rd ra imm (fun a b => bit64 (a.slt b)) s
def execSltiu (c : CoreId) (rd ra : Reg) (imm : BitVec 11) (s : State) :=
  aluImm c rd ra imm (fun a b => bit64 (a.ult b)) s

/-- li: EXT, sign-extended. -/
def execLi (c : CoreId) (rd : Reg) (ext : W32) (s : State) : Host.Outcome State Fault Refusal :=
  issue c 8 [rd] (fun _ => .ok (s.updCore c fun k => k.setG rd (ext.signExtend 64))) s

/-- lih: EXT above ra[31:0]. -/
def execLih (c : CoreId) (rd ra : Reg) (ext : W32) (s : State) : Host.Outcome State Fault Refusal :=
  issue c 8 [rd, ra] (fun _ => .ok (s.updCore c fun k => k.setG rd (ext ++ (k.gr ra).setWidth 32))) s

/-! ### Loads and stores -/

/-- The local offset of an access, natural alignment and range checked (R140). -/
def localOff (a : W64) (n : Nat) : Option Nat :=
  if a.toNat % n = 0 ∧ a.toNat < storeSize then some a.toNat else none

/-- A read of the core's own store by a scalar load. -/
def localRead (c : CoreId) (rd : Reg) (op : LoadOp) (a : Nat) (k : Core) (s : State) : Res :=
  match k.readBar a (loadSize op) with
  | some cause => .stall s cause
  | none =>
    if !k.clean a (loadSize op) then .fault s .csumAtUse dNone
    else .ok (s.updCore c fun k => k.setG rd (loadExtend op (k.store.readLE a (loadSize op))))

/-- A write of the core's own store by a scalar store. -/
def localWrite (c : CoreId) (a : Nat) (bs : List Byte) (s : State) : Res :=
  (s.forWrite c a bs.length).andThen fun s => .ok (s.updCore c fun k => k.storeBytes a bs)

def execLocalLoad (c : CoreId) (op : LoadOp) (rd ra : Reg) (imm : BitVec 11) (s : State) :
    Host.Outcome State Fault Refusal :=
  issue c 4 [rd, ra] (fun k =>
    match localOff (k.gr ra + imm.signExtend 64) (loadSize op) with
    | none => .fault s .access dNone
    | some a => localRead c rd op a k s) s

def execLocalStore (c : CoreId) (op : StoreOp) (rd ra : Reg) (imm : BitVec 11) (s : State) :
    Host.Outcome State Fault Refusal :=
  issue c 4 [rd, ra] (fun k =>
    match localOff (k.gr ra + imm.signExtend 64) (storeBytesOf op) with
    | none => .fault s .access dNone
    | some a => localWrite c a (leBytes (storeBytesOf op) (k.gr rd).toNat) s) s

/-- The own-store offset of a translated address in the core's own window. -/
def ownSpace (c : CoreId) (a : Nat) : Option Nat :=
  match spaceOf a with
  | .store d off => if d = c then some off else none
  | _ => none

/-- The address checks of a device access (R140, spec/07 R252 to R256, R268), on the translated address. -/
def State.devOk (s : State) (c : CoreId) (write : Bool) (a n : Nat) : Bool :=
  match s.partOf c with
  | none => false
  | some p => a % n == 0 && s.accessOk p write a n

/-- A device load asks the controller or core store that holds the address; its register is written by the answer. One of the
core's own store stays within the core (R132). -/
def execDeviceLoad (c : CoreId) (op : LoadOp) (rd ra : Reg) (ext : W32) (s : State) :
    Host.Outcome State Fault Refusal :=
  issue c 8 [rd, ra] (fun k =>
    let n := loadSize op
    let a := s.translate (k.gr ra + ext.signExtend 64).toNat
    if !s.devOk c false a n then .fault s .access dNone
    else match ownSpace c a with
      | some off => localRead c rd op off k s
      | none => .ok (s.askFor c (.load rd op) a [(a, n, 0)] k.pc k.seq)) s

/-- A device store; an INK region holds it until the core's most recent conversion epoch is inked (R141, spec/08
R319). -/
def execDeviceStore (c : CoreId) (op : StoreOp) (rd ra : Reg) (ext : W32) (s : State) :
    Host.Outcome State Fault Refusal :=
  issue c 8 [rd, ra] (fun k =>
    let n := storeBytesOf op
    let a := s.translate (k.gr ra + ext.signExtend 64).toNat
    let bs := leBytes n (k.gr rd).toNat
    if !s.devOk c true a n then .fault s .access dNone
    else if s.inkRegion ((s.partOf c).getD 16) a n && !k.allInked then
      if k.dependsDead k.epoch then .fault s .access dNone else .stall s 4
    else match ownSpace c a with
      | some off => localWrite c off bs s
      | none => .ok (s.putAt c [(a, bs)] (!k.allInked) k.pc k.seq)) s

/-! ### Branches and jumps (R142) -/

def condHolds (op : Cond) (a b : W64) : Bool :=
  match op with
  | .beq => a == b
  | .bne => a != b
  | .blt => a.slt b
  | .bge => !a.slt b
  | .bltu => a.ult b
  | .bgeu => !a.ult b

/-- A taken branch or jump to a target outside the store or not a multiple of 4 raises ACCESS. -/
def takeTo (s : State) (t : W64) (s' : State) : Res :=
  if t.toNat < storeSize ∧ t.toNat % 4 = 0 then .jump s' t.toNat else .fault s .access dNone

def execConditionalBranch (c : CoreId) (cond : Cond) (ra rb : Reg) (off : BitVec 11) (s : State) :
    Host.Outcome State Fault Refusal :=
  issue c 4 [ra, rb] (fun k =>
    if condHolds cond (k.gr ra) (k.gr rb) then takeTo s (k.pc.setWidth 64 + off.signExtend 64 * 4) s
    else .ok s) s

def execJal (c : CoreId) (rd : Reg) (ext : W32) (s : State) : Host.Outcome State Fault Refusal :=
  issue c 8 [rd] (fun k =>
    takeTo s (k.pc.setWidth 64 + (ext &&& 0xFFFFFFFC).signExtend 64)
      (s.updCore c fun k => k.setG rd (k.pc.setWidth 64 + 8))) s

def execJalr (c : CoreId) (rd ra : Reg) (imm : BitVec 11) (s : State) : Host.Outcome State Fault Refusal :=
  issue c 4 [rd, ra] (fun k =>
    takeTo s (k.gr ra + imm.signExtend 64 * 4) (s.updCore c fun k => k.setG rd (k.pc.setWidth 64 + 4))) s

end Sys2Proof.Machine
end

