-- ==== Sys2Proof/Machine/Waypoint.lean ====
section
/-! DEFINITION. Waypoints, ink waits and run-ahead (spec/04 R159 to R162, R170 to R172; spec/06 R236 to R246). -/

namespace Sys2Proof.Machine

/-! ### Instructions -/

/-- A packet from a core to the home block of a waypoint (R236). -/
def State.wpPacket (s : State) (c : CoreId) (typ : PType) (w : W16) : Packet :=
  { typ := typ, edge := 5, dst := BitVec.ofNat 16 (wpHomeCore w.toNat), src := BitVec.ofNat 16 c, smod := s.modId, wpid := w }

/-- Whether the local waypoint is homed in the partition of core `c`: its router discards a packet to any other (R233). -/
def State.mayName (s : State) (c : CoreId) (w : W16) : Bool :=
  match s.partOf c with
  | some p => s.wpOk p w.toNat
  | none => false

/-- The low 16 bits of a register name a local waypoint. -/
def Core.wpReg (k : Core) (ra : Reg) : W16 := (k.gr ra).setWidth 16

def execWarm (c : CoreId) (ra rb : Reg) (inkreq : Bool) (ext : W32) (s : State) : Host.Outcome State Fault Refusal :=
  issue c 8 [ra, rb] (fun k =>
    let w := k.wpReg ra
    .ok (s.routed c (s.mayName c w)
      { s.wpPacket c .warm w with inkreq := inkreq, arg := (k.gr rb).setWidth 32, time := ext.setWidth 64 })) s

/-- Forces the deferred entries whose deadline is a local waypoint (spec/05 R202). -/
def State.forWaypoint (s : State) (c : CoreId) (w : W16) : Forced :=
  if w = 0xFFFF then .ok s else s.force c fun e => e.wp == w

def execWarr (c : CoreId) (ra : Reg) (s : State) : Host.Outcome State Fault Refusal :=
  issue c 4 [ra] (fun k =>
    let w := k.wpReg ra
    let slot := ((k.gr ra) >>> 16).toNat % 8
    if (k.gr ra).getLsbD 19 || slot == s.slot then
      (s.forWaypoint c w).andThen fun s =>
        .ok (s.routed c (s.mayName c w) (s.arrivalPacket c w (!(s.core c).allInked) (s.core c).epoch none))
    else match s.partOf c with
      | none => .fault s .access dNone
      | some p =>
        if (s.otherModules p).contains (s.boardPeer slot) then
          .ok (s.send { s.arrivalPacket c w (!k.allInked) k.epoch none with dlocal := false, dmod := s.boardPeer slot })
        else .fault s .access dNone) s

/-! ### Run-ahead (spec/04 R170, R171) -/

/-- What the window does with one decoded instruction. -/
inductive Ahead where
  | skip (len : Nat)
  | writesDesc (t : Reg) (len : Nat)
  | load (td ts : Reg)
  | jump (off : W32)
  | ends
  deriving DecidableEq, Repr

/-- Whether an encoding that Table 4-3 to 4-13 list raises FEATURE_UNSUPPORTED at issue whatever the registers hold: a
reserved register value, a selector that the instruction does not accept, an unlisted index (R138, R147, R163; spec/12 R453
for mseg). -/
def refusedForm (variant : Bool) : Instr → Bool
  | .tld _ td ts => badT td || badT ts
  | .tst _ td ts => badT td || badT ts
  | .tdl _ td _ _ => badT td
  | .tds _ td _ _ => badT td
  | .tset _ td _ sel => badT td || (dField sel).isNone
  | .tget _ _ ta sel => badT ta || (dField sel).isNone
  | .tadd _ td _ sel => badT td || !(dField sel).any taddField
  | .tcopy _ td ta => badT td || badT ta
  | .xsend _ _ ts _ _ _ => badT ts
  | .xrecv _ td _ => badT td
  | .xacc _ _ src _ tile _ _ => if tile then badT src else badBank src
  | .crr _ _ idx => (cReg idx).isNone
  | .crw _ _ idx => (cReg idx).isNone
  | .crs _ _ idx => (cReg idx).isNone
  | .crc _ _ idx => (cReg idx).isNone
  | .mclr _ ab => badBank ab
  | .mdat _ ab _ _ => badBank ab
  | .mmac _ ab ta tb _ _ => badBank ab || badT ta || badT tb
  | .mseg _ ab ta tb _ _ => badBank ab || badT ta || badT tb || !variant
  | .mcvt _ td ab _ _ _ nb _ _ => badT td || (mcvtBanks ab nb).isNone
  | .mdefer _ ab ta tb _ _ _ _ => badBank ab || badT ta || badT tb
  | .mrd _ vd ab rmsel _ _ => badBank ab || vd.toNat % 4 != 0 || rmsel == 3
  | .vlsum _ ab _ _ => badBank ab
  | .vupd _ vd _ tw _ _ _ => badT tw || vd.toNat % 4 != 0
  | .vcvt _ td _ _ _ _ _ => badT td
  | .vunpk _ _ ts => badT ts
  | _ => false

/-- R170: what ends the window, which descriptor an instruction writes. -/
def aheadOf (i : Instr) (len : Nat) : Ahead :=
  match i with
  | .conditionalBranch .. => .ends
  | .jalr .. => .ends
  | .wwait .. => .ends
  | .inkw .. => .ends
  | .fence _ => .ends
  | .ifence _ => .ends
  | .halt _ => .ends
  | .jal _ _ ext => .jump ext
  | .tld _ td ts => .load td ts
  | .tdl _ td _ _ => .writesDesc td len
  | .tset _ td _ _ => .writesDesc td len
  | .tadd _ td _ _ => .writesDesc td len
  | .tcopy _ td _ => .writesDesc td len
  | _ => .skip len

/-- A tld to prefetch: its source and landing descriptors' copies. -/
structure Fetch where
  src : W64
  td : Desc
  deriving DecidableEq, Repr

/-- The window from `pc`, at most `n` instructions, with the descriptors written so far: the tlds to prefetch, at most
`slots`. -/
def windowFrom (c : CoreId) (variant : Bool) (k : Core) (slots : Nat) : Nat → Nat → List Reg → List Fetch → List Fetch
  | 0, _, _, got => got
  | n + 1, pc, written, got =>
    if storeSize ≤ pc ∨ !k.clean pc 8 then got
    else
      let w : W32 := BitVec.ofNat 32 (k.store.readLE pc 4)
      match decodeCore c w (BitVec.ofNat 32 (k.store.readLE (pc + 4) 4)) with
      | none => got
      | some i =>
        if refusedForm variant i then got
        else
          let len := if longOf w = 1 then 8 else 4
          match aheadOf i len with
          | .ends => got
          | .skip l => windowFrom c variant k slots n (pc + l) written got
          | .writesDesc t l => windowFrom c variant k slots n (pc + l) (t :: written) got
          | .jump off => windowFrom c variant k slots n ((pc + (off &&& 0xFFFFFFFC).toNat) % 2 ^ 32) written got
          | .load td ts =>
            let a := (k.desc ts).addr
            let fits := !written.contains ts && (ownOff c a.toNat).isNone && decide (got.length < slots)
            windowFrom c variant k slots n (pc + 4) written (if fits then got ++ [⟨a, k.desc td⟩] else got)

def Core.raEn (k : Core) : Bool := k.ctl.rahead.getLsbD 8
def Core.raDepth (k : Core) : Nat := (k.ctl.rahead >>> 10).toNat % 64
def Core.raSlots (k : Core) : Nat := k.ctl.rahead.toNat % 16

/-- Fills slot `i`: its reads leave. One that a tld would fault, by its landing descriptor or its source, is abandoned
(R171). -/
def State.prefetch (s : State) (c : CoreId) (i : Nat) (f : Fetch) : State :=
  let k := s.core c
  match capacity f.td with
  | none => s
  | some cap =>
    match ownTile c f.td.addr cap, s.tilePlace c false f.src 64 with
    | none, _ => s
    | some _, .bad => s
    | some _, pl =>
      (s.updCore c fun k => { k with slots := k.slots ++ [⟨i, f.src, cap, none⟩] }).askFor c (.prefetch i) 0
        (pl.reqs cap 0) k.pc k.seq

/-- Starts run-ahead behind a wwait that stalls: earlier slots are freed (R172). -/
def State.runAhead (s : State) (c : CoreId) : State :=
  let k := s.core c
  if k.raEn then
    let fs := windowFrom c (s.feature featVariant) k k.raSlots k.raDepth (k.pc.toNat + 4) [] []
    fs.zipIdx.foldl (fun s f => s.prefetch c f.2 f.1) (s.updCore c Core.freeSlots)
  else s

/-! ### Waits -/

/-- The state that wtest reads (Table 6-4). -/
def WpState.num : WpState → W32
  | .unarmed => 0
  | .armed => 1
  | .complete => 2
  | .expired => 3

/-- wwait: WQRY leaves with CHAN 1, and the core waits. -/
def execWwait (c : CoreId) (ra : Reg) (s : State) : Host.Outcome State Fault Refusal :=
  issue c 4 [ra] (fun k =>
    let w := k.wpReg ra
    (s.forWaypoint c w).andThen fun s =>
      let st := (s.wp w.toNat).state
      let s := if st = .complete ∨ st = .expired then s else s.runAhead c
      let s := s.updCore c fun k => { k with wait := .wwait w, stall := some 0 }
      .park (s.routed c (s.mayName c w) { s.wpPacket c .wqry w with chan := 1 })) s

/-- wtest: WQRY leaves with CHAN 0; rd comes with the reply (R161). -/
def execWtest (c : CoreId) (rd ra : Reg) (s : State) : Host.Outcome State Fault Refusal :=
  issue c 4 [rd, ra] (fun k =>
    let w := k.wpReg ra
    .ok ((s.updCore c fun j => { j with wtests := j.wtests ++ [(w, rd, k.seq)] }).routed c (s.mayName c w)
      (s.wpPacket c .wqry w))) s

/-- inkw waits on the core's frontier (R162, spec/08 R314). -/
def execInkw (c : CoreId) (ra : Reg) (s : State) : Host.Outcome State Fault Refusal :=
  issue c 4 [ra] (fun k =>
    let e : W32 := if ra = 0 then k.epoch else (k.gr ra).setWidth 32
    if covers k.frontier e then .ok s else .stall s 4) s

/-- A woken or answered wwait ends (R160). -/
def State.endWait (s : State) (c : CoreId) (w : W16) (st : W32) : State :=
  let k := s.core c
  if k.wait = .wwait w then
    if st = 3 then
      (s.updCore c fun k => { k with wait := .none }).raise c k.pc k.seq dNone .waypointTimeout .job
    else s.updCore c fun k => { k with wait := .none }.retire (k.pc.toNat + 4)
  else s

/-! ### The home (R239 to R245) -/

def execWrsp (p : Packet) (s : State) : Host.Outcome State Fault Refusal :=
  match s.arrive p with
  | none => .next s
  | some s =>
    let c := p.dst.toNat
    if p.code = rcInkhold then
      let landed := extField p 0x30 1 == 1
      let prod : BitVec 15 × W16 × W32 := (BitVec.ofNat 15 (extField p 0x2E 2), BitVec.ofNat 16 (extField p 0x2C 2), p.epoch)
      let h : HeldArr :=
        { wp := p.wpid, dlocal := p.smod == s.modId, dmod := p.smod
          own := if landed && !(prod.1 == s.modId && prod.2.1.toNat == c) then none else some p.epoch
          producer := if landed && !(prod.1 == s.modId && prod.2.1.toNat == c) then some prod else none
          again := false }
      if (s.core c).run = .running ∨ (s.core c).run = .halted then
        let s := s.updCore c fun k => { k with heldArrs := k.heldArrs ++ [h] }
        .next (if h.producer.isSome then s.send (s.inkQuery (BitVec.ofNat 16 c) prod.1 prod.2.1 prod.2.2) else s)
      else .next s
    else if p.code ≠ rcOk then
      -- a refused arrival (spec/09 R341)
      .next (if coreExists c then s.raise c (s.core c).pc (s.core c).seq dNone .access .job else s)
    else if p.chan = 1 then .next (s.endWait c p.wpid p.arg)
    else match (s.core c).wtests.find? fun x => x.1 == p.wpid with
      | none => .next s
      | some x =>
        .next (s.updCore c fun k => { k with wtests := k.wtests.erase x }.setG x.2.1 (p.arg.setWidth 64))

/-- WDONE wakes every core that its sheet records as waiting, and the record ends; a core whose WQRY was answered, or has
not been applied, is not recorded (R244). -/
def execWdone (p : Packet) (s : State) : Host.Outcome State Fault Refusal :=
  match s.arrive p with
  | none => .next s
  | some s =>
    let sh := sheetOf p.dst.toNat
    let cs := (s.wp p.wpid.toNat).cores.filter fun c => sheetOf c == sh
    let s := s.updWp p.wpid.toNat fun x => { x with cores := x.cores.filter fun c => !cs.contains c }
    .next (cs.foldl (fun s c => s.endWait c p.wpid p.arg) s)

/-- WDONE to every sheet of WAITERS. -/
def State.wakeWaiters (s : State) (w : Nat) : State :=
  let x := s.wp w
  s.sendAll (((List.range 16).filter fun i => x.waiters.getLsbD i).map fun sh : Nat =>
    { typ := .wdone, rsp := true, edge := 5, dst := BitVec.ofNat 16 (sheetHome sh), src := 0xFFFF, smod := s.modId
      wpid := BitVec.ofNat 16 w, arg := x.state.num })

/-- R240 at tick `t`. -/
def Waypoint.arm (x : Waypoint) (t : Nat) (target : W32) (inkreq : Bool) (ext : Nat) : Waypoint :=
  { x with state := .armed, count := if x.state = .expired then 0 else x.count, target := target, inkreq := inkreq
           deadline := if ext = 0 then none else some (t + 1024 * ext) }

/-- R241: one accepted arrival. -/
def Waypoint.arrive (x : Waypoint) : Waypoint := { x with count := sat32 x.count }

/-- Whether R242 completes the waypoint. -/
def Waypoint.completes (x : Waypoint) : Bool := x.state == .armed && decide (x.target ≤ x.count)

/-- A WARM by which the reduction engine of a ring arms WPFREE names context and buffer: the buffer's arming stands from its
application on (spec/09 R373). -/
def State.ringArmed (s : State) (p : Packet) : State :=
  match s.sheetPart (wpHome p.wpid.toNat) with
  | some q =>
    if p.src = 0xFFFF then s.updColl q (p.msgid.toNat / 2 % 256) fun k => { k with arms := k.arms ++ [p.msgid.toNat % 2] }
    else s
  | none => s

/-- A completed WPFREE releases the buffer whose arming has stood longest (spec/09 R374; log 104). -/
def Coll.armingDone (k : Coll) : Coll := { k with arms := k.arms.drop 1, released := k.released ++ k.arms.take 1 }

/-- The contexts of a partition that use a waypoint as WPFREE. -/
def State.ringsOf (s : State) (q w : Nat) : List Nat :=
  (s.fab.colls.filter fun e => e.1 / 256 == q && e.2.arms != [] && e.2.desc.any fun d => d.wpfree.toNat == w).map fun e => e.1 % 256

def State.ringDone (s : State) (w : Nat) : State :=
  match s.sheetPart (wpHome w) with
  | some q => (s.ringsOf q w).foldl (fun s ctx => s.updColl q ctx Coll.armingDone) s
  | none => s

/-- R242 for one waypoint; WAITERS is then clear. -/
def State.completion (s : State) (w : Nat) : State :=
  if (s.wp w).completes then
    ((s.updWp w fun x => { x with state := .complete, count := x.count - x.target, deadline := none }).wakeWaiters w |>.updWp w
      fun x => { x with waiters := 0 }).ringDone w
  else s

/-- Whether R243 expires the waypoint at tick `t`. -/
def Waypoint.expires (x : Waypoint) (t : Nat) : Bool :=
  x.state == .armed && match x.deadline with
    | some d => decide (d ≤ t)
    | none => false

/-- R243 for one waypoint at the end of tick `t`: DEADLINE and WAITERS stay as they are. -/
def State.expiry (s : State) (t w : Nat) : State :=
  if (s.wp w).expires t then (s.updWp w fun x => { x with state := .expired }).wakeWaiters w else s

/-- What an earlier tick expired, when nothing has looked at the waypoint since. -/
def State.expiryBefore (s : State) (w : Nat) : State := if s.tick = 0 then s else s.expiry (s.tick.toNat - 1) w

/-- A WARM at the home. -/
def State.applyWarm (s : State) (p : Packet) : State :=
  (s.updWp p.wpid.toNat fun x => x.arm s.tick.toNat p.arg p.inkreq p.time.toNat).ringArmed p

/-- A WARR at the home: refused from a module outside the plan (R246), answered INKHOLD when pencilled at an INKREQ
waypoint (R245), otherwise counted. -/
def State.applyWarr (s : State) (p : Packet) : State :=
  let w := p.wpid.toNat
  match s.sheetPart (wpHome w) with
  | none => s
  | some q =>
    if p.smod != s.modId && !s.inPlan q p.smod then s.raiseJob q none .access .job
    else if p.pencil && (s.wp w).inkreq then
      s.send { s.reply p .wrsp rcInkhold with wpid := p.wpid, epoch := p.epoch, ext := p.ext, pencil := true }
    else s.updWp w Waypoint.arrive

/-- A WQRY at the home (R244): CHAN 1 registers a wait, at the home and on the core's sheet. -/
def State.applyWqry (s : State) (p : Packet) : State :=
  let x := s.wp p.wpid.toNat
  if p.chan = 1 ∧ x.state ≠ .complete ∧ x.state ≠ .expired then
    s.updWp p.wpid.toNat fun x =>
      { x with waiters := x.waiters ||| BitVec.ofNat 16 (2 ^ sheetOf p.src.toNat)
               cores := x.cores.filter (· != p.src.toNat) ++ [p.src.toNat] }
  else s.send { s.reply p .wrsp rcOk with wpid := p.wpid, arg := x.state.num }

/-- The packets of one type among those that reached a home, taken off the mesh. -/
def takeArrivals (typ : PType) (sheet : Nat) : List Packet → State → List Packet × State
  | [], s => ([], s)
  | p :: ps, s =>
    if p.typ = typ ∧ wpHome p.wpid.toNat = sheet then
      match s.arrive p with
      | some t => let r := takeArrivals typ sheet ps t; (p :: r.1, r.2)
      | none => takeArrivals typ sheet ps s
    else takeArrivals typ sheet ps s

/-- The waypoints of a sheet that hold anything. -/
def State.sheetWps (s : State) (sheet : Nat) : List Nat := (s.wps.map (·.1)).filter fun w => wpHome w == sheet

/-- R239: the packets that reached the home in this tick. Expiries of earlier ticks come first. -/
def execWaypointTick (sheet : Nat) (pkts : List Packet) (s : State) : Host.Outcome State Fault Refusal :=
  let s := (s.sheetWps sheet).foldl State.expiryBefore s
  let a := takeArrivals .warm sheet pkts s
  let s := a.1.foldl State.applyWarm a.2
  let b := takeArrivals .warr sheet pkts s
  let s := b.1.foldl State.applyWarr b.2
  let s := (s.sheetWps sheet).foldl State.completion s
  let s := (s.sheetWps sheet).foldl (fun s w => s.expiry s.tick.toNat w) s
  let q := takeArrivals .wqry sheet pkts s
  .next (q.1.foldl State.applyWqry q.2)

/-- The expiry test of one waypoint that no arrival has reached (R243): it comes once the deadline's tick has passed, so that
an arrival of that tick wins whenever it is listed (spec/11 R410). -/
def execWaypointExpiry (w : W16) (s : State) : Host.Outcome State Fault Refusal :=
  if (s.wp w.toNat).completes then .next s else .next (s.expiryBefore w.toNat)

/-- A held arrival is sent again once what it waits for is inked; a dead producer ends it with ACCESS (R245, spec/08
R319). An INKED answer clears `producer`. -/
def execInkholdResend (c : CoreId) (k : Nat) (s : State) : Host.Outcome State Fault Refusal :=
  let x := s.core c
  match x.heldArrs[k]? with
  | none => .next s
  | some h =>
    let drop (s : State) : State := s.updCore c fun j => { j with heldArrs := j.heldArrs.eraseIdx k }
    let deadOwn := match h.own with | some e => (s.ink c).isDead e || x.dependsDead e | none => false
    let ready := h.producer.isNone && match h.own with | some e => covers x.frontier e | none => true
    if deadOwn then .next ((drop s).raise c x.pc x.seq dNone .access .job)
    else if ready then
      .next ((drop s).send { s.arrivalPacket c h.wp false x.epoch none with dlocal := h.dlocal, dmod := h.dmod })
    else .next s

end Sys2Proof.Machine
end

