-- ==== Sys2Proof/Machine/Dispatch.lean ====
section
/-! DEFINITION. One arm per command. -/

namespace Sys2Proof.Machine

def exec (i : Instr) (s : State) : Host.Outcome State Fault Refusal :=
  match i with
  | .add c rd ra rb => Sys2Proof.Machine.execAdd c rd ra rb s
  | .sub c rd ra rb => Sys2Proof.Machine.execSub c rd ra rb s
  | .and c rd ra rb => Sys2Proof.Machine.execAnd c rd ra rb s
  | .or c rd ra rb => Sys2Proof.Machine.execOr c rd ra rb s
  | .xor c rd ra rb => Sys2Proof.Machine.execXor c rd ra rb s
  | .sll c rd ra rb => Sys2Proof.Machine.execSll c rd ra rb s
  | .srl c rd ra rb => Sys2Proof.Machine.execSrl c rd ra rb s
  | .sra c rd ra rb => Sys2Proof.Machine.execSra c rd ra rb s
  | .slt c rd ra rb => Sys2Proof.Machine.execSlt c rd ra rb s
  | .sltu c rd ra rb => Sys2Proof.Machine.execSltu c rd ra rb s
  | .min c rd ra rb => Sys2Proof.Machine.execMin c rd ra rb s
  | .max c rd ra rb => Sys2Proof.Machine.execMax c rd ra rb s
  | .minu c rd ra rb => Sys2Proof.Machine.execMinu c rd ra rb s
  | .maxu c rd ra rb => Sys2Proof.Machine.execMaxu c rd ra rb s
  | .mul c rd ra rb => Sys2Proof.Machine.execMul c rd ra rb s
  | .mulh c rd ra rb => Sys2Proof.Machine.execMulh c rd ra rb s
  | .mulhu c rd ra rb => Sys2Proof.Machine.execMulhu c rd ra rb s
  | .div c rd ra rb => Sys2Proof.Machine.execDiv c rd ra rb s
  | .divu c rd ra rb => Sys2Proof.Machine.execDivu c rd ra rb s
  | .rem c rd ra rb => Sys2Proof.Machine.execRem c rd ra rb s
  | .remu c rd ra rb => Sys2Proof.Machine.execRemu c rd ra rb s
  | .clz c rd ra rb => Sys2Proof.Machine.execClz c rd ra rb s
  | .popc c rd ra rb => Sys2Proof.Machine.execPopc c rd ra rb s
  | .addi c rd ra imm => Sys2Proof.Machine.execAddi c rd ra imm s
  | .andi c rd ra imm => Sys2Proof.Machine.execAndi c rd ra imm s
  | .ori c rd ra imm => Sys2Proof.Machine.execOri c rd ra imm s
  | .xori c rd ra imm => Sys2Proof.Machine.execXori c rd ra imm s
  | .slli c rd ra imm => Sys2Proof.Machine.execSlli c rd ra imm s
  | .srli c rd ra imm => Sys2Proof.Machine.execSrli c rd ra imm s
  | .srai c rd ra imm => Sys2Proof.Machine.execSrai c rd ra imm s
  | .slti c rd ra imm => Sys2Proof.Machine.execSlti c rd ra imm s
  | .sltiu c rd ra imm => Sys2Proof.Machine.execSltiu c rd ra imm s
  | .li c rd ext => Sys2Proof.Machine.execLi c rd ext s
  | .lih c rd ra ext => Sys2Proof.Machine.execLih c rd ra ext s
  | .localLoad c op rd ra imm => Sys2Proof.Machine.execLocalLoad c op rd ra imm s
  | .deviceLoad c op rd ra ext => Sys2Proof.Machine.execDeviceLoad c op rd ra ext s
  | .localStore c op rd ra imm => Sys2Proof.Machine.execLocalStore c op rd ra imm s
  | .deviceStore c op rd ra ext => Sys2Proof.Machine.execDeviceStore c op rd ra ext s
  | .conditionalBranch c cond ra rb off => Sys2Proof.Machine.execConditionalBranch c cond ra rb off s
  | .jal c rd ext => Sys2Proof.Machine.execJal c rd ext s
  | .jalr c rd ra imm => Sys2Proof.Machine.execJalr c rd ra imm s
  | .tld c td ts => Sys2Proof.Machine.execTld c td ts s
  | .tst c td ts => Sys2Proof.Machine.execTst c td ts s
  | .tdl c td ra imm => Sys2Proof.Machine.execTdl c td ra imm s
  | .tds c td ra imm => Sys2Proof.Machine.execTds c td ra imm s
  | .tset c td rb sel => Sys2Proof.Machine.execTset c td rb sel s
  | .tget c rd ta sel => Sys2Proof.Machine.execTget c rd ta sel s
  | .tadd c td rb sel => Sys2Proof.Machine.execTadd c td rb sel s
  | .tcopy c td ta => Sys2Proof.Machine.execTcopy c td ta s
  | .transferDone c id => Sys2Proof.Machine.execTransferDone c id s
  | .xsend c ra ts ch warr wp => Sys2Proof.Machine.execXsend c ra ts ch warr wp s
  | .xrecv c td ch => Sys2Proof.Machine.execXrecv c td ch s
  | .xacc c ra src bank tile warr wp => Sys2Proof.Machine.execXacc c ra src bank tile warr wp s
  | .mrts p => Sys2Proof.Machine.execMrts p s
  | .mgnt p => Sys2Proof.Machine.execMgnt p s
  | .mrtsRetry c msgid => Sys2Proof.Machine.execMrtsRetry c msgid s
  | .mdata p => Sys2Proof.Machine.execMdata p s
  | .cancel p => Sys2Proof.Machine.execCancel p s
  | .acc p => Sys2Proof.Machine.execAcc p s
  | .accrsp p => Sys2Proof.Machine.execAccrsp p s
  | .accRetry c msgid => Sys2Proof.Machine.execAccRetry c msgid s
  | .xaccApply c slot => Sys2Proof.Machine.execXaccApply c slot s
  | .warm c ra rb inkreq ext => Sys2Proof.Machine.execWarm c ra rb inkreq ext s
  | .warr c ra => Sys2Proof.Machine.execWarr c ra s
  | .wwait c ra => Sys2Proof.Machine.execWwait c ra s
  | .wtest c rd ra => Sys2Proof.Machine.execWtest c rd ra s
  | .inkw c ra => Sys2Proof.Machine.execInkw c ra s
  | .waypointTick sheet pkts => Sys2Proof.Machine.execWaypointTick sheet pkts s
  | .waypointExpiry w => Sys2Proof.Machine.execWaypointExpiry w s
  | .wrsp p => Sys2Proof.Machine.execWrsp p s
  | .wdone p => Sys2Proof.Machine.execWdone p s
  | .inkholdResend c k => Sys2Proof.Machine.execInkholdResend c k s
  | .crr c rd idx => Sys2Proof.Machine.execCrr c rd idx s
  | .crw c ra idx => Sys2Proof.Machine.execCrw c ra idx s
  | .crs c ra idx => Sys2Proof.Machine.execCrs c ra idx s
  | .crc c ra idx => Sys2Proof.Machine.execCrc c ra idx s
  | .fence c => Sys2Proof.Machine.execFence c s
  | .ifence c => Sys2Proof.Machine.execIfence c s
  | .halt c => Sys2Proof.Machine.execHalt c s
  | .prefetchFill c slot => Sys2Proof.Machine.execPrefetchFill c slot s
  | .mclr c ab => Sys2Proof.Machine.execMclr c ab s
  | .mdat c ab ra mask => Sys2Proof.Machine.execMdat c ab ra mask s
  | .mmac c ab ta tb lp n1 => Sys2Proof.Machine.execMmac c ab ta tb lp n1 s
  | .mseg c ab ta tb gs n1 => Sys2Proof.Machine.execMseg c ab ta tb gs n1 s
  | .adapterLoadDone c buf => Sys2Proof.Machine.execAdapterLoadDone c buf s
  | .mcvt c td ab rmsel hslot clr nb bound rstep => Sys2Proof.Machine.execMcvt c td ab rmsel hslot clr nb bound rstep s
  | .mdefer c ab ta tb lp nosteal wp n1 => Sys2Proof.Machine.execMdefer c ab ta tb lp nosteal wp n1 s
  | .deferEntryStart c => Sys2Proof.Machine.execDeferEntryStart c s
  | .deferYield c cycles => Sys2Proof.Machine.execDeferYield c cycles s
  | .operandStageFrees c => Sys2Proof.Machine.execOperandStageFrees c s
  | .steal thief victim => Sys2Proof.Machine.execSteal thief victim s
  | .stealMerge thief => Sys2Proof.Machine.execStealMerge thief s
  | .mrd c vd ab rmsel hslot clr => Sys2Proof.Machine.execMrd c vd ab rmsel hslot clr s
  | .mhd c ra rb slot => Sys2Proof.Machine.execMhd c ra rb slot s
  | .fadd c vd va vb => Sys2Proof.Machine.execFadd c vd va vb s
  | .fsub c vd va vb => Sys2Proof.Machine.execFsub c vd va vb s
  | .fmul c vd va vb => Sys2Proof.Machine.execFmul c vd va vb s
  | .ffma c vd va vb => Sys2Proof.Machine.execFfma c vd va vb s
  | .fmax c vd va vb => Sys2Proof.Machine.execFmax c vd va vb s
  | .fmin c vd va vb => Sys2Proof.Machine.execFmin c vd va vb s
  | .fhmax c vd va vb => Sys2Proof.Machine.execFhmax c vd va vb s
  | .fcmplt c vd va vb => Sys2Proof.Machine.execFcmplt c vd va vb s
  | .fabs c vd va vb => Sys2Proof.Machine.execFabs c vd va vb s
  | .fneg c vd va vb => Sys2Proof.Machine.execFneg c vd va vb s
  | .fsel c vd va vb => Sys2Proof.Machine.execFsel c vd va vb s
  | .iadd c vd va vb => Sys2Proof.Machine.execIadd c vd va vb s
  | .isub c vd va vb => Sys2Proof.Machine.execIsub c vd va vb s
  | .imul c vd va vb => Sys2Proof.Machine.execImul c vd va vb s
  | .iand c vd va vb => Sys2Proof.Machine.execIand c vd va vb s
  | .ior c vd va vb => Sys2Proof.Machine.execIor c vd va vb s
  | .ixor c vd va vb => Sys2Proof.Machine.execIxor c vd va vb s
  | .isll c vd va vb => Sys2Proof.Machine.execIsll c vd va vb s
  | .isra c vd va vb => Sys2Proof.Machine.execIsra c vd va vb s
  | .cvtif c vd va vb => Sys2Proof.Machine.execCvtif c vd va vb s
  | .cvtfi c vd va vb => Sys2Proof.Machine.execCvtfi c vd va vb s
  | .exp c vd va => Sys2Proof.Machine.execExp c vd va s
  | .log c vd va => Sys2Proof.Machine.execLog c vd va s
  | .rsqrt c vd va => Sys2Proof.Machine.execRsqrt c vd va s
  | .rcp c vd va => Sys2Proof.Machine.execRcp c vd va s
  | .vld c vd ra imm => Sys2Proof.Machine.execVld c vd ra imm s
  | .vst c vd ra imm => Sys2Proof.Machine.execVst c vd ra imm s
  | .vbc c vd ra => Sys2Proof.Machine.execVbc c vd ra s
  | .vext c rd va imm => Sys2Proof.Machine.execVext c rd va imm s
  | .vlsum c ab va cell => Sys2Proof.Machine.execVlsum c ab va cell s
  | .vupd c vd va tw momentum col row => Sys2Proof.Machine.execVupd c vd va tw momentum col row s
  | .vcvt c td va rmsel hslot bound rstep => Sys2Proof.Machine.execVcvt c td va rmsel hslot bound rstep s
  | .vunpk c vd ts => Sys2Proof.Machine.execVunpk c vd ts s
  | .linkReplay c dir failed => Sys2Proof.Machine.execLinkReplay c dir failed s
  | .reservedPacket p => Sys2Proof.Machine.execReservedPacket p s
  | .mrdRequest p err => Sys2Proof.Machine.execMrdRequest p err s
  | .mrdr p => Sys2Proof.Machine.execMrdr p s
  | .mwr p => Sys2Proof.Machine.execMwr p s
  | .mwrr p => Sys2Proof.Machine.execMwrr p s
  | .windowAccess p => Sys2Proof.Machine.execWindowAccess p s
  | .patrolScrub line err => Sys2Proof.Machine.execPatrolScrub line err s
  | .pageRetire page uncorr => Sys2Proof.Machine.execPageRetire page uncorr s
  | .memTileCfgWrite v => Sys2Proof.Machine.execMemTileCfgWrite v s
  | .regionTableWrite part n word1 v => Sys2Proof.Machine.execRegionTableWrite part n word1 v s
  | .transferStart e => Sys2Proof.Machine.execTransferStart e s
  | .tileTransfer e => Sys2Proof.Machine.execTileTransfer e s
  | .transferComplete e => Sys2Proof.Machine.execTransferComplete e s
  | .graticuleCompare c => Sys2Proof.Machine.execGraticuleCompare c s
  | .triangulation c => Sys2Proof.Machine.execTriangulation c s
  | .triangulationTimeout c => Sys2Proof.Machine.execTriangulationTimeout c s
  | .frontier p => Sys2Proof.Machine.execFrontier p s
  | .query p => Sys2Proof.Machine.execQuery p s
  | .inked p => Sys2Proof.Machine.execInked p s
  | .subscribed p => Sys2Proof.Machine.execSubscribed p s
  | .notyet p => Sys2Proof.Machine.execNotyet p s
  | .notyetRetry c k => Sys2Proof.Machine.execNotyetRetry c k s
  | .dead p => Sys2Proof.Machine.execDead p s
  | .smudge part p => Sys2Proof.Machine.execSmudge part p s
  | .quiesced part => Sys2Proof.Machine.execQuiesced part s
  | .restart part => Sys2Proof.Machine.execRestart part s
  | .commitVote part => Sys2Proof.Machine.execCommitVote part s
  | .vote part p => Sys2Proof.Machine.execVote part p s
  | .inkCommit part => Sys2Proof.Machine.execInkCommit part s
  | .flitReceive n f => Sys2Proof.Machine.execFlitReceive n f s
  | .nakReplay n f => Sys2Proof.Machine.execNakReplay n f s
  | .portLost n => Sys2Proof.Machine.execPortLost n s
  | .abort n p => Sys2Proof.Machine.execAbort n p s
  | .cagePresenceChange n present => Sys2Proof.Machine.execCagePresenceChange n present s
  | .cageDiscovery n m => Sys2Proof.Machine.execCageDiscovery n m s
  | .fecAlignmentLock n => Sys2Proof.Machine.execFecAlignmentLock n s
  | .helloSend n => Sys2Proof.Machine.execHelloSend n s
  | .hello n h => Sys2Proof.Machine.execHello n h s
  | .trainingRetry n => Sys2Proof.Machine.execTrainingRetry n s
  | .laneFail n lane => Sys2Proof.Machine.execLaneFail n lane s
  | .degradeTimeout n => Sys2Proof.Machine.execDegradeTimeout n s
  | .attachPacket p => Sys2Proof.Machine.execAttachPacket p s
  | .attachExchangeTimeout part => Sys2Proof.Machine.execAttachExchangeTimeout part s
  | .contribution part ctx src tile => Sys2Proof.Machine.execContribution part ctx src tile s
  | .cpart part p tile => Sys2Proof.Machine.execCpart part p tile s
  | .cres part p tile => Sys2Proof.Machine.execCres part p tile s
  | .cagr part p => Sys2Proof.Machine.execCagr part p s
  | .cagd part p => Sys2Proof.Machine.execCagd part p s
  | .crep part p => Sys2Proof.Machine.execCrep part p s
  | .collectiveFence part ctx => Sys2Proof.Machine.execCollectiveFence part ctx s
  | .collectiveDeadline part ctx => Sys2Proof.Machine.execCollectiveDeadline part ctx s
  | .ringRound part ctx block => Sys2Proof.Machine.execRingRound part ctx block s
  | .ringBufferFree part ctx buf => Sys2Proof.Machine.execRingBufferFree part ctx buf s
  | .rcred part p => Sys2Proof.Machine.execRcred part p s
  | .treqSend sixths => Sys2Proof.Machine.execTreqSend sixths s
  | .treq p port sixths2 sixths3 => Sys2Proof.Machine.execTreq p port sixths2 sixths3 s
  | .trsp p port sixths => Sys2Proof.Machine.execTrsp p port sixths s
  | .merSyncEdge sixths => Sys2Proof.Machine.execMerSyncEdge sixths s
  | .edge p => Sys2Proof.Machine.execEdge p s
  | .holdoverEntry => Sys2Proof.Machine.execHoldoverEntry s
  | .meridianLoss ms => Sys2Proof.Machine.execMeridianLoss ms s
  | .merCfgWrite v => Sys2Proof.Machine.execMerCfgWrite v s
  | .merSet v => Sys2Proof.Machine.execMerSet v s
  | .merPartLaunchWrite part v => Sys2Proof.Machine.execMerPartLaunchWrite part v s
  | .launchCancel part => Sys2Proof.Machine.execLaunchCancel part s
  | .launch part => Sys2Proof.Machine.execLaunch part s
  | .ovd part p => Sys2Proof.Machine.execOvd part p s
  | .ovr part p => Sys2Proof.Machine.execOvr part p s
  | .hqQTailWrite q v => Sys2Proof.Machine.execHqQTailWrite q v s
  | .commandAccept q => Sys2Proof.Machine.execCommandAccept q s
  | .nop q => Sys2Proof.Machine.execNop q s
  | .attach q => Sys2Proof.Machine.execAttach q s
  | .detach q => Sys2Proof.Machine.execDetach q s
  | .step q => Sys2Proof.Machine.execStep q s
  | .xfer q => Sys2Proof.Machine.execXfer q s
  | .waitq q => Sys2Proof.Machine.execWaitq q s
  | .advance q => Sys2Proof.Machine.execAdvance q s
  | .hqQJheadWrite q v => Sys2Proof.Machine.execHqQJheadWrite q v s
  | .queueEnable q => Sys2Proof.Machine.execQueueEnable q s
  | .queueDisable q => Sys2Proof.Machine.execQueueDisable q s
  | .lost f => Sys2Proof.Machine.execLost f s
  | .hqEvtCfgWrite f v => Sys2Proof.Machine.execHqEvtCfgWrite f v s
  | .hqEvtHeadWrite f v => Sys2Proof.Machine.execHqEvtHeadWrite f v s
  | .go f => Sys2Proof.Machine.execGo f s
  | .flr vf => Sys2Proof.Machine.execFlr vf s
  | .linkDown => Sys2Proof.Machine.execLinkDown s
  | .hostReadReissue => Sys2Proof.Machine.execHostReadReissue s
  | .barAccess f off len write => Sys2Proof.Machine.execBarAccess f off len write s
  | .resetNAssert ns => Sys2Proof.Machine.execResetNAssert ns s
  | .powerOnAssert cause => Sys2Proof.Machine.execPowerOnAssert cause s
  | .powerOnRelease => Sys2Proof.Machine.execPowerOnRelease s
  | .referenceLoss us => Sys2Proof.Machine.execReferenceLoss us s
  | .wdog => Sys2Proof.Machine.execWdog s
  | .lockstepMismatch => Sys2Proof.Machine.execLockstepMismatch s
  | .thermal sensor celsius => Sys2Proof.Machine.execThermal sensor celsius s
  | .thermtripRelease readings => Sys2Proof.Machine.execThermtripRelease readings s
  | .resetStretchEnd => Sys2Proof.Machine.execResetStretchEnd s
  | .resetExit => Sys2Proof.Machine.execResetExit s
  | .nvPulseEnd us => Sys2Proof.Machine.execNvPulseEnd us s
  | .nvBlocked mV => Sys2Proof.Machine.execNvBlocked mV s
  | .nvUnblock mV => Sys2Proof.Machine.execNvUnblock mV s
  | .backupLoss mV => Sys2Proof.Machine.execBackupLoss mV s
  | .startPhase f => Sys2Proof.Machine.execStartPhase f s
  | .bkpCtlClrlog => Sys2Proof.Machine.execBkpCtlClrlog s
  | .bkpCtlClrcnt => Sys2Proof.Machine.execBkpCtlClrcnt s
  | .wrapperClose b => Sys2Proof.Machine.execWrapperClose b s
  | .sweep sheet failed => Sys2Proof.Machine.execSweep sheet failed s
  | .sweepRequest sheets => Sys2Proof.Machine.execSweepRequest sheets s
  | .jobBoundary part => Sys2Proof.Machine.execJobBoundary part s
  | .activityEstimate e => Sys2Proof.Machine.execActivityEstimate e s
  | .powerMeasurement m => Sys2Proof.Machine.execPowerMeasurement m s
  | .throttleStep junction => Sys2Proof.Machine.execThrottleStep junction s
  | .clockSwitch => Sys2Proof.Machine.execClockSwitch s
  | .pwrCapWrite v => Sys2Proof.Machine.execPwrCapWrite v s
  | .pwrStepWrite v => Sys2Proof.Machine.execPwrStepWrite v s
  | .pwrFixedWrite v => Sys2Proof.Machine.execPwrFixedWrite v s
  | .chainOutBurst => Sys2Proof.Machine.execChainOutBurst s
  | .chainInBurst pulses => Sys2Proof.Machine.execChainInBurst pulses s
  | .chainSilence => Sys2Proof.Machine.execChainSilence s
  | .carrierEepromRead answer => Sys2Proof.Machine.execCarrierEepromRead answer s
  | .idoff v => Sys2Proof.Machine.execIdoff v s
  | .idread => Sys2Proof.Machine.execIdread s
  | .status => Sys2Proof.Machine.execStatus s
  | .alertResponse => Sys2Proof.Machine.execAlertResponse s
  | .arp addr => Sys2Proof.Machine.execArp addr s
  | .setEndpointId eid => Sys2Proof.Machine.execSetEndpointId eid s
  | .getEndpointId => Sys2Proof.Machine.execGetEndpointId s
  | .getEndpointUuid => Sys2Proof.Machine.execGetEndpointUuid s
  | .getMctpVersionSupport => Sys2Proof.Machine.execGetMctpVersionSupport s
  | .getMessageTypeSupport => Sys2Proof.Machine.execGetMessageTypeSupport s
  | .pldmMonitoring sensor => Sys2Proof.Machine.execPldmMonitoring sensor s
  | .pldmFirmwareUpdate img => Sys2Proof.Machine.execPldmFirmwareUpdate img s
  | .getVersion => Sys2Proof.Machine.execGetVersion s
  | .getCapabilities => Sys2Proof.Machine.execGetCapabilities s
  | .negotiateAlgorithms p384 => Sys2Proof.Machine.execNegotiateAlgorithms p384 s
  | .getDigests => Sys2Proof.Machine.execGetDigests s
  | .getCertificate off len => Sys2Proof.Machine.execGetCertificate off len s
  | .challenge nonce => Sys2Proof.Machine.execChallenge nonce s
  | .getMeasurements idx => Sys2Proof.Machine.execGetMeasurements idx s
  | .nonceRequest => Sys2Proof.Machine.execNonceRequest s
  | .debugToken t => Sys2Proof.Machine.execDebugToken t s
  | .svrPartCfgWrite part v => Sys2Proof.Machine.execSvrPartCfgWrite part v s
  | .registerWrite func off size v => Sys2Proof.Machine.execRegisterWrite func off size v s
  | .v3aEntersOperatingRange mV => Sys2Proof.Machine.execV3aEntersOperatingRange mV s
  | .hostLinkReturn => Sys2Proof.Machine.execHostLinkReturn s

end Sys2Proof.Machine
end

