-- ==== Sys2Proof/Machine/Tick.lean ====
section
/-! DEFINITION. One meridian tick: what time alone changes (spec/04 R173, R174; spec/11 R397; spec/14 R483, R487;
spec/10 R395). An empty command queue lets one tick pass (log 1). -/

namespace Sys2Proof.Machine

/-- A 48-bit idle counter after `n` more cycles (spec/04 Table 4-21). -/
def idleAdd (v : W64) (n : Nat) : W64 := (v + BitVec.ofNat 64 n) &&& 0xFFFFFFFFFFFF

/-- Whether a core's cycles can be idle: it issues, and the matrix unit runs no deferred entry (R174). -/
def Core.waits (k : Core) : Bool :=
  k.run == .running && match k.stage with | some (.deferred _) => false | _ => true

/-- The cause for which the latest attempt to issue waits, beside POWER, CHECK and DATUM, which their holds tell. -/
def Core.stallCause (k : Core) : Option Nat :=
  match k.stall with
  | some n => if n < 8 ∧ n ≠ 6 then some n else none
  | none => none

/-- Charges `m` cycles to a cause. -/
def chargeIdle (cause m : Nat) (t : Sparse W64) : Sparse W64 := if m = 0 then t else Sparse.upd 0 t cause fun v => idleAdd v m

/-- IDLE_n after `n` cycles of a core that waits: the first `held` to POWER, then all to CHECK during a triangulation, else
those of a datum repeat to DATUM and the rest to the cause of the latest attempt (R174, spec/03 R116). -/
def Core.idled (k : Core) (n held : Nat) : Sparse W64 :=
  let t := chargeIdle 5 held k.idle
  if k.triHold then chargeIdle 7 (n - held) t
  else
    let t := chargeIdle 6 (min k.repeatLeft n - held) t
    match k.stallCause with
    | some c => chargeIdle c (n - max held k.repeatLeft) t
    | none => t

/-- `n` core cycles of one core, of which the first `held` hold issue (R174, R395, R487). -/
def Core.cycles (n held : Nat) (k : Core) : Core :=
  if k.run = .off then k
  else { k with
    cycle := k.cycle + BitVec.ofNat 64 n
    busy := if k.run = .halted then k.busy else k.busy + n
    repeatLeft := k.repeatLeft - n
    idle := if k.waits then k.idled n held else k.idle }

/-- The core clock over one tick: whole cycles of the step's period in twelfths of a tick; none while the clock stands
(R483, R487). -/
def State.coreTick (s : State) : State :=
  let p := s.pwr
  if p.stop ≠ 0 then s.updPwr fun p => { p with stop := p.stop - 1 }
  else
    let t := p.clkPhase + 12
    let n := t / stepPeriod p.clock.toNat
    let held := if n < p.hold then n else p.hold
    let s := s.updPwr fun p => { p with clkPhase := t % stepPeriod p.clock.toNat, hold := p.hold - held }
    { s with cores := Sparse.mapVals {} s.cores fun _ k => k.cycles n held }

/-- One tick. In reset only time passes. A cycle of the management clock has 10 ticks (spec/00 Table 0-6). -/
def State.passTick (s : State) : State :=
  let s : State := { s with now := s.now + 1, justSet := if s.now % 10 = 9 then [] else s.justSet }
  if s.rst.inReset then s
  else (s.updMer fun m => { m with count := m.count + 1 }).coreTick.copyTick.fabricTick

end Sys2Proof.Machine
end

