-- ==== Sys2Proof/WellFormed.lean ====
section
/-! DEFINITION. Well-formed commands: what the T4 has for each operand (spec/00, spec/06 R225, spec/09 R334, spec/12
R436, spec/13 R479, spec/16 R533). A raw register field may hold a reserved value: the instruction then raises its
fault (spec/04 R138). -/

namespace Sys2Proof

/-- A number below a bound: partition, queue, function, port, engine, sheet, context, page. -/
def below (n k : Nat) : Bool := decide (k < n)

/-- A logical core ID: x in bits 7:0 and y in bits 15:8, each at most 159 (spec/04). -/
def coreOk (c : CoreId) : Bool := below 160 (c % 256) && below 160 (c / 256)

/-- A packet carries at most 256 payload bytes (spec/06 R225). -/
def packetOk (p : Packet) : Bool := decide (p.payload.length ≤ 256)

/-- A flit carries 240 payload bytes when it has any (spec/09 R334). -/
def flitOk (f : Flit) : Bool := f.kind == .idle || f.payload.length == 240

/-- A tile as it stands in memory: its cartouche and a payload. -/
def tileOk (bs : List Byte) : Bool := decide (64 ≤ bs.length)

/-- A block with an isolation wrapper. -/
def blockOk : Block → Bool
  | .core c => coreOk c
  | .controller n k => below 8 n && below 2 k
  | .port n => below 12 n
  | .reductionEngine k => below 2 k
  | .queueFrontEnd => true
  | .transferEngines => true

/-- A measurement names partitions 0 to 15 and queues 0 to 255. -/
def measurementOk (m : Measurement) : Bool :=
  m.sheets.all (fun e => below 16 e.1) && m.xfers.all (fun e => below 16 e.1 && below 256 e.2.1) && m.ports.all fun e => below 16 e.1

/-- Whether a command names only what the T4 has. -/
def Instr.wf : Instr → Bool
  | .add c _ _ _ | .sub c _ _ _ | .and c _ _ _ | .or c _ _ _ | .xor c _ _ _ | .sll c _ _ _
  | .srl c _ _ _ | .sra c _ _ _ | .slt c _ _ _ | .sltu c _ _ _ | .min c _ _ _ | .max c _ _ _
  | .minu c _ _ _ | .maxu c _ _ _ | .mul c _ _ _ | .mulh c _ _ _ | .mulhu c _ _ _ | .div c _ _ _
  | .divu c _ _ _ | .rem c _ _ _ | .remu c _ _ _ | .clz c _ _ _ | .popc c _ _ _ | .addi c _ _ _
  | .andi c _ _ _ | .ori c _ _ _ | .xori c _ _ _ | .slli c _ _ _ | .srli c _ _ _ | .srai c _ _ _
  | .slti c _ _ _ | .sltiu c _ _ _ | .li c _ _ | .lih c _ _ _ | .localLoad c _ _ _ _
  | .deviceLoad c _ _ _ _ | .localStore c _ _ _ _ | .deviceStore c _ _ _ _
  | .conditionalBranch c _ _ _ _ | .jal c _ _ | .jalr c _ _ _ | .tld c _ _ | .tst c _ _
  | .tdl c _ _ _ | .tds c _ _ _ | .tset c _ _ _ | .tget c _ _ _ | .tadd c _ _ _ | .tcopy c _ _
  | .transferDone c _ | .xsend c _ _ _ _ _ | .xrecv c _ _ | .xacc c _ _ _ _ _ _ => coreOk c
  | .mrts p => packetOk p && p.typ == .mrts
  | .mgnt p => packetOk p && p.typ == .mgnt
  | .mrtsRetry c _ => coreOk c
  | .mdata p => packetOk p && p.typ == .mdata
  | .cancel p => packetOk p
  | .acc p => packetOk p && p.typ == .acc
  | .accrsp p => packetOk p && p.typ == .accrsp
  | .accRetry c _ | .xaccApply c _ | .warm c _ _ _ _ | .warr c _ | .wwait c _ | .wtest c _ _
  | .inkw c _ => coreOk c
  | .waypointTick sheet pkts => below 16 sheet && pkts.all packetOk
  | .waypointExpiry _ => true
  | .wrsp p => packetOk p && p.typ == .wrsp
  | .wdone p => packetOk p && p.typ == .wdone
  | .inkholdResend c _ | .crr c _ _ | .crw c _ _ | .crs c _ _ | .crc c _ _ | .fence c | .ifence c
  | .halt c | .prefetchFill c _ | .mclr c _ | .mdat c _ _ _ | .mmac c _ _ _ _ _
  | .mseg c _ _ _ _ _ => coreOk c
  | .adapterLoadDone c buf => coreOk c && below 2 buf
  | .mcvt c _ _ _ _ _ _ _ _ | .mdefer c _ _ _ _ _ _ _ | .deferEntryStart c | .deferYield c _
  | .operandStageFrees c => coreOk c
  | .steal thief victim => coreOk thief && coreOk victim
  | .stealMerge thief => coreOk thief
  | .mrd c _ _ _ _ _ | .mhd c _ _ _ | .fadd c _ _ _ | .fsub c _ _ _ | .fmul c _ _ _
  | .ffma c _ _ _ | .fmax c _ _ _ | .fmin c _ _ _ | .fhmax c _ _ _ | .fcmplt c _ _ _
  | .fabs c _ _ _ | .fneg c _ _ _ | .fsel c _ _ _ | .iadd c _ _ _ | .isub c _ _ _ | .imul c _ _ _
  | .iand c _ _ _ | .ior c _ _ _ | .ixor c _ _ _ | .isll c _ _ _ | .isra c _ _ _ | .cvtif c _ _ _
  | .cvtfi c _ _ _ | .exp c _ _ | .log c _ _ | .rsqrt c _ _ | .rcp c _ _ | .vld c _ _ _
  | .vst c _ _ _ | .vbc c _ _ | .vext c _ _ _ | .vlsum c _ _ _ | .vupd c _ _ _ _ _ _
  | .vcvt c _ _ _ _ _ _ | .vunpk c _ _ | .linkReplay c _ _ => coreOk c
  | .reservedPacket p => packetOk p
  | .mrdRequest p _ => packetOk p && p.typ == .mrd
  | .mrdr p => packetOk p && p.typ == .mrdr
  | .mwr p => packetOk p && p.typ == .mwr
  | .mwrr p => packetOk p && p.typ == .mwrr
  | .windowAccess p => packetOk p
  | .patrolScrub line _ => below 0x200000000 line
  | .pageRetire page _ => below 0x8000000 page
  | .memTileCfgWrite _ => true
  | .regionTableWrite part n _ _ => below 16 part && below 256 n
  | .transferStart e | .tileTransfer e | .transferComplete e => below 16 e
  | .graticuleCompare c | .triangulation c | .triangulationTimeout c => coreOk c
  | .frontier p => packetOk p && p.typ == .ink
  | .query p => packetOk p && p.typ == .ink
  | .inked p => packetOk p && p.typ == .ink
  | .subscribed p => packetOk p && p.typ == .ink
  | .notyet p => packetOk p && p.typ == .ink
  | .notyetRetry c _ => coreOk c
  | .dead p => packetOk p && p.typ == .ink
  | .smudge part p => below 16 part && packetOk p && p.typ == .smudge
  | .quiesced part | .restart part | .commitVote part => below 16 part
  | .vote part p => below 16 part && packetOk p && p.typ == .vote
  | .inkCommit part => below 16 part
  | .flitReceive n f => below 12 n && flitOk f
  | .nakReplay n f => below 12 n && flitOk f
  | .portLost n => below 12 n
  | .abort n p => below 12 n && packetOk p && p.typ == .abort
  | .cagePresenceChange n _ | .cageDiscovery n _ | .fecAlignmentLock n | .helloSend n | .hello n _
  | .trainingRetry n | .laneFail n _ | .degradeTimeout n => below 12 n
  | .attachPacket p => packetOk p && p.typ == .attach
  | .attachExchangeTimeout part => below 16 part
  | .contribution part ctx src tile => below 16 part && below 256 ctx && coreOk src && tileOk tile
  | .cpart part p tile => below 16 part && packetOk p && p.typ == .cpart && tileOk tile
  | .cres part p tile => below 16 part && packetOk p && p.typ == .cres && tileOk tile
  | .cagr part p => below 16 part && packetOk p && p.typ == .cagr
  | .cagd part p => below 16 part && packetOk p && p.typ == .cagd
  | .crep part p => below 16 part && packetOk p && p.typ == .crep
  | .collectiveFence part ctx => below 16 part && below 256 ctx
  | .collectiveDeadline part ctx => below 16 part && below 256 ctx
  | .ringRound part ctx block => below 16 part && below 256 ctx && block.all tileOk
  | .ringBufferFree part ctx buf => below 16 part && below 256 ctx && below 2 buf
  | .rcred part p => below 16 part && packetOk p && p.typ == .rcred
  | .treqSend sixths => below 6 sixths
  | .treq p port sixths2 sixths3 => packetOk p && p.typ == .mer && below 12 port && below 6 sixths2 && below 6 sixths3
  | .trsp p port sixths => packetOk p && p.typ == .mer && below 12 port && below 6 sixths
  | .merSyncEdge sixths => below 6 sixths
  | .edge p => packetOk p && p.typ == .mer
  | .holdoverEntry | .meridianLoss _ | .merCfgWrite _ | .merSet _ => true
  | .merPartLaunchWrite part _ | .launchCancel part | .launch part => below 16 part
  | .ovd part p => below 16 part && packetOk p && p.typ == .ovd
  | .ovr part p => below 16 part && packetOk p && p.typ == .ovr
  | .hqQTailWrite q _ | .commandAccept q | .nop q | .attach q | .detach q | .step q | .xfer q
  | .waitq q | .advance q | .hqQJheadWrite q _ | .queueEnable q | .queueDisable q => below 256 q
  | .lost f | .hqEvtCfgWrite f _ | .hqEvtHeadWrite f _ | .go f => below 17 f
  | .flr vf => decide (1 ≤ vf) && below 17 vf
  | .linkDown | .hostReadReissue => true
  | .barAccess f _ _ _ => below 17 f
  | .resetNAssert _ | .powerOnAssert _ | .powerOnRelease | .referenceLoss _ | .wdog
  | .lockstepMismatch | .thermal _ _ | .thermtripRelease _ | .resetStretchEnd | .resetExit
  | .nvPulseEnd _ | .nvBlocked _ | .nvUnblock _ | .backupLoss _ => true
  | .startPhase f => f.coreFails.all coreOk && f.stackIds.length == 8 && f.stackTemps.length == 8 && below 256 f.trainFails
  | .bkpCtlClrlog | .bkpCtlClrcnt => true
  | .wrapperClose b => blockOk b
  | .sweep sheet failed => below 16 sheet && failed.all coreOk
  | .sweepRequest _ => true
  | .jobBoundary part => below 16 part
  | .powerMeasurement m => measurementOk m
  | .activityEstimate _ | .throttleStep _ | .clockSwitch | .pwrCapWrite _
  | .pwrStepWrite _ | .pwrFixedWrite _ | .chainOutBurst | .chainInBurst _ | .chainSilence
  | .carrierEepromRead _ | .idoff _ | .idread | .status | .alertResponse | .arp _
  | .setEndpointId _ | .getEndpointId | .getEndpointUuid | .getMctpVersionSupport
  | .getMessageTypeSupport => true
  | .pldmMonitoring sensor => below 25 sensor
  | .pldmFirmwareUpdate _ | .getVersion | .getCapabilities | .negotiateAlgorithms _ | .getDigests
  | .getCertificate _ _ | .challenge _ => true
  | .getMeasurements idx => decide (1 ≤ idx) && below 7 idx
  | .nonceRequest => true
  | .debugToken t => t.nonce.length == 16
  | .svrPartCfgWrite part _ => below 16 part
  | .registerWrite func off size _ => below 17 func && below 0x100000000 off && (size == 4 || size == 8) && off % size == 0
  | .v3aEntersOperatingRange _ | .hostLinkReturn => true

/-- The core that a command belongs to: the core that attempts the instruction, or whose unit acts. -/
def Instr.core? : Instr → Option CoreId
  | .add c _ _ _ | .sub c _ _ _ | .and c _ _ _ | .or c _ _ _ | .xor c _ _ _ | .sll c _ _ _ | .srl c _ _ _
  | .sra c _ _ _ | .slt c _ _ _ | .sltu c _ _ _ | .min c _ _ _ | .max c _ _ _ | .minu c _ _ _
  | .maxu c _ _ _ | .mul c _ _ _ | .mulh c _ _ _ | .mulhu c _ _ _ | .div c _ _ _ | .divu c _ _ _
  | .rem c _ _ _ | .remu c _ _ _ | .clz c _ _ _ | .popc c _ _ _ | .addi c _ _ _ | .andi c _ _ _
  | .ori c _ _ _ | .xori c _ _ _ | .slli c _ _ _ | .srli c _ _ _ | .srai c _ _ _ | .slti c _ _ _
  | .sltiu c _ _ _ | .li c _ _ | .lih c _ _ _ | .localLoad c _ _ _ _ | .deviceLoad c _ _ _ _
  | .localStore c _ _ _ _ | .deviceStore c _ _ _ _ | .conditionalBranch c _ _ _ _ | .jal c _ _
  | .jalr c _ _ _ | .tld c _ _ | .tst c _ _ | .tdl c _ _ _ | .tds c _ _ _ | .tset c _ _ _ | .tget c _ _ _
  | .tadd c _ _ _ | .tcopy c _ _ | .transferDone c _ | .xsend c _ _ _ _ _ | .xrecv c _ _
  | .xacc c _ _ _ _ _ _ | .mrtsRetry c _ | .accRetry c _ | .xaccApply c _ | .warm c _ _ _ _ | .warr c _
  | .wwait c _ | .wtest c _ _ | .inkw c _ | .inkholdResend c _ | .crr c _ _ | .crw c _ _ | .crs c _ _
  | .crc c _ _ | .fence c | .ifence c | .halt c | .prefetchFill c _ | .mclr c _ | .mdat c _ _ _
  | .mmac c _ _ _ _ _ | .mseg c _ _ _ _ _ | .adapterLoadDone c _ | .mcvt c _ _ _ _ _ _ _ _
  | .mdefer c _ _ _ _ _ _ _ | .deferEntryStart c | .deferYield c _ | .operandStageFrees c | .steal c _
  | .stealMerge c | .mrd c _ _ _ _ _ | .mhd c _ _ _ | .fadd c _ _ _ | .fsub c _ _ _ | .fmul c _ _ _
  | .ffma c _ _ _ | .fmax c _ _ _ | .fmin c _ _ _ | .fhmax c _ _ _ | .fcmplt c _ _ _ | .fabs c _ _ _
  | .fneg c _ _ _ | .fsel c _ _ _ | .iadd c _ _ _ | .isub c _ _ _ | .imul c _ _ _ | .iand c _ _ _
  | .ior c _ _ _ | .ixor c _ _ _ | .isll c _ _ _ | .isra c _ _ _ | .cvtif c _ _ _ | .cvtfi c _ _ _
  | .exp c _ _ | .log c _ _ | .rsqrt c _ _ | .rcp c _ _ | .vld c _ _ _ | .vst c _ _ _ | .vbc c _ _
  | .vext c _ _ _ | .vlsum c _ _ _ | .vupd c _ _ _ _ _ _ | .vcvt c _ _ _ _ _ _ | .vunpk c _ _
  | .linkReplay c _ _ | .graticuleCompare c | .triangulation c | .triangulationTimeout c | .notyetRetry c _ => some c
  | .mrts _ | .mgnt _ | .mdata _ | .cancel _ | .acc _ | .accrsp _ | .waypointTick _ _ | .waypointExpiry _
  | .wrsp _ | .wdone _ | .reservedPacket _ | .mrdRequest _ _ | .mrdr _ | .mwr _ | .mwrr _ | .windowAccess _
  | .patrolScrub _ _ | .pageRetire _ _ | .memTileCfgWrite _ | .regionTableWrite _ _ _ _ | .transferStart _
  | .tileTransfer _ | .transferComplete _ | .frontier _ | .query _ | .inked _ | .subscribed _ | .notyet _
  | .dead _ | .smudge _ _ | .quiesced _ | .restart _ | .commitVote _ | .vote _ _ | .inkCommit _
  | .flitReceive _ _ | .nakReplay _ _ | .portLost _ | .abort _ _ | .cagePresenceChange _ _
  | .cageDiscovery _ _ | .fecAlignmentLock _ | .helloSend _ | .hello _ _ | .trainingRetry _ | .laneFail _ _
  | .degradeTimeout _ | .attachPacket _ | .attachExchangeTimeout _ | .contribution _ _ _ _ | .cpart _ _ _
  | .cres _ _ _ | .cagr _ _ | .cagd _ _ | .crep _ _ | .collectiveFence _ _ | .collectiveDeadline _ _
  | .ringRound _ _ _ | .ringBufferFree _ _ _ | .rcred _ _ | .treqSend _ | .treq _ _ _ _ | .trsp _ _ _
  | .merSyncEdge _ | .edge _ | .holdoverEntry | .meridianLoss _ | .merCfgWrite _ | .merSet _
  | .merPartLaunchWrite _ _ | .launchCancel _ | .launch _ | .ovd _ _ | .ovr _ _ | .hqQTailWrite _ _
  | .commandAccept _ | .nop _ | .attach _ | .detach _ | .step _ | .xfer _ | .waitq _ | .advance _
  | .hqQJheadWrite _ _ | .queueEnable _ | .queueDisable _ | .lost _ | .hqEvtCfgWrite _ _
  | .hqEvtHeadWrite _ _ | .go _ | .flr _ | .linkDown | .hostReadReissue | .barAccess _ _ _ _
  | .resetNAssert _ | .powerOnAssert _ | .powerOnRelease | .referenceLoss _ | .wdog | .lockstepMismatch
  | .thermal _ _ | .thermtripRelease _ | .resetStretchEnd | .resetExit | .nvPulseEnd _ | .nvBlocked _
  | .nvUnblock _ | .backupLoss _ | .startPhase _ | .bkpCtlClrlog | .bkpCtlClrcnt | .wrapperClose _
  | .sweep _ _ | .sweepRequest _ | .jobBoundary _ | .activityEstimate _ | .powerMeasurement _
  | .throttleStep _ | .clockSwitch | .pwrCapWrite _ | .pwrStepWrite _ | .pwrFixedWrite _ | .chainOutBurst
  | .chainInBurst _ | .chainSilence | .carrierEepromRead _ | .idoff _ | .idread | .status | .alertResponse
  | .arp _ | .setEndpointId _ | .getEndpointId | .getEndpointUuid | .getMctpVersionSupport
  | .getMessageTypeSupport | .pldmMonitoring _ | .pldmFirmwareUpdate _ | .getVersion | .getCapabilities
  | .negotiateAlgorithms _ | .getDigests | .getCertificate _ _ | .challenge _ | .getMeasurements _
  | .nonceRequest | .debugToken _ | .svrPartCfgWrite _ _ | .registerWrite _ _ _ _
  | .v3aEntersOperatingRange _ | .hostLinkReturn => none

end Sys2Proof
end

