-- ==== Sys2Proof/Safety.lean ====
section
/-! DEFINITION. What claims are stated in: when a core issues, when the module is up, and what a safe state keeps. -/

namespace Sys2Proof.Machine

/-- Core `c` issues now an instruction that names the g registers `regs`: it runs, and nothing of spec/04 R161, R174
holds it. -/
def State.canIssue (s : State) (c : CoreId) (regs : List Reg) : Bool :=
  s.issues c && (s.issueBar (s.core c) regs).isNone

/-- The matrix unit of a core works on nothing: its operand stage is free, no mseg runs, no deferred entry is queued or
stolen. -/
def Core.matrixIdle (k : Core) : Bool := k.stage.isNone && k.mseg.isNone && k.defq.isEmpty && k.lent.isEmpty

/-- A consumption that needs no record: the tile is not pencilled, or is the core's own (spec/08 R312). -/
def State.freeToUse (s : State) (c : CoreId) (t : Cart) : Prop :=
  t.pencil = false ∨ (t.module = s.modId ∧ t.core.toNat = c)

/-- Whether a core belongs to the partition of core `c`. -/
def State.samePart (s : State) (c : CoreId) (d : W16) : Bool := (s.partOf c).any fun q => (s.part q).hasCore d.toNat

/-- The module is out of reset. -/
def State.up (s : State) : Bool := !s.rst.inReset

/-- The stacked memory and the host's memory are in their canonical form. -/
def State.memoriesCanonical (s : State) : Prop := s.mem.bytes.wf = true ∧ s.host.mem.wf = true

/-- Core `c` changed by `f`, with its instruction of `len` bytes issued: the program counter stands past it and ICOUNT
has grown by one. Nothing else of the state changes. -/
def State.passing (s : State) (c : CoreId) (len : Nat) (f : Core → Core) : State :=
  s.updCore c fun k => (f k).retire (k.pc.toNat + len)

/-- The only outcome a command of this block has. -/
def answers (o : Host.Outcome State Fault Refusal) : Prop := ∃ t, o = .next t

end Sys2Proof.Machine
end

