-- ==== Sys2Proof/Certificates/Slice0/Obligations.lean ====
section
/-! DEFINITION. The statements about the model, for the provers. Premises speak of the state and the operands alone; a
conclusion names the next state, by an equation where one line of state says it all. -/

open Sys2Proof Sys2Proof.Machine

/-! ### The queue and reset -/

/-- The queue is first in, first out: a step runs the front command on the state with the queue's rest. -/
def Obligations.StepRunsFrontCommand : Prop :=
  ∀ (s : State) (i : Instr) (rest : List Instr), step (s.withPending (i :: rest)) = exec i (s.withPending rest)

/-! ### Scalar instructions (spec/04) -/

/-- Tables 4-5 and 4-6 and R139: the value of every register-to-register function, in numbers. Nothing else of the state
changes, and no fault is raised.
Table 4-5 and R139: clz (64 for zero) and popc, the immediate forms, the shift amounts in imm[5:0], and li and lih with their
EXT, in numbers. -/
def Obligations.ScalarResults : Prop :=
  (∀ (s : State) (c : CoreId) (rd ra rb : Reg), s.canIssue c [rd, ra, rb] = true →
    let a := (s.core c).gr ra
    let b := (s.core c).gr rb
    let n := b.toNat % 64
    let out (v : W64) : Host.Outcome State Fault Refusal := .next (s.passing c 4 fun k => k.setG rd v)
    exec (.add c rd ra rb) s = out (BitVec.ofNat 64 (a.toNat + b.toNat))
    ∧ exec (.sub c rd ra rb) s = out (BitVec.ofInt 64 (a.toInt - b.toInt))
    ∧ exec (.and c rd ra rb) s = out (a &&& b)
    ∧ exec (.or c rd ra rb) s = out (a ||| b)
    ∧ exec (.xor c rd ra rb) s = out (a ^^^ b)
    ∧ exec (.sll c rd ra rb) s = out (BitVec.ofNat 64 (a.toNat * 2 ^ n))
    ∧ exec (.srl c rd ra rb) s = out (BitVec.ofNat 64 (a.toNat / 2 ^ n))
    ∧ exec (.sra c rd ra rb) s = out (BitVec.ofInt 64 (a.toInt / 2 ^ n))
    ∧ exec (.slt c rd ra rb) s = out (if a.toInt < b.toInt then 1 else 0)
    ∧ exec (.sltu c rd ra rb) s = out (if a.toNat < b.toNat then 1 else 0)
    ∧ exec (.min c rd ra rb) s = out (if a.toInt < b.toInt then a else b)
    ∧ exec (.max c rd ra rb) s = out (if a.toInt < b.toInt then b else a)
    ∧ exec (.minu c rd ra rb) s = out (if a.toNat < b.toNat then a else b)
    ∧ exec (.maxu c rd ra rb) s = out (if a.toNat < b.toNat then b else a)
    ∧ exec (.mul c rd ra rb) s = out (BitVec.ofNat 64 (a.toNat * b.toNat))
    ∧ exec (.mulh c rd ra rb) s = out (BitVec.ofInt 64 (a.toInt * b.toInt / 2 ^ 64))
    ∧ exec (.mulhu c rd ra rb) s = out (BitVec.ofNat 64 (a.toNat * b.toNat / 2 ^ 64))
    ∧ exec (.div c rd ra rb) s = out (
        if b = 0 then 0xFFFFFFFFFFFFFFFF
        else if a.toInt = -2 ^ 63 ∧ b.toInt = -1 then BitVec.ofInt 64 (-2 ^ 63)
        else BitVec.ofInt 64 (a.toInt.tdiv b.toInt))
    ∧ exec (.divu c rd ra rb) s = out (if b = 0 then 0xFFFFFFFFFFFFFFFF else BitVec.ofNat 64 (a.toNat / b.toNat))
    ∧ exec (.rem c rd ra rb) s = out (
        if b = 0 then a
        else if a.toInt = -2 ^ 63 ∧ b.toInt = -1 then 0
        else BitVec.ofInt 64 (a.toInt.tmod b.toInt))
    ∧ exec (.remu c rd ra rb) s = out (if b = 0 then a else BitVec.ofNat 64 (a.toNat % b.toNat)))
  ∧ (∀ (s : State) (c : CoreId) (rd ra rb : Reg), s.canIssue c [rd, ra] = true →
    let a := (s.core c).gr ra
    (∃ n ≤ 64, a.toNat < 2 ^ (64 - n) ∧ (n < 64 → 2 ^ (63 - n) ≤ a.toNat)
      ∧ exec (.clz c rd ra rb) s = .next (s.passing c 4 fun k => k.setG rd (BitVec.ofNat 64 n)))
    ∧ exec (.popc c rd ra rb) s = .next (s.passing c 4 fun k =>
        k.setG rd (BitVec.ofNat 64 ((List.range 64).countP fun i => a.toNat / 2 ^ i % 2 = 1))))
  ∧ ∀ (s : State) (c : CoreId) (rd ra : Reg) (imm : BitVec 11) (ext : W32), s.canIssue c [rd, ra] = true →
    let a := (s.core c).gr ra
    let n := imm.toNat % 64
    let out (v : W64) : Host.Outcome State Fault Refusal := .next (s.passing c 4 fun k => k.setG rd v)
    exec (.addi c rd ra imm) s = out (BitVec.ofInt 64 (a.toInt + imm.toInt))
    ∧ exec (.andi c rd ra imm) s = out (a &&& imm.signExtend 64)
    ∧ exec (.ori c rd ra imm) s = out (a ||| imm.signExtend 64)
    ∧ exec (.xori c rd ra imm) s = out (a ^^^ imm.signExtend 64)
    ∧ exec (.slli c rd ra imm) s = out (BitVec.ofNat 64 (a.toNat * 2 ^ n))
    ∧ exec (.srli c rd ra imm) s = out (BitVec.ofNat 64 (a.toNat / 2 ^ n))
    ∧ exec (.srai c rd ra imm) s = out (BitVec.ofInt 64 (a.toInt / 2 ^ n))
    ∧ exec (.slti c rd ra imm) s = out (if a.toInt < imm.toInt then 1 else 0)
    ∧ exec (.sltiu c rd ra imm) s = out (if a.toNat < (imm.signExtend 64).toNat then 1 else 0)
    ∧ exec (.lih c rd ra ext) s =
        .next (s.passing c 8 fun k => k.setG rd (BitVec.ofNat 64 (2 ^ 32 * ext.toNat + a.toNat % 2 ^ 32)))
    ∧ (s.canIssue c [rd] = true →
        exec (.li c rd ext) s = .next (s.passing c 8 fun k => k.setG rd (BitVec.ofInt 64 ext.toInt)))

/-- R140 for local accesses: own-store offset ra + imm; ACCESS, and nothing else, for one that is not naturally aligned
or lies at or above 0x4_0000. A range that a unit still writes or reads, or a double error, has its own rules (R167, R288).
The frame of a local store: every byte of the core's store outside the stored bytes reads as before, the stored bytes
read as the low bytes of rd, the stored address being ra + imm; every other core, every register and all other state stay. -/
def Obligations.LocalAccesses : Prop :=
  (∀ (s : State) (c : CoreId) (rd ra : Reg) (imm : BitVec 11), s.canIssue c [rd, ra] = true →
    let k := s.core c
    let a := (k.gr ra + imm.signExtend 64).toNat
    let refused : Host.Outcome State Fault Refusal := .next (s.raise c k.pc k.seq 0xFF .access .job)
    (∀ op : LoadOp, exec (.localLoad c op rd ra imm) s =
      if a % loadSize op ≠ 0 ∨ 0x40000 ≤ a then refused
      else match k.readBar a (loadSize op) with
        | some cause => .next (s.updCore c fun j => { j with stall := some cause })
        | none =>
          if k.clean a (loadSize op) then
            .next (s.passing c 4 fun j => j.setG rd (loadExtend op (j.store.readLE a (loadSize op))))
          else .next (s.raise c k.pc k.seq 0xFF .csumAtUse .step))
    ∧ ∀ op : StoreOp, (a % storeBytesOf op ≠ 0 ∨ 0x40000 ≤ a → exec (.localStore c op rd ra imm) s = refused)
      ∧ (a % storeBytesOf op = 0 → a < 0x40000 → k.blocksWrite a (storeBytesOf op) = none → k.triHeld a (storeBytesOf op) = false →
        exec (.localStore c op rd ra imm) s =
          .next (s.passing c 4 fun j => j.storeBytes a (leBytes (storeBytesOf op) (j.gr rd).toNat))))
  ∧ ∀ (s t : State) (c : CoreId) (op : StoreOp) (rd ra : Reg) (imm : BitVec 11), s.canIssue c [rd, ra] = true →
    let k := s.core c
    let a := (k.gr ra + imm.signExtend 64).toNat
    a % storeBytesOf op = 0 → a < 0x40000 → k.blocksWrite a (storeBytesOf op) = none → k.triHeld a (storeBytesOf op) = false →
    exec (.localStore c op rd ra imm) s = .next t →
      (∀ x, x < a ∨ a + storeBytesOf op ≤ x → (t.core c).store.read x = k.store.read x)
      ∧ (∀ i, i < storeBytesOf op → ((t.core c).store.read (a + i)).toNat = (k.gr rd).toNat / 256 ^ i % 256)
      ∧ (∀ r, (t.core c).gr r = k.gr r) ∧ (t.core c).v = k.v ∧ (t.core c).t = k.t ∧ (t.core c).banks = k.banks
      ∧ (t.core c).ctl = k.ctl ∧ (∀ d, d ≠ c → t.core d = s.core d)
      ∧ { t with cores := s.cores } = s

/-- R140, R254, R259 and spec/07 for device accesses: device address ra + EXT; a refused one raises ACCESS and does nothing
else; in the core's own window it is an access of its own store. Any other load sends one read request and its register waits
for the answer; any other store sends one write request with the low bytes of rd, pencilled unless the core's outputs are
inked. Neither changes a register, a store or memory, nor any other core.
R141, R319: a store into an INK region waits as INK until the core's outputs are inked, and is refused once they cannot be. -/
def Obligations.DeviceAccessAddresses : Prop :=
  ∀ (s : State) (c : CoreId) (rd ra : Reg) (ext : W32), s.canIssue c [rd, ra] = true →
    let k := s.core c
    let a := s.translate (k.gr ra + ext.signExtend 64).toNat
    let refused : Host.Outcome State Fault Refusal := .next (s.raise c k.pc k.seq 0xFF .access .job)
    let sends (i : Instr) (q : Packet) (u : RemoteUse) : Prop :=
      ∃ t : State, exec i s = .next t ∧ t.net = s.net ++ [q]
        ∧ (t.core c).remotes.map (fun r => (r.tag, r.use, r.left, r.far)) =
            k.remotes.map (fun r => (r.tag, r.use, r.left, r.far)) ++ [(k.msgid, u, 1, farAddr a)]
        ∧ (∀ op, u = .load rd op → rd ≠ 0 → (t.core c).pendingReg [rd] = some (if farAddr a then 3 else 2))
        ∧ (t.core c).msgid = k.msgid + 1 ∧ (t.core c).pc = BitVec.ofNat 18 (k.pc.toNat + 8)
        ∧ (t.core c).g = k.g ∧ (t.core c).v = k.v ∧ (t.core c).t = k.t ∧ (t.core c).banks = k.banks ∧ (t.core c).ctl = k.ctl
        ∧ (t.core c).store = k.store ∧ (∀ d, d ≠ c → t.core d = s.core d) ∧ { t with cores := s.cores, net := s.net } = s
    (∀ op : LoadOp, let n := loadSize op
      (s.devOk c false a n = false → exec (.deviceLoad c op rd ra ext) s = refused)
      ∧ (s.devOk c false a n = true →
          (∀ off, spaceOf a = .store c off → exec (.deviceLoad c op rd ra ext) s =
            match k.readBar off n with
            | some cause => .next (s.updCore c fun j => { j with stall := some cause })
            | none =>
              if k.clean off n then .next (s.passing c 8 fun j => j.setG rd (loadExtend op (j.store.readLE off n)))
              else .next (s.raise c k.pc k.seq 0xFF .csumAtUse .step))
          ∧ ((∀ off, spaceOf a ≠ .store c off) →
              sends (.deviceLoad c op rd ra ext) (s.reqPacket (BitVec.ofNat 16 c) .mrd k.msgid a n) (.load rd op))))
    ∧ ∀ op : StoreOp, let n := storeBytesOf op
      let bs := leBytes n (k.gr rd).toNat
      let ink := s.inkRegion ((s.partOf c).getD 16) a n
      (s.devOk c true a n = false → exec (.deviceStore c op rd ra ext) s = refused)
      ∧ (s.devOk c true a n = true → ink = true → k.allInked = false → exec (.deviceStore c op rd ra ext) s =
          if k.dependsDead k.epoch then refused else .next (s.updCore c fun j => { j with stall := some 4 }))
      ∧ (s.devOk c true a n = true → ink = false ∨ k.allInked = true →
          (∀ off, spaceOf a = .store c off → k.blocksWrite off n = none → k.triHeld off n = false →
            exec (.deviceStore c op rd ra ext) s = .next (s.passing c 8 fun j => j.storeBytes off bs))
          ∧ ((∀ off, spaceOf a ≠ .store c off) → sends (.deviceStore c op rd ra ext)
              { s.reqPacket (BitVec.ofNat 16 c) .mwr k.msgid a n with payload := bs, pencil := !k.allInked } (.store 0xFF)))

/-- R142, Table 4-5: the condition of each branch in numbers, the target of a taken one, ACCESS at the branch for a target
outside the store or not a multiple of 4, no look at the target of one that is not taken; jal and jalr with their link. -/
def Obligations.BranchesAndJumps : Prop :=
  ∀ (s : State) (c : CoreId) (rd ra rb : Reg) (off imm : BitVec 11) (ext : W32), s.canIssue c [rd, ra, rb] = true →
    let k := s.core c
    let a := k.gr ra
    let b := k.gr rb
    let refused : Host.Outcome State Fault Refusal := .next (s.raise c k.pc k.seq 0xFF .access .job)
    let jump (t : W64) (f : Core → Core) : Host.Outcome State Fault Refusal :=
      if t.toNat < 0x40000 ∧ t.toNat % 4 = 0 then .next (s.updCore c fun j => (f j).retire t.toNat) else refused
    let branch (taken : Prop) [Decidable taken] : Host.Outcome State Fault Refusal :=
      if taken then jump (k.pc.setWidth 64 + off.signExtend 64 * 4) id else .next (s.passing c 4 id)
    exec (.conditionalBranch c .beq ra rb off) s = branch (a = b)
    ∧ exec (.conditionalBranch c .bne ra rb off) s = branch (a ≠ b)
    ∧ exec (.conditionalBranch c .blt ra rb off) s = branch (a.toInt < b.toInt)
    ∧ exec (.conditionalBranch c .bge ra rb off) s = branch (b.toInt ≤ a.toInt)
    ∧ exec (.conditionalBranch c .bltu ra rb off) s = branch (a.toNat < b.toNat)
    ∧ exec (.conditionalBranch c .bgeu ra rb off) s = branch (b.toNat ≤ a.toNat)
    ∧ exec (.jal c rd ext) s = jump (k.pc.setWidth 64 + (ext &&& 0xFFFFFFFC).signExtend 64) (fun j => j.setG rd (k.pc.setWidth 64 + 8))
    ∧ exec (.jalr c rd ra imm) s = jump (a + imm.signExtend 64 * 4) (fun j => j.setG rd (k.pc.setWidth 64 + 4))

/-- Table 4-1: g0 reads zero and a write to it changes nothing; any other general register reads what was written to it,
and no write reaches another register. -/
def Obligations.GeneralRegisters : Prop :=
  ∀ (k : Core) (r q : Reg) (v : W64),
    k.gr 0 = 0 ∧ k.setG 0 v = k ∧ (r ≠ 0 → (k.setG r v).gr r = v) ∧ (q ≠ r → (k.setG r v).gr q = k.gr q)

/-! ### Tile descriptors and transfers (spec/04) -/

/-- R147, Tables 4-8 and 4-9: what tset, tget, tadd and tcopy leave in the descriptor register and the general register: the low
bits that fit, reserved bits zero, sums modulo the field's width. tds stores the 64 bytes of a descriptor at ra + imm × 64
with every reserved bit and byte zero, tdl loads them with reserved bits and bytes dropped, so that a descriptor stored and
loaded is unchanged; the offset is a multiple of 64 below 0x4_0000 or ACCESS is raised. -/
def Obligations.TileDescriptors : Prop :=
  (∀ (s : State) (c : CoreId) (td ta rd rb : Reg) (sel : BitVec 6) (f : DField), s.canIssue c [rd, rb] = true →
    s.canIssue c [] = true → td.toNat < 16 → ta.toNat < 16 → dField sel = some f →
    let k := s.core c
    let d := k.desc td
    let v := k.gr rb
    (exec (.tset c td rb sel) s = .next (s.passing c 4 fun j => j.setDesc td (match f with
      | .addr => { d with addr := v }
      | .fmtctl => { d with fmt := v.setWidth 4, bsize := (v >>> 12).setWidth 2, survey := v.getLsbD 11 }
      | .rows => { d with rows := v.setWidth 16 }
      | .cols => { d with cols := v.setWidth 16 }
      | .version => { d with version := v.setWidth 32 }
      | .tensor => { d with tensor := v.setWidth 32 }
      | .step => { d with step := v.setWidth 32 }
      | .rstride => { d with rstride := v.setWidth 32 }
      | .ebase => { d with ebase := v }
      | .tcoord => { d with tcoord := v.setWidth 32 })))
    ∧ exec (.tget c rd ta sel) s = .next (s.passing c 4 fun j => j.setG rd (getField (k.desc ta) f))
    ∧ (getField d .fmtctl).toNat = d.fmt.toNat + 4096 * d.bsize.toNat + (if d.survey then 2048 else 0)
    ∧ exec (.tadd c td rb sel) s = (match f with
      | .addr => .next (s.passing c 4 fun j => j.setDesc td { d with addr := d.addr + v })
      | .version => .next (s.passing c 4 fun j => j.setDesc td { d with version := d.version + v.setWidth 32 })
      | .step => .next (s.passing c 4 fun j => j.setDesc td { d with step := d.step + v.setWidth 32 })
      | .ebase => .next (s.passing c 4 fun j => j.setDesc td { d with ebase := d.ebase + v })
      | .tcoord => .next (s.passing c 4 fun j => j.setDesc td { d with tcoord := d.tcoord + v.setWidth 32 })
      | _ => .next (s.raise c k.pc k.seq 0xFF .featureUnsupported .job))
    ∧ exec (.tcopy c td ta) s = .next (s.passing c 4 fun j => j.setDesc td (k.desc ta)))
  ∧ ∀ (s : State) (c : CoreId) (td ra : Reg) (imm : BitVec 11), s.canIssue c [ra] = true → td.toNat < 16 →
    let k := s.core c
    let a := (k.gr ra + imm.signExtend 64 * 64).toNat
    let refused : Host.Outcome State Fault Refusal := .next (s.raise c k.pc k.seq 0xFF .access .job)
    (a % 64 ≠ 0 ∨ 0x40000 ≤ a → exec (.tdl c td ra imm) s = refused ∧ exec (.tds c td ra imm) s = refused)
    ∧ (a % 64 = 0 → a < 0x40000 →
        (k.readBar a 64 = none → k.clean a 64 = true →
          exec (.tdl c td ra imm) s = .next (s.passing c 4 fun j => j.setDesc td (descOf (j.store.readBytes a 64))))
        ∧ (k.blocksWrite a 64 = none → k.triHeld a 64 = false →
          exec (.tds c td ra imm) s = .next (s.passing c 4 fun j => j.storeBytes a (descBytes (j.desc td)))))
    ∧ ∀ d : Desc, (descBytes d).length = 64 ∧ descOf (descBytes d) = d
        ∧ (descBytes d).drop 0x2C = List.replicate 20 0 ∧ ((descBytes d).drop 0x0E).take 2 = [0, 0]

/-- R148, R172, R259: a tld. A tile of the own store, or a prefetched one whose VERSION is ts.VERSION and not 0, is checked at once: the
cartouche's HCRC (CSUM_AT_USE), then the padded length against td's capacity (DESC_BOUNDS), and nothing is written when either
fails; otherwise cartouche, payload and zero padding stand at td.ADDR and nothing else of the store changes. From any other
place the read requests leave and no byte changes. Either way the transfer is in flight, td's range pending-write.
R149, R151, R45: a tst of a tile that passes the check at use, not pencilled or of this core, with its cartouche unchanged: in
the own store at once, elsewhere by write requests of the payload, zeros up to a tile slot's 4,096 bytes, and the cartouche;
the source is pending-read and no register changes. Into an INK region a tile waits as INK until it is inked.
TRANSFER_DONE ends both, and does nothing for a tld whose tile has not come. -/
def Obligations.TileTransfers : Prop :=
  (∀ (s : State) (c : CoreId) (td ts : Reg) (cap dst : Nat), s.canIssue c [] = true → td.toNat < 16 → ts.toNat < 16 →
    let k := s.core c
    let src := k.desc ts
    let pl := s.tilePlace c false src.addr 64
    let i : Instr := .tld c td ts
    let flies (t : State) (far : Bool) : Prop :=
      exec i s = .next t ∧ (t.core c).pends = k.pends ++ [⟨true, dst, cap, .xfer k.uid⟩]
        ∧ (t.core c).flights = k.flights ++ [⟨k.uid, false, far, k.seq⟩]
        ∧ (t.core c).g = k.g ∧ (t.core c).v = k.v ∧ (t.core c).t = k.t ∧ (t.core c).banks = k.banks ∧ (t.core c).ctl = k.ctl
        ∧ (t.core c).pc = BitVec.ofNat 18 (k.pc.toNat + 4) ∧ (∀ d, d ≠ c → t.core d = s.core d)
    let taken (cart : List Byte) (payload : Nat → List Byte) : Prop :=
      let n := (Cart.parse cart).plen.toNat
      (hcrcOk cart = false → ∃ t : State, exec i s = .next (t.raise c k.pc k.seq (dDesc ts) .csumAtUse .step) ∧ (t.core c).store = k.store)
      ∧ (hcrcOk cart = true → cap < up64 (64 + n) →
          ∃ t : State, exec i s = .next (t.raise c k.pc k.seq (dDesc td) .descBounds .job) ∧ (t.core c).store = k.store)
      ∧ (hcrcOk cart = true → up64 (64 + n) ≤ cap → cart.length = 64 → (payload n).length = n →
          ∃ t : State, flies t false
            ∧ (t.core c).loadBytes dst (64 + up64 n) = cart ++ payload n ++ List.replicate (up64 n - n) 0
            ∧ (∀ x, x < dst ∨ dst + 64 + up64 n ≤ x → (t.core c).store.read x = k.store.read x) ∧ { t with cores := s.cores } = s)
    k.flights.length < 16 → capacity (k.desc td) = some cap → ownTile c (k.desc td).addr cap = some dst →
    k.blocksWrite dst cap = none → k.triHeld dst cap = false → (∀ a, pl = .own a → k.readBar a (k.tileSpan a) = none) →
      ((∀ x bs, k.slotFor src.addr = some x → x.tile = some bs → src.version = 0 ∨ (Cart.parse (bs.take 64)).version ≠ src.version) →
        (∀ a, pl = .own a → k.dblErr = [] → a + k.tileSpan a ≤ 0x40000 → taken (k.loadBytes a 64) (k.loadBytes (a + 64)))
        ∧ (pl ≠ .bad → (∀ a, pl ≠ .own a) → ∃ t : State, flies t pl.far ∧ (t.core c).store = k.store
            ∧ t.net = s.net ++ (pl.reqs cap 0).map (fun x =>
                { s.reqPacket (BitVec.ofNat 16 c) .mrd k.msgid x.1 x.2.1 with off := BitVec.ofNat 32 x.2.2 })
            ∧ (∃ r ∈ (t.core c).remotes, r.tag = k.msgid ∧ r.use = .tile (k.desc td) k.uid ts td ∧ r.base = dst ∧ r.left = (pl.reqs cap 0).length)
            ∧ { t with cores := s.cores, net := s.net } = s)
        ∧ (pl = .bad → ∃ t : State, exec i s = .next (t.raise c k.pc k.seq (dDesc ts) .access .job) ∧ (t.core c).store = k.store))
      ∧ ∀ j n bs, pl ≠ .bad → k.slotFor src.addr = some ⟨j, src.addr, n, some bs⟩ → src.version ≠ 0 →
          (Cart.parse (bs.take 64)).version = src.version → taken (bs.take 64) fun n => (bs.drop 64).take n)
  ∧ (∀ (s : State) (c : CoreId) (td ts : Reg) (a : Nat) (u : Tile), s.canIssue c [] = true → td.toNat < 16 → ts.toNat < 16 →
    let k := s.core c
    let span := 64 + up64 u.cart.plen.toNat
    let pl := s.tilePlace c true (k.desc td).addr span
    let i : Instr := .tst c td ts
    let flies (t : State) (far : Bool) : Prop :=
      exec i s = .next t ∧ (t.core c).pends = k.pends ++ [⟨false, a, span, .xfer k.uid⟩]
        ∧ (t.core c).flights = k.flights ++ [⟨k.uid, true, far, k.seq⟩]
        ∧ (t.core c).g = k.g ∧ (t.core c).v = k.v ∧ (t.core c).t = k.t ∧ (t.core c).banks = k.banks ∧ (t.core c).ctl = k.ctl
        ∧ (t.core c).pc = BitVec.ofNat 18 (k.pc.toNat + 4) ∧ (∀ d, d ≠ c → t.core d = s.core d)
    let written (ws : List (Nat × List Byte)) : Prop :=
      ∃ t : State, flies t pl.far ∧ (t.core c).store = k.store ∧ { t with cores := s.cores, net := s.net } = s
        ∧ t.net = s.net ++ ws.map fun w => { s.reqPacket (BitVec.ofNat 16 c) .mwr k.msgid w.1 w.2.length with
            payload := w.2, pencil := u.cart.pencil && !s.placeInk c pl }
    k.flights.length < 16 → ownTile c (k.desc ts).addr 64 = some a → k.readBar a span = none →
    k.useTile a (some (k.desc ts).fmt) = .ok u → s.freeToUse c u.cart →
      (s.placeInk c pl = true → s.inkWait c u.cart = .wait → exec i s = .next (s.updCore c fun j => { j with
        hold := some ⟨k.seq, u.cart.module, u.cart.core, u.cart.epoch⟩, stall := some 4 }))
      ∧ (s.placeInk c pl = true → s.inkWait c u.cart = .dead → exec i s = .next (s.raise c k.pc k.seq (dDesc td) .access .job))
      ∧ (s.placeInk c pl = false ∨ s.inkWait c u.cart = .go →
          (∀ ca pa, pl = .memory ca pa ∨ pl = .window ca pa →
            written (cutBytes pa (u.payload ++ List.replicate (4096 - u.payload.length) 0) ++ [(ca, k.loadBytes a 64)]))
          ∧ (∀ d b, pl = .store d b → written (cutBytes (storeBase d + b) (tileBytes (k.loadBytes a 64) u.payload)))
          ∧ ∀ b, pl = .own b → k.blocksWrite b span = none → k.triHeld b span = false →
              ∃ t : State, flies t false ∧ (t.core c).loadBytes b span = tileBytes (k.loadBytes a 64) u.payload
                ∧ (∀ x, x < b ∨ b + span ≤ x → (t.core c).store.read x = k.store.read x) ∧ { t with cores := s.cores } = s))
  ∧ ∀ (s : State) (c : CoreId) (id : Nat), coreExists c = true →
    exec (.transferDone c id) s = if (s.core c).awaits id then .next s
      else .next (s.updCore c fun k => { k with
        flights := k.flights.filter (·.id != id), pends := k.pends.filter (·.owner != .xfer id) })

/-! ### Messages and remote accumulation (spec/04, spec/06) -/

/-- R234: a packet that this module sent arrives only when no earlier packet of its flow (source, destination, class and
channel) is still on its way, and then it alone leaves the mesh; a packet of another flow never holds it. -/
def Obligations.FlowsArriveInOrder : Prop :=
  ∀ (s : State) (p : Packet) (before after : List Packet), s.net = before ++ p :: after → p ∉ before →
    s.forUs p = true → s.rst.inReset = false →
      ((∃ q ∈ before, sameFlow p q = true) → s.arrive p = none)
      ∧ ((∀ q ∈ before, sameFlow p q = false) → s.arrive p = some ({ s with net := before ++ after }.settled p))

/-- R153 to R156, R227, R228: xrecv posts td's landing place on its channel with the range pending-write, or stalls at 4
posted on the channel or 16 in all; xsend reads and checks its tile and asks the destination with MRTS, whose LEN is the
padded tile length, or queues behind an unanswered message of its own to the same core and channel.
R227, R232 at both ends of a message: what MRTS, MGNT, its retry, MDATA and a cancel do. `s` is the state before the
packet arrives, `s'` the state with the packet taken from the mesh. -/
def Obligations.MessagesEndToEnd : Prop :=
  ((∀ (s : State) (c : CoreId) (td : Reg) (ch : BitVec 4) (cap a : Nat), s.canIssue c [] = true → td.toNat < 16 →
    let k := s.core c
    capacity (k.desc td) = some cap → ownTile c (k.desc td).addr cap = some a →
      if 16 ≤ k.recvs.length ∨ 4 ≤ (k.recvs.filter fun r => r.chan == ch.toNat).length then
        exec (.xrecv c td ch) s = .next (s.updCore c fun j => { j with stall := some 1 })
      else k.blocksWrite a cap = none → k.triHeld a cap = false →
        exec (.xrecv c td ch) s = .next (s.passing c 4 fun j => { j with
          uid := j.uid + 1
          recvs := j.recvs ++ [⟨j.uid, ch.toNat, j.desc td, none, j.seq⟩]
          pends := j.pends ++ [⟨true, a, cap, .recv j.uid⟩] }))
  ∧ ∀ (s : State) (c : CoreId) (ra ts : Reg) (ch : BitVec 4) (warr : Bool) (wp d : W16) (a : Nat) (u : Tile),
    s.canIssue c [ra] = true → ts.toNat < 16 →
    let k := s.core c
    let n := 64 + up64 u.cart.plen.toNat
    k.sends.length < 8 → s.dest c (k.gr ra) true = .core d → ownTile c (k.desc ts).addr 64 = some a → k.readBar a n = none →
    k.useTile a (some (k.desc ts).fmt) = .ok u → s.freeToUse c u.cart →
      let busy := k.sends.any fun m => !m.acc && m.dst == d && m.dlocal && m.dmod == 0 && m.chan == ch.setWidth 8
      if s.samePart c d = false ∧ busy = false then
        ∃ (t : State) (q : Nat), exec (.xsend c ra ts ch warr wp) s =
            .next ((t.raiseJob q (some c) .access .job).updCore c fun j => j.retire (k.pc.toNat + 8))
          ∧ s.partOf c = some q ∧ { t with cores := s.cores } = s
      else ∃ t : State, exec (.xsend c ra ts ch warr wp) s = .next t
        ∧ t.net = s.net ++ (if busy then [] else
            [{ typ := .mrts, dst := d, src := BitVec.ofNat 16 c, smod := s.modId, wpid := wp, warr := warr
               pencil := u.cart.pencil, chan := ch.setWidth 8, msgid := k.msgid, len := BitVec.ofNat 32 n, epoch := k.epoch }])
        ∧ (t.core c).sends.map (fun m => (m.msgid, m.phase)) = k.sends.map (fun m => (m.msgid, m.phase)) ++ [(k.msgid, if busy then .queued else .asked)]
        ∧ (t.core c).pends = k.pends ++ [⟨false, a, n, .send k.msgid⟩] ∧ (t.core c).msgid = k.msgid + 1
        ∧ (t.core c).store = k.store ∧ (t.core c).g = k.g ∧ (t.core c).t = k.t ∧ (∀ e, e ≠ c → t.core e = s.core e)
        ∧ { t with cores := s.cores, net := s.net } = s)
  ∧ ∀ (s s' : State) (p : Packet), s.arrive p = some s' → p.dst.toNat < 0xFF00 →
    let c := p.dst.toNat
    let k := s'.core c
    -- MRTS: the oldest posted receive of the channel that is not bound
    (exec (.mrts p) s = match s'.rejects p with
      | some code => .next (s'.send (s'.reply p .mgnt code))
      | none => match k.recvs.find? fun r => r.chan == p.chan.toNat % 16 && r.bound.isNone with
        | none => .next (s'.send (s'.reply p .mgnt 0x02))
        | some r =>
          if (capacity r.td).getD 0 < p.len.toNat then .next (s'.send (s'.reply p .mgnt 0x01))
          else .next ((s'.updCore c fun j => { j with recvs := j.recvs.map fun x =>
              if x.id = r.id then { x with bound := some ⟨p.smod, p.src, p.msgid⟩ } else x }).send (s'.reply p .mgnt 0x00)))
    -- MGNT for an asked send
    ∧ (∀ m, k.sends.find? (fun m => !m.acc && m.msgid == p.msgid && m.phase == .asked) = some m →
        (p.code = 0x00 → k.clean m.addr m.len = true → (∀ x ∈ k.sends, x.phase = .queued → sameChannel x m = false) →
          let bytes := k.loadBytes m.addr m.len
          ∃ t : State, exec (.mgnt p) s = .next t
          ∧ (∀ i, 256 * i < m.len → ∃ q ∈ t.net, q.typ = .mdata ∧ q.dst = m.dst ∧ q.msgid = m.msgid ∧ q.off = BitVec.ofNat 32 (256 * i)
              ∧ q.payload = (bytes.drop (256 * i)).take 256 ∧ q.last = decide (m.len ≤ 256 * i + 256)
              ∧ q.pencil = (Cart.parse (bytes.take 64)).pencil)
          ∧ (∀ x ∈ (t.core c).sends, x.msgid ≠ m.msgid) ∧ (∀ x ∈ (t.core c).pends, x.owner ≠ .send m.msgid)
          ∧ m ∈ (t.core c).sent)
        ∧ (p.code = 0x00 → k.clean m.addr m.len = false →
            exec (.mgnt p) s = .next ((s'.failSend c m .csumAtUse).send (s'.cancelPacket c m)))
        -- the next message of the channel is then asked for
        ∧ (∀ x, k.sends.find? (fun x => x.msgid != m.msgid && x.phase == .queued && sameChannel x m) = some x → s'.within c x = true →
            (s'.endSend c m).net = s'.net ++ [s'.request c x])
        ∧ (p.code = 0x02 → exec (.mgnt p) s = .next (s'.updCore c fun j => { j with sends := j.sends.map fun x =>
            if x.msgid = m.msgid then { x with phase := .retry } else x }))
        ∧ (p.code = 0x01 → exec (.mgnt p) s = .next (s'.failSend c m .descBounds))
        ∧ (p.code = 0x04 → exec (.mgnt p) s = .next (s'.failSend c m .isolated))
        ∧ (p.code = 0x06 → exec (.mgnt p) s = .next (s'.failSend c m .access)))
    -- MGNT OK for a message that has been given up, and ISOLATED for one whose payload met a closed wrapper
    ∧ (k.sends.find? (fun m => !m.acc && m.msgid == p.msgid && m.phase == .asked) = none →
        (∀ m, k.givenUp.find? (fun m => m.msgid == p.msgid) = some m → m.acc = false → p.code = 0x00 →
          ∃ q : Packet, exec (.mgnt p) s = .next ((s'.updCore c fun j => { j with
                givenUp := j.givenUp.filter (·.msgid != m.msgid) }).send q)
            ∧ q.typ = .mdata ∧ q.last = true ∧ q.code = 0x08 ∧ q.payload = [] ∧ q.dst = m.dst ∧ q.msgid = m.msgid)
        ∧ ∀ m, k.givenUp.find? (fun m => m.msgid == p.msgid) = none →
            k.sent.find? (fun m => m.acc == false && m.msgid == p.msgid) = some m → p.code = 0x04 →
            exec (.mgnt p) s = .next ((s'.updCore c fun j => { j with sent := j.sent.filter (· != m) }).raise c m.pc m.seq
              (BitVec.ofNat 8 (0x20 + m.chan.toNat % 16)) .isolated .job))
    -- MDATA for a bound receive
    ∧ (p.code ≠ 0x08 → k.snaps = [] → s'.cutOff p = true → exec (.mdata p) s = .next ((s'.updCore c fun j => { j with
        recvs := j.recvs.map fun x => if x.bound = some ⟨p.smod, p.src, p.msgid⟩ then { x with bound := none } else x }).send
          (s'.reply p .mgnt 0x04)))
    ∧ (∀ r, p.code ≠ 0x08 → s'.cutOff p = false → k.boundTo p = some r → k.snaps = [] → (capacity r.td).getD 0 ≥ p.off.toNat + p.payload.length →
        let a := (ownOff c r.td.addr.toNat).getD 0
        (p.last = false → exec (.mdata p) s = .next (s'.updCore c fun j => j.storeBytes (a + p.off.toNat) p.payload))
        ∧ (p.last = true → p.warr = false → ∃ t : State, exec (.mdata p) s = .next t
            ∧ (t.core c).loadBytes (a + p.off.toNat) p.payload.length = p.payload
            ∧ (∀ x, x < a + p.off.toNat ∨ a + p.off.toNat + p.payload.length ≤ x → (t.core c).store.read x = k.store.read x)
            ∧ (∀ x ∈ (t.core c).recvs, x.id ≠ r.id) ∧ (∀ x ∈ (t.core c).pends, x.owner ≠ .recv r.id)))
    -- a cancel releases the receive, which stays posted in its place
    ∧ (p.code = 0x08 → exec (.mdata p) s = exec (.cancel p) s)
    ∧ (c < 0xFF00 → ∃ t : State, exec (.cancel p) s = .next t ∧ (t.core c).store = k.store ∧ (t.core c).pends = k.pends
        ∧ (t.core c).recvs = k.recvs.map fun r => if r.bound = some ⟨p.smod, p.src, p.msgid⟩ then { r with bound := none } else r)

/-- R157, R229, R230, spec/03 R128: an xacc of an own LP128 tile of 8 × 16 elements sends its first ACC packet only (16
elements, the datum in ARG, the bank in CHAN), any other shape raises DESC_FORMAT and no packet leaves; the receiver
answers OK and reserves one of two slots, or FULL; on OK the other seven packets leave, on FULL the first one leaves again
at the retry; a staged contribution is refused by R104, R109, R118 or added to its bank, and its slot is freed. -/
def Obligations.RemoteAccumulation : Prop :=
  (∀ (s : State) (c : CoreId) (ra ts : Reg) (bank : BitVec 2) (warr : Bool) (wp d : W16) (a : Nat) (u : Tile),
    s.canIssue c [ra] = true → ts.toNat < 16 →
    let k := s.core c
    k.sends.length < 8 → s.dest c (k.gr ra) false = .core d → ownTile c (k.desc ts).addr 64 = some a →
    k.readBar a (64 + up64 u.cart.plen.toNat) = none → k.useTile a (some fmtLp128) = .ok u →
    s.freeToUse c u.cart →
      if u.cart.rows = 8 ∧ u.cart.cols = 16 then
        if s.samePart c d = false then
          ∃ (t : State) (q : Nat), exec (.xacc c ra ts bank true warr wp) s =
              .next ((t.raiseJob q (some c) .access .job).updCore c fun j => j.retire (k.pc.toNat + 8))
            ∧ s.partOf c = some q ∧ { t with cores := s.cores } = s
        else ∃ t : State, exec (.xacc c ra ts bank true warr wp) s = .next t
          ∧ t.net = s.net ++ [{ typ := .acc, dst := d, src := BitVec.ofNat 16 c, smod := s.modId, wpid := wp, warr := warr
                                pencil := u.cart.pencil, chan := bank.setWidth 8, msgid := k.msgid, len := 2048
                                epoch := k.epoch, arg := u.cart.datum.setWidth 32, payload := u.payload.take 256 }]
          ∧ (t.core c).pends = k.pends ++ [⟨false, a, 2112, .send k.msgid⟩] ∧ (t.core c).banks = k.banks
          ∧ (t.core c).store = k.store ∧ (∀ e, e ≠ c → t.core e = s.core e) ∧ { t with cores := s.cores, net := s.net } = s
      else ∃ t : State, exec (.xacc c ra ts bank true warr wp) s = .next (t.raise c k.pc k.seq (dDesc ts) .descFormat .job)
          ∧ t.net = s.net)
  ∧ (∀ (s : State) (c : CoreId) (ra src : Reg) (bank : BitVec 2) (warr : Bool) (wp d : W16),
    s.canIssue c [ra] = true → src.toNat < 4 →
    let k := s.core c
    let b := k.bank src.toNat
    k.sends.length < 8 → s.dest c (k.gr ra) false = .core d → s.samePart c d = true → k.matrixIdle = true →
    s.convBar c [src.toNat] = false → b.intmode = false → b.overflows = false →
      ∃ t : State, exec (.xacc c ra src bank false warr wp) s = .next t ∧ (t.core c).epoch = k.epoch + 1
        ∧ ∃ q ∈ t.net, q.typ = .acc ∧ q.dst = d ∧ q.msgid = k.msgid ∧ q.len = 2048 ∧ q.chan = bank.setWidth 8
            ∧ q.arg.toNat = b.datum.toNat ∧ q.pencil = true ∧ q.epoch = k.epoch + 1
            ∧ q.payload = (List.range 16).flatMap fun n => leBytes 16 (roundLong 128 (sInt b.datum) (b.value n)).code)
  ∧ (∀ (s s' : State) (p : Packet), s.arrive p = some s' →
    let c := p.dst.toNat
    let k := s'.core c
    (p.off = 0 → exec (.acc p) s = match s'.rejects p with
        | some code => .next (s'.send (s'.reply p .accrsp code))
        | none =>
          if 2 ≤ k.stages.length then .next (s'.send (s'.reply p .accrsp 0x03))
          else .next ((s'.updCore c fun j => { j with stages := j.stages ++
            [{ who := ⟨p.smod, p.src, p.msgid⟩, bank := p.chan.toNat % 4, datum := p.arg.setWidth 16
               data := Memory.writeBytes [] 0 (p.payload.take 2048), got := 256, warr := p.warr, wp := p.wpid
               pencil := p.pencil, epoch := p.epoch }] }).send (s'.reply p .accrsp 0x00)))
    ∧ (p.off ≠ 0 → s'.cutOff p = true → exec (.acc p) s = .next (s'.send (s'.reply p .accrsp 0x04)))
    ∧ (p.off ≠ 0 → s'.cutOff p = false → exec (.acc p) s = .next (s'.updCore c fun j => { j with stages := j.stages.map fun x =>
        if x.who = ⟨p.smod, p.src, p.msgid⟩ ∧ x.got < 2048 then
          { x with data := Memory.writeBytes x.data p.off.toNat (p.payload.take (2048 - p.off.toNat)), got := x.got + 256 }
        else x }))
    ∧ ∀ m, k.sends.find? (fun m => m.acc && m.msgid == p.msgid && m.phase == .asked) = some m →
        (p.code = 0x04 → exec (.accrsp p) s = .next (s'.failSend c m .isolated))
        ∧ (p.code = 0x00 → m.data.length = 2048 → ∃ t : State, exec (.accrsp p) s = .next t
          ∧ (∀ i, 1 ≤ i → i < 8 → ∃ q ∈ t.net, q.typ = .acc ∧ q.dst = m.dst ∧ q.msgid = m.msgid ∧ q.off = BitVec.ofNat 32 (256 * i)
              ∧ q.payload = (m.data.drop (256 * i)).take 256 ∧ q.chan = m.chan ∧ q.arg = m.datum.setWidth 32)
          ∧ ∀ x ∈ (t.core c).sends, x.msgid ≠ m.msgid)
        ∧ (p.code = 0x03 → exec (.accrsp p) s = .next (s'.updCore c fun j => { j with sends := j.sends.map fun x =>
            if x.msgid = m.msgid then { x with phase := .retry } else x })))
  ∧ (∀ (s : State) (c : CoreId) (m : Send), (s.core c).sends.find? (fun x => x.msgid == m.msgid) = some m → m.phase = .retry →
      s.within c m = true →
      exec (if m.acc then .accRetry c m.msgid else .mrtsRetry c m.msgid) s =
        .next ((s.updCore c fun k => { k with sends := k.sends.map fun x =>
          if x.msgid = m.msgid then { x with phase := .asked } else x }).send (s.request c m)))
  ∧ ∀ (s : State) (c : CoreId) (slot : Nat) (x : Stage), (s.core c).stages[slot]? = some x → 2048 ≤ x.got →
      let k := s.core c
      let b := k.bank x.bank
      let freed := s.updCore c fun j => { j with stages := j.stages.filter (· != x) }
      (b.run = some true → exec (.xaccApply c slot) s = .next (freed.raise c k.pc k.seq (dBank x.bank) .formatMismatch .job))
      ∧ (b.run ≠ some true → b.fixed = false ∨ b.tight = true →
          exec (.xaccApply c slot) s = .next (freed.raise c k.pc k.seq (dBank x.bank) .descFormat .job))
      ∧ (b.run ≠ some true → b.fixed = true → b.tight = false → x.warr = false →
          x.pencil = false ∨ (x.who.smod = s.modId ∧ x.who.src.toNat = c) →
          exec (.xaccApply c slot) s = .next (s.updCore c fun j => { j.setBank x.bank (b.addPartial x.elements) with
            stages := j.stages.filter (· != x) }))

/-! ### Waypoints (spec/04, spec/06) -/

/-- R160 to R162, R233, R244: what a core's waypoint instructions do: warm and warr send their packet and go on, wtest sends a
state query whose answer rd waits for, wwait registers with the home and stands still, inkw passes once the frontier covers its
epoch and stalls as INK before. A packet to a waypoint homed outside the core's partition is discarded and reported as ACCESS
against its job; the instruction is done as otherwise. -/
def Obligations.WaypointInstructions : Prop :=
  ∀ (s : State) (c : CoreId) (rd ra rb : Reg) (inkreq : Bool) (ext : W32), s.canIssue c [rd, ra, rb] = true →
    let k := s.core c
    let w : W16 := (k.gr ra).setWidth 16
    let toHome (typ : PType) : Packet :=
      { typ := typ, edge := 5, dst := BitVec.ofNat 16 (wpHomeCore w.toNat), src := BitVec.ofNat 16 c, smod := s.modId, wpid := w }
    let outcome (i : Instr) (n : Nat) (u : State) (p : Packet) : Prop :=
      (s.mayName c w = true → exec i s = .next ((u.send p).updCore c fun j => j.retire (k.pc.toNat + n)))
      ∧ (s.mayName c w = false → ∀ q, s.partOf c = some q →
          exec i s = .next ((u.raiseJob q (some c) .access .job).updCore c fun j => j.retire (k.pc.toNat + n)))
    outcome (.warm c ra rb inkreq ext) 8 s
        { toHome .warm with inkreq := inkreq, arg := (k.gr rb).setWidth 32, time := ext.setWidth 64 }
    ∧ outcome (.wtest c rd ra) 4 (s.updCore c fun j => { j with wtests := j.wtests ++ [(w, rd, k.seq)] }) (toHome .wqry)
    ∧ (k.matrixIdle = true → (k.gr ra).getLsbD 19 = true →
        outcome (.warr c ra) 4 s { toHome .warr with pencil := !covers k.frontier k.epoch, epoch := k.epoch })
    ∧ (k.matrixIdle = true → k.raEn = false ∨ (s.wp w.toNat).state = .complete ∨ (s.wp w.toNat).state = .expired →
        let parked := s.updCore c fun j => { j with wait := .wwait w, stall := some 0 }
        (s.mayName c w = true → exec (.wwait c ra) s = .next (parked.send { toHome .wqry with chan := 1 }))
        ∧ (s.mayName c w = false → ∀ q, s.partOf c = some q →
            exec (.wwait c ra) s = .next (parked.raiseJob q (some c) .access .job)))
    ∧ (k.matrixIdle = true → k.raEn = true → s.mayName c w = true → (s.wp w.toNat).state = .unarmed ∨ (s.wp w.toNat).state = .armed →
        ∃ t : State, exec (.wwait c ra) s = .next t ∧ { toHome .wqry with chan := 1 } ∈ t.net
          ∧ (∀ p ∈ t.net, p ∈ s.net ∨ p = { toHome .wqry with chan := 1 } ∨ p.typ = .mrd)
          ∧ (t.core c).wait = .wwait w ∧ (t.core c).pc = k.pc ∧ (t.core c).store = k.store ∧ (t.core c).g = k.g
          ∧ (∀ d, d ≠ c → t.core d = s.core d) ∧ { t with cores := s.cores, net := s.net } = s)
    ∧ (let e : W32 := if ra = 0 then k.epoch else (k.gr ra).setWidth 32
       exec (.inkw c ra) s = if covers k.frontier e then .next (s.passing c 4 id)
         else .next (s.updCore c fun j => { j with stall := some 4 }))

/-- R239 to R244: one tick of a home with packets of this module: what expired in an earlier tick, the WARM packets in their order, then the count of the
accepted arrivals (a pencilled one at an INKREQ waypoint is not accepted), then completion, then expiry (so that an arrival
wins over the deadline), then the waits that register. A tick without arrivals expires an ARMED waypoint whose DEADLINE has
come once that tick has passed, and WDONE goes to every sheet of WAITERS; DEADLINE and WAITERS stay (log entry 76).
R160, R161, R244, R245 for the answers that reach a core or its sheet: a wwait ends past its instruction when the
waypoint is complete and raises WAYPOINT_TIMEOUT when it is expired; a wtest's rd takes the state; INKHOLD leaves the arrival
held by a core that is not stopped; WDONE wakes exactly the registered waiters of the sheet; a held arrival is sent again,
not pencilled, once what it waits for is inked. -/
def Obligations.WaypointHomes : Prop :=
  ((∀ (s : State) (sheet w : Nat) (pkts : List Packet), w < 65536 → wpHome w = sheet → s.sheetPart sheet ≠ none →
    s.rst.inReset = false → (∀ p ∈ pkts, p.dlocal = true ∧ p.smod = s.modId ∧ p ∉ s.net) →
    let here (typ : PType) : List Packet := pkts.filter fun p => p.typ == typ && p.wpid.toNat == w
    let x0 : Waypoint :=
      if (s.wp w).state = .armed ∧ (∃ d ∈ (s.wp w).deadline, d < s.tick.toNat) then { s.wp w with state := .expired } else s.wp w
    let x1 := (here .warm).foldl (fun (x : Waypoint) p => { x with
      state := .armed, count := if x.state = .expired then 0 else x.count, target := p.arg, inkreq := p.inkreq
      deadline := if p.time.toNat = 0 then none else some (s.tick.toNat + 1024 * p.time.toNat) }) x0
    let n := ((here .warr).filter fun p => !(p.pencil && x1.inkreq)).length
    let count : W32 := if x1.count.toNat + n < 2 ^ 32 then BitVec.ofNat 32 (x1.count.toNat + n) else 0xFFFFFFFF
    let x3 : Waypoint :=
      if x1.state = .armed ∧ x1.target.toNat ≤ count.toNat then
        { x1 with state := .complete, count := count - x1.target, deadline := none, waiters := 0 }
      else if x1.state = .armed ∧ (∃ d ∈ x1.deadline, d ≤ s.tick.toNat) then
        { x1 with state := .expired, count := count }
      else { x1 with count := count }
    let regs := (here .wqry).filter fun p => p.chan == 1
    ∃ t : State, exec (.waypointTick sheet pkts) s = .next t
      ∧ t.wp w = (if x3.state = .complete ∨ x3.state = .expired then x3
          else { x3 with waiters := regs.foldl (fun v p => v ||| BitVec.ofNat 16 (2 ^ sheetOf p.src.toNat)) x3.waiters
                         cores := regs.foldl (fun v p => v.filter (· != p.src.toNat) ++ [p.src.toNat]) x3.cores })
      ∧ t.cores = s.cores ∧ t.mem = s.mem)
  ∧ ∀ (s : State) (w : W16) (d : Nat), (s.wp w.toNat).state = .armed → (s.wp w.toNat).count.toNat < (s.wp w.toNat).target.toNat →
    (s.wp w.toNat).deadline = some d →
    (s.tick.toNat ≤ d → exec (.waypointExpiry w) s = .next s)
    ∧ (d < s.tick.toNat → ∃ t : State, exec (.waypointExpiry w) s = .next t
      ∧ t.wp w.toNat = { s.wp w.toNat with state := .expired }
      ∧ (∀ v, v ≠ w.toNat → t.wp v = s.wp v)
      ∧ (∃ out, t.net = s.net ++ out ∧ out.map (fun p => (p.typ, p.dst, p.wpid, p.arg)) =
          ((List.range 16).filter fun i => (s.wp w.toNat).waiters.getLsbD i).map fun i =>
            (PType.wdone, BitVec.ofNat 16 (sheetHome i), w, (3 : W32)))
      ∧ { t with wps := s.wps, net := s.net } = s))
  ∧ (∀ (s s' : State) (p : Packet), s.arrive p = some s' →
    let c := p.dst.toNat
    let k := s'.core c
    (p.code ≠ 0x00 → p.code ≠ 0x05 → coreExists c = true →
        exec (.wrsp p) s = .next (s'.raise c k.pc k.seq 0xFF .access .job))
    ∧ (p.code = 0x00 → p.chan = 1 → k.wait = .wwait p.wpid →
      (p.arg ≠ 3 → exec (.wrsp p) s = .next (s'.updCore c fun j => { j with wait := .none }.retire (k.pc.toNat + 4)))
      ∧ (p.arg = 3 → exec (.wrsp p) s =
          .next ((s'.updCore c fun j => { j with wait := .none }).raise c k.pc k.seq 0xFF .waypointTimeout .job)))
    ∧ (∀ rd n, p.code = 0x00 → p.chan ≠ 1 → k.wtests = [(p.wpid, rd, n)] →
        exec (.wrsp p) s = .next (s'.updCore c fun j => { j with wtests := [] }.setG rd (p.arg.setWidth 64)))
    ∧ (p.code = 0x05 → p.ext = 0 → (k.run = .running ∨ k.run = .halted) →
        exec (.wrsp p) s = .next (s'.updCore c fun j => { j with heldArrs := j.heldArrs ++
          [{ wp := p.wpid, dlocal := p.smod == s'.modId, dmod := p.smod, own := some p.epoch, producer := none, again := false }] }))
    ∧ (p.arg = 2 → ∃ t : State, exec (.wdone p) s = .next t
        ∧ (t.wp p.wpid.toNat).cores = (s'.wp p.wpid.toNat).cores.filter (fun d => sheetOf d != sheetOf c)
        ∧ ∀ d, t.core d =
          if sheetOf d = sheetOf c ∧ d ∈ (s'.wp p.wpid.toNat).cores ∧ (s'.core d).wait = .wwait p.wpid then
            { s'.core d with wait := .none }.retire ((s'.core d).pc.toNat + 4)
          else s'.core d))
  ∧ ∀ (s : State) (c : CoreId) (i : Nat) (h : HeldArr) (e : W32), (s.core c).heldArrs[i]? = some h → h.producer = none →
      h.own = some e → covers (s.core c).frontier e = true → (s.ink c).isDead e = false → (s.core c).dependsDead e = false →
      ∃ q : Packet, exec (.inkholdResend c i) s =
          .next ((s.updCore c fun j => { j with heldArrs := j.heldArrs.eraseIdx i }).send q)
        ∧ q.typ = .warr ∧ q.wpid = h.wp ∧ q.pencil = false ∧ q.src = BitVec.ofNat 16 c ∧ q.dlocal = h.dlocal ∧ q.dmod = h.dmod

/-! ### Control instructions (spec/04) -/

/-- R163, R169, R453, Table 4-15: crr, crw, crs and crc on every listed register: the value read, what a write of the
register's RW fields leaves, the bits that crs sets and crc clears; a write other than to FMODE, SRKEY, HISTB and the DATUM of
a bank waits for every earlier instruction; FMODE.ZNORM stays 0 while its feature is absent; an unlisted index raises
FEATURE_UNSUPPORTED.
Tables 2-8, 4-16, 4-20, 4-21, 4-23, 4-24: the values that a whole write leaves in the core's control registers: reserved
values keep a field or are clamped, reserved bits stay zero, read-only registers stay, FSTAT and CFAULT.VALID clear where a 1
is written. -/
def Obligations.ControlRegisters : Prop :=
  (∀ (s : State) (c : CoreId) (rd ra : Reg) (idx : BitVec 11), s.canIssue c [rd, ra] = true →
    let k := s.core c
    let v := k.gr ra
    (cReg idx = none → ∀ i ∈ [Instr.crr c rd idx, .crw c ra idx, .crs c ra idx, .crc c ra idx],
      exec i s = .next (s.raise c k.pc k.seq 0xFF .featureUnsupported .job))
    ∧ ∀ r, cReg idx = some r →
        let z (j : Core) : Core :=
          if s.feature featZnorm then j else { j with ctl := { j.ctl with fmode := j.ctl.fmode &&& ~~~8 } }
        let ofBank : Prop := ∃ n, r = .datum n
        let free : Prop := ofBank ∨ k.unfinished = none ∨ r = .fmode ∨ r = .srkeyLo ∨ r = .srkeyHi ∨ r = .histb
        (ofBank → k.matrixIdle = true) →
        exec (.crr c rd idx) s = .next (s.passing c 4 fun j => j.setG rd ((z k).readC c s.modId r))
        ∧ (free →
            exec (.crw c ra idx) s = .next (s.passing c 4 fun j => z (j.writeC v r))
            ∧ exec (.crs c ra idx) s = .next (s.passing c 4 fun j => z (j.setRW (k.readC c s.modId r ||| v) r))
            ∧ exec (.crc c ra idx) s = .next (s.passing c 4 fun j => z (j.setRW (k.readC c s.modId r &&& ~~~v) r)))
        ∧ ∀ cause, ¬ free → k.unfinished = some cause →
            ∀ i ∈ [Instr.crw c ra idx, .crs c ra idx, .crc c ra idx],
              exec i s = .next (s.updCore c fun j => { j with stall := some cause }))
  ∧ ∀ (k : Core) (v : W64),
    let lo : W32 := v.setWidth 32
    ((k.writeC v .fmode).ctl.fmode.setWidth 2 = if lo.setWidth 2 = (3 : BitVec 2) then k.ctl.fmode.setWidth 2 else lo.setWidth 2)
    ∧ (k.writeC v .fmode).ctl.fmode.toNat / 4 = lo.toNat / 4 % 4
    ∧ (k.writeC v .fstat).ctl.fstat = k.ctl.fstat &&& ~~~lo
    ∧ (k.writeC v .chkrate).ctl.chkrate = (if 6 ≤ lo.toNat % 8 then k.ctl.chkrate else BitVec.ofNat 32 (lo.toNat % 8))
    ∧ (k.writeC v .histb).ctl.histb = BitVec.ofNat 32 (lo.toNat % 65536)
    ∧ (k.writeC v .stepno).ctl.stepno = lo
    ∧ (k.writeC v .steppc).steppc = BitVec.ofNat 18 (v.toNat % 2 ^ 18 / 4 * 4)
    ∧ ((k.writeC v .rahead).raDepth = min (lo.toNat / 1024 % 64) 32 ∧ (k.writeC v .rahead).raSlots = min (lo.toNat % 16) 8
        ∧ (k.writeC v .rahead).raEn = lo.getLsbD 8)
    ∧ (∀ n, Sparse.get 0 (k.writeC v (.idle n)).idle n = BitVec.ofNat 64 (v.toNat % 2 ^ 48))
    ∧ (k.writeC v .cfault).cfault = (if v.getLsbD 63 then { k.cfault with valid := false, count := 0 } else k.cfault)
    ∧ (∀ r ∈ [CReg.coreid, .epoch, .cycle, .icount], k.writeC v r = k)

/-- R164: fence passes once no earlier send, memory access or transfer is in flight and nothing the core sent still lands, and
waits before; ifence and halt pass once every earlier instruction has ended, and halt frees the prefetch slots and stops issue.
R171: a prefetch that completes fills its slot and nothing else; one whose cartouche or length a tld would refuse is abandoned,
its slot free; while its answers are outstanding it is not complete. -/
def Obligations.FencesAndHalt : Prop :=
  ∀ (s : State) (c : CoreId),
    let k := s.core c
    (s.canIssue c [] = true →
      (k.earlier = none → s.landing c = false → exec (.fence c) s = .next (s.passing c 4 id))
      ∧ (k.earlier = none → s.landing c = true → exec (.fence c) s = .next (s.updCore c fun j => { j with stall := some 1 }))
      ∧ (∀ cause, k.earlier = some cause → exec (.fence c) s = .next (s.updCore c fun j => { j with stall := some cause }))
      ∧ (k.earlier = none ↔ k.sends = [] ∧ k.flights = [] ∧
          ∀ r ∈ k.remotes, (∃ n, r.use = .prefetch n) ∨ (∃ n, r.use = .adapter n) ∨ ∃ a n, r.use = .issue a n)
      ∧ (k.unfinished = none → exec (.ifence c) s = .next (s.passing c 4 id))
      ∧ (k.unfinished = none → (∀ p, s.partOf c = some p → s.overlayOn p = false) →
          exec (.halt c) s = .next (s.passing c 4 fun j => { j with
            run := .halted, slots := []
            remotes := j.remotes.filter fun r => match r.use with | .prefetch _ => false | _ => true }))
      ∧ (∀ cause, k.unfinished = some cause →
          exec (.ifence c) s = .next (s.updCore c fun j => { j with stall := some cause })
          ∧ (k.entries = [] → k.lent = [] → exec (.halt c) s = .next (s.updCore c fun j => { j with stall := some cause })))
      ∧ (k.unfinished = none ↔ k.earlier = none ∧ k.wtests = [] ∧ k.matrixIdle = true))
    ∧ ∀ (x : Slot) (r : Remote), k.slots = [x] → x.tile = none → k.remotes.find? (fun r => r.use == .prefetch x.idx) = some r →
        let cart := Memory.readBytes r.data 0 64
        let n := (Cart.parse cart).plen.toNat
        let left := k.remotes.filter fun r => r.use != .prefetch x.idx
        (r.left ≠ 0 → exec (.prefetchFill c x.idx) s = .next s)
        ∧ (r.left = 0 → hcrcOk cart = true → up64 (64 + n) ≤ x.capacity →
            exec (.prefetchFill c x.idx) s = .next (s.updCore c fun j => { j with
              slots := [{ x with tile := some (cart ++ Memory.readBytes r.data 64 n) }], remotes := left }))
        ∧ (r.left = 0 → hcrcOk cart = false ∨ x.capacity < up64 (64 + n) →
            exec (.prefetchFill c x.idx) s = .next (s.updCore c fun j => { j with slots := [], remotes := left }))

/-! ### Issue, over every instruction (spec/04) -/

/-- R116, R164, R173 to R176: a core that is halted, stopped by a fault or off, behind a closed wrapper, or in a module in reset does
nothing, whatever its next instruction is; while issue is held for a frequency change, for a triangulation or for a tight bank's
repeat, every instruction of a core waits and nothing changes; the cycles of the hold are charged to POWER, else to CHECK, else
to DATUM. -/
def Obligations.IssueHolds : Prop :=
  (∀ (s : State) (c : CoreId) (i : Instr), (encodeCore i).isSome = true → i.core? = some c →
    (s.core c).run ≠ .running ∨ s.rst.inReset = true ∨ s.svr.closed.contains (.core c) = true → exec i s = .next s)
  ∧ (∀ (s : State) (c : CoreId) (i : Instr), (encodeCore i).isSome = true → i.core? = some c →
    s.pwr.hold ≠ 0 ∨ (s.core c).triHold = true ∨ (s.core c).repeatLeft ≠ 0 → exec i s = .next s)
  ∧ ∀ (k : Core) (n held : Nat), k.waits = true → held ≤ n → k.stall ≠ some 5 → (∀ m, (Sparse.get 0 k.idle m).toNat < 2 ^ 48) →
    let grows (m by_ : Nat) : Prop :=
      (Sparse.get 0 (k.cycles n held).idle m).toNat = ((Sparse.get 0 k.idle m).toNat + by_) % 2 ^ 48
    grows 5 held
    ∧ (k.triHold = true → grows 7 (n - held) ∧ ∀ m, m ≠ 5 → m ≠ 7 → grows m 0)
    ∧ (k.triHold = false → grows 6 (min k.repeatLeft n - held)
        ∧ ∀ m, m < 8 → m ≠ 5 → m ≠ 6 → grows m (if k.stall = some m then n - max held k.repeatLeft else 0))

/-- R136, Tables 4-3 to 4-13, 5-2, 5-9 and their kin: every instruction with its fields in range is read back from its own
words: no bit of an encoding is dropped. -/
def Obligations.InstructionWordsRoundTrip : Prop :=
  ∀ (i : Instr) (c : CoreId) (w ext : W32), i.wf = true → i.core? = some c → encodeCore i = some (w, ext) →
    decodeCore c w ext = some i

/-! ### Accumulation and the matrix unit (spec/03, spec/05) -/

/-- R98: the long path adds in any order. Two accumulating operations of one covered or uncovered bank, both at its fixed
datum, leave the same bank whichever comes first, the check cells included; and the products of one cell may arrive in any
order. -/
def Obligations.AccumulationIsOrderFree : Prop :=
  (∀ (b : Bank) (k k' : Nat) (ma mb ma' mb' : List (List Machine.Num)), b.intmode = false → b.fixed = true →
    (b.addPair k ma mb).addPair k' ma' mb' = (b.addPair k' ma' mb').addPair k ma mb)
  ∧ ∀ (d : Int) (x : Cell) (ts us : List Machine.Num), ts.Perm us → ts.foldl (Cell.term (some d)) x = us.foldl (Cell.term (some d)) x

/-- R86, R186, R187, R100, R101: mclr leaves its bank in the clear state with the fields last written in force, mdat writes
the masked fields of DATUM_n: while terms are in the bank only the values last written change, otherwise they are in force
at once, the datum too when the policy that results is FIXED. -/
def Obligations.BankClearAndDatum : Prop :=
  ∀ (s : State) (c : CoreId) (ab ra : Reg) (mask : BitVec 5), s.canIssue c [ra] = true → ab.toNat < 4 →
    (s.core c).matrixIdle = true →
    let b := (s.core c).bank ab.toNat
    let v := (s.core c).gr ra
    (∃ x : Bank, exec (.mclr c ab) s = .next (s.passing c 4 fun k => k.setBank ab.toNat x)
      ∧ (∀ n, x.cell n = {}) ∧ (∀ n, x.chkReg n = {}) ∧ x.kcnt = 0 ∧ x.pemax = 0x8000 ∧ x.replay = [] ∧ x.opn = false
      ∧ x.repeated = false ∧ x.intmode = false ∧ x.cover = none ∧ x.written = b.written ∧ x.force = b.written)
    ∧ ∃ x : Bank, exec (.mdat c ab ra mask) s = .next (s.passing c 4 fun k => k.setBank ab.toNat x)
      ∧ x.cells = b.cells ∧ x.kcnt = b.kcnt ∧ x.opn = b.opn
      ∧ x.written.pbound = (if mask.getLsbD 0 then BitVec.ofNat 16 (v.toNat / 2 ^ 48) else b.written.pbound)
      ∧ x.written.klog = (if mask.getLsbD 2 then BitVec.ofNat 5 (v.toNat / 2 ^ 8) else b.written.klog)
      ∧ x.written.policy = (if mask.getLsbD 3 ∧ v.toNat / 64 % 4 ≠ 3 then BitVec.ofNat 2 (v.toNat / 2 ^ 6) else b.written.policy)
      ∧ x.written.tighten = (if mask.getLsbD 4 then BitVec.ofNat 6 v.toNat else b.written.tighten)
      ∧ (b.opn = true → x.force = b.force ∧ x.datum = b.datum ∧ x.fixed = b.fixed)
      ∧ (b.opn = false → x.force = x.written
          ∧ (x.written.policy = polFixed → x.fixed = true
              ∧ x.datum = if mask.getLsbD 1 then BitVec.ofNat 16 (v.toNat / 2 ^ 16) else b.datum))

/-- R178, R179, R182, R183: an mmac of n tile pairs at a fixed datum in the long path. Every cell receives its n × K products,
each aligned to the datum and rounded by itself; rows past ROWS add exact +0 products; KCNT grows by n × K; no other bank
changes, nor any byte of the store, and the operand stage is taken. -/
def Obligations.MatrixMultiplyAdds : Prop :=
  ∀ (s : State) (c : CoreId) (ab ta tb : Reg) (lp : Bool) (n1 : BitVec 4) (a b : Nat) (ua ub : Nat → Tile),
    s.canIssue c [] = true → ab.toNat < 4 → ta.toNat < 16 → tb.toNat < 16 →
    let k := s.core c
    let da := k.desc ta
    let db := k.desc tb
    let n := n1.toNat + 1
    let capA := (capacity da).getD 0
    let capB := (capacity db).getD 0
    let old := k.bank ab.toNat
    k.matrixIdle = true → macOperands c da db n false = .ok (a, b) → k.operandBar a (n * capA) b (n * capB) = none →
    isIntRun da db lp = false → old.intmode = false → old.fixed = true → old.force.policy ≠ polTight →
    (k.tags.map (·.addr)).Nodup →
    (∀ i < n, k.useTile (a + i * capA) (some da.fmt) = .ok (ua i) ∧ k.useTile (b + i * capB) (some db.fmt) = .ok (ub i)
      ∧ s.freeToUse c (ua i).cart ∧ s.freeToUse c (ub i).cart) →
      let elA (p i q : Nat) : Machine.Num := (rowAt (k.operand k.ftz (a + p * capA) da (ua p).cart).1 i).getD q .nan
      let elB (p j q : Nat) : Machine.Num := (rowAt (k.operand k.ftz (b + p * capB) db (ub p).cart).1 j).getD q .nan
      let prod (i j p q : Nat) : Machine.Num :=
        if da.rows.toNat ≤ i ∨ db.rows.toNat ≤ j then .fin false 0 0 else Machine.Num.mul (elA p i q) (elB p j q)
      ∃ t : State, exec (.mmac c ab ta tb lp n1) s = .next t
        ∧ (∀ i < 8, ∀ j < 16, ((t.core c).bank ab.toNat).cell (16 * i + j) =
            ((List.range n).flatMap fun p => (List.range da.cols.toNat).map (prod i j p)).foldl
              (Cell.term (some (sInt old.datum))) (old.cell (16 * i + j)))
        ∧ ((t.core c).bank ab.toNat).kcnt = satAdd32 old.kcnt (n * da.cols.toNat)
        ∧ ((t.core c).bank ab.toNat).datum = old.datum ∧ (∀ m, m ≠ ab.toNat → (t.core c).bank m = k.bank m)
        ∧ (t.core c).stage = some .instr ∧ (t.core c).store = k.store ∧ (t.core c).g = k.g ∧ (t.core c).t = k.t
        ∧ (∀ d, d ≠ c → t.core d = s.core d) ∧ { t with cores := s.cores } = s

/-- R188 to R193: what the reads of a bank leave. An mcvt of a bank group advances the epoch and stands a tile at td.ADDR whose
cartouche carries td's fields and whose elements are the cells rounded to td's format, and clears the group under CLR; outside
the tile only PENCIL flags of inked tiles may clear. An mrd writes the cells as FP32 to four vector registers; an mhd writes
the 288-byte record of its histogram slot and clears the slot. -/
def Obligations.BankConversions : Prop :=
  (∀ (s : State) (c : CoreId) (td ab : Reg) (rm nb : BitVec 2) (hslot clr rstep : Bool) (bound : W16) (bs : List Nat) (cap a : Nat),
    s.canIssue c [] = true → td.toNat < 16 → mcvtBanks ab nb = some bs →
    let k := s.core c
    let d := k.desc td
    let lp := isLong d.fmt && d.fmt != fmtLp128
    let datum : W16 := if lp then bound else BitVec.ofInt 16 (k.bank (bs.headD 0)).d
    let o : Rounding := { mode := k.rmode rm, ftz := k.ftz, znorm := k.znorm, datum := sInt datum }
    let src := k.groupValues bs
    let w := writeElems d.fmt d.bsize o (k.withRandom o.mode d src)
    k.matrixIdle = true → capacity d = some cap → d.rows = 8 → d.cols.toNat = 16 * bs.length → badOutput d = false →
    d.survey = false → ownTile c d.addr cap = some a → k.blocksWrite a cap = none → k.triHeld a cap = false →
    s.convBar c bs = false → (∀ n ∈ bs, (k.bank n).overflows = false ∧ (k.bank n).intmode = false) →
    (d.fmt = fmtLp128 → ∀ n ∈ bs, (k.bank n).datum = (k.bank (bs.headD 0)).datum) →
    (lp = true ∨ rangeFails d.fmt bound (expBound (fun x y => if x < y then y else x) w.2) src w.2 = false) →
      ∃ t : State, exec (.mcvt c td ab rm hslot clr nb bound rstep) s = .next t
        ∧ (t.core c).epoch = k.epoch + 1 ∧ (t.core c).loadBytes (a + 64) w.1.length = w.1
        ∧ (let u := Cart.parse ((t.core c).loadBytes a 64)
           u.ver = 1 ∧ u.fmt = d.fmt ∧ u.rows = 8 ∧ u.cols = d.cols ∧ u.plen.toNat = w.1.length ∧ u.pcrc = crc32c w.1
           ∧ u.version = d.version ∧ u.tensor = d.tensor ∧ u.step = d.step ∧ u.core = BitVec.ofNat 16 c ∧ u.module = s.modId
           ∧ u.epoch = k.epoch + 1)
        ∧ hcrcOk ((t.core c).loadBytes a 64) = true
        ∧ (∀ x, x < a ∨ a + cap ≤ x → (t.core c).store.read x &&& 0x7F = k.store.read x &&& 0x7F)
        ∧ (∀ n ∈ bs, (t.core c).bank n = (if clr then (k.bank n).clear else k.bank n))
        ∧ (∀ n, n ∉ bs → (t.core c).bank n = k.bank n) ∧ (t.core c).g = k.g ∧ (t.core c).v = k.v ∧ (t.core c).t = k.t)
  ∧ (∀ (s : State) (c : CoreId) (vd ab : Reg) (rm : BitVec 2) (hslot clr : Bool),
    s.canIssue c [] = true → vd.toNat % 4 = 0 → ab.toNat < 4 → rm ≠ 3 →
    let k := s.core c
    let b := k.bank ab.toNat
    k.matrixIdle = true → s.convBar c [ab.toNat] = false → b.overflows = false → b.intmode = false →
      ∃ t : State, exec (.mrd c vd ab rm hslot clr) s = .next t
        ∧ (t.core c).epoch = k.epoch + 1
        ∧ (∀ q < 4, ∀ l < 32, (t.core c).lane (vd.toNat + q) l =
            BitVec.ofNat 32 (fpFp32.round (mrdMode k rm) 0 k.ftz k.znorm (b.value (16 * (2 * q + l / 16) + l % 16))).code)
        ∧ (∀ r l, r < vd.toNat ∨ vd.toNat + 4 ≤ r → l < 32 → (t.core c).lane r l = k.lane r l)
        ∧ (t.core c).bank ab.toNat = (if clr then b.clear else b) ∧ (t.core c).g = k.g ∧ (t.core c).t = k.t)
  ∧ ∀ (s : State) (c : CoreId) (ra rb : Reg) (slot : Bool), s.canIssue c [ra, rb] = true →
    let k := s.core c
    let a := (k.gr ra).toNat
    let counts := (List.range 68).flatMap fun i => leBytes 4 (Sparse.get 0 k.hist ((if slot then 68 else 0) + i)).toNat
    (a % 32 ≠ 0 ∨ 0x3FEE0 < a → exec (.mhd c ra rb slot) s = .next (s.raise c k.pc k.seq 0xFF .access .job))
    ∧ (a % 32 = 0 → a ≤ 0x3FEE0 → k.matrixIdle = true → k.blocksWrite a 288 = none → k.triHeld a 288 = false →
        ∃ t : State, exec (.mhd c ra rb slot) s = .next t
          ∧ (t.core c).loadBytes a 288 = leBytes 4 ((k.gr rb).toNat % 2 ^ 32) ++ leBytes 2 (k.ctl.histb.toNat % 65536) ++ [0, 0]
              ++ leBytes 4 k.ctl.stepno.toNat ++ [0, 0, 0, 0] ++ counts
          ∧ (∀ i < 68, Sparse.get 0 (t.core c).hist ((if slot then 68 else 0) + i) = 0
              ∧ Sparse.get 0 (t.core c).hist ((if slot then 0 else 68) + i) = Sparse.get 0 k.hist ((if slot then 0 else 68) + i))
          ∧ (∀ x, x < a ∨ a + 288 ≤ x → (t.core c).store.read x = k.store.read x) ∧ (∀ d, d ≠ c → t.core d = s.core d))

/-- R285, R286: a landing leaves the tag of its tile and at most 64 tags, no two at one address when there were none before;
every write takes away the tags of the tiles whose granules it touches, and no other; a use only makes its tag the latest. -/
def Obligations.LandingTags : Prop :=
  ∀ (k : Core) (a plen : Nat) (cart payload bs : List Byte), (k.tags.map (·.addr)).Nodup → cart.length = 64 →
    (let j := k.landTile a cart payload
     (j.tags.map (·.addr)).Nodup ∧ j.tags.length ≤ 64 ∧ j.tagFor a payload.length = some ⟨a, payload.length, crc32c payload⟩)
    ∧ (∀ t, t ∈ (k.storeBytes a bs).tags ↔ t ∈ k.tags ∧ overlap64 t.addr (64 + up64 t.plen) a bs.length = false)
    ∧ (∀ x n, (k.touchTag a plen).tagFor x n = k.tagFor x n) ∧ ((k.touchTag a plen).tags.map (·.addr)).Nodup

/-- R194 to R198, R453: an mseg whose segments all have NONE ends at once and adds nothing; one whose first adapter is in no
buffer starts its load into buffer 0, pending-write under the adapter's tag, and the read requests for its tiles leave; without
the feature VARIANT it raises FEATURE_UNSUPPORTED. ADAPTER_LOAD_DONE leaves the adapter's tiles in the buffer, tile i at
i × cap(tb), once every answer has come. -/
def Obligations.VariantSegments : Prop :=
  (∀ (s : State) (c : CoreId) (ab ta tb gs : Reg) (n1 : BitVec 4) (a b0 g : Nat) (segs : List Seg) (pb : Option Int),
    s.canIssue c [gs] = true → ab.toNat < 4 → ta.toNat < 16 → tb.toNat < 16 →
    let k := s.core c
    let da := k.desc ta
    let db := k.desc tb
    let n := n1.toNat + 1
    let capA := (capacity da).getD 0
    let capB := (capacity db).getD 0
    let t := segTable (k.loadBytes g 64)
    let rows := segRows 0 t.segs
    let m : MsegRun :=
      { bank := ab.toNat, ta := da, tb := db, n := n, part := t.part, buf0 := t.buf0, buf1 := t.buf1, segs := segs, last := 1
        logged := decide ((k.bank ab.toNat).clog.length < 32), ftz := k.ftz, pc := k.pc, seq := k.seq }
    let free (b : Nat) : Prop := k.blocksWrite b (n * capB) = none ∧ k.triHeld b (n * capB) = false
    (s.feature featVariant = false →
      exec (.mseg c ab ta tb gs n1) s = .next (s.raise c k.pc k.seq 0xFF .featureUnsupported .job))
    ∧ (s.feature featVariant = true → k.matrixIdle = true → macOperands c da db n true = .ok (a, b0) → tileOff (k.gr gs) = some g →
      k.operandBar a (n * capA) g 64 = none → k.clean g 64 = true → t.part ≤ 1 →
      (rows.map fun r => r.2.2.1 - r.2.1).foldl (· + ·) 0 ≤ da.rows.toNat → t.buf0 % 64 = 0 → t.buf1 % 64 = 0 →
      t.buf0 + t.bufcap ≤ 0x40000 → t.buf1 + t.bufcap ≤ 0x40000 → db.addr.toNat % 4096 = 0 → n * capB ≤ t.bufcap →
      segsOf c t s rows = .ok segs → (k.bank ab.toNat).refuses (isIntRun da db false) = none → (k.bank ab.toNat).tight = false →
      (k.bank ab.toNat).fixed = true ∨ isIntRun da db false = true ∨ s.msegBound c m a = .ok pb →
        (segs = [] → ∃ u : State, exec (.mseg c ab ta tb gs n1) s = .next u ∧ (u.core c).stage = some .instr ∧ (u.core c).mseg = none
            ∧ ((u.core c).bank ab.toNat).cells = (k.bank ab.toNat).cells ∧ ((u.core c).bank ab.toNat).kcnt = (k.bank ab.toNat).kcnt
            ∧ ((u.core c).bank ab.toNat).run = (k.bank ab.toNat).run
            ∧ (u.core c).pends = k.pends ++ [⟨false, a, n * capA, .stage⟩] ∧ (u.core c).store = k.store
            ∧ (∀ d, d ≠ c → u.core d = s.core d) ∧ { u with cores := s.cores } = s)
        ∧ ∀ x xs, segs = x :: xs → k.abuf0 = none → k.abuf1 = none → free t.buf0 → free t.buf1 →
            overlap64 a (n * capA) t.buf0 (n * capB) = false →
            ∃ u : State, exec (.mseg c ab ta tb gs n1) s = .next u ∧ (u.core c).stage = some .instr
              ∧ (u.core c).abuf0 = some ⟨x.variant, t.part, db.addr, n, x.version, false⟩ ∧ (u.core c).mseg = some m
              ∧ (⟨true, t.buf0, n * capB, .abuf 0⟩ : Pend) ∈ (u.core c).pends ∧ (u.core c).store = k.store
              ∧ (∀ q ∈ s.adapterReqs c m x,
                  { s.reqPacket (BitVec.ofNat 16 c) .mrd k.msgid q.1 q.2.1 with off := BitVec.ofNat 32 q.2.2 } ∈ u.net)
              ∧ (∀ d, d ≠ c → u.core d = s.core d) ∧ { u with cores := s.cores, net := s.net } = s))
  ∧ ∀ (s : State) (c : CoreId) (buf : Nat) (m : MsegRun) (tag : AdapterTag) (g : Seg) (tiles : List (List Byte × List Byte)),
      let k := s.core c
      let data := ((k.fetchOf (.adapter buf)).map (·.data)).getD []
      k.mseg = some m → k.abuf buf = some tag → tag.loaded = false → m.segs.find? (fun g => tagFits m g tag) = some g →
      segsGo c ((ownOff c m.ta.addr.toNat).getD 0) (m.segs.length + 1) s = s →
      (k.fetching (.adapter buf) = true → exec (.adapterLoadDone c buf) s = .next s)
      ∧ (k.fetching (.adapter buf) = false → k.triHeld (m.buf buf) m.span = false → adapterTiles c s m g data m.n = .ok tiles →
          ∃ u : State, exec (.adapterLoadDone c buf) s = .next u
            ∧ ∀ i cart payload, tiles[i]? = some (cart, payload) → cart.length = 64 →
                (u.core c).loadBytes (m.buf buf + i * (capacity m.tb).getD 0) (64 + payload.length) = cart ++ payload)

/-- R199 to R202: mdefer queues its entry with the descriptors copied and both operand ranges pending-read, adds nothing yet,
and stalls at 64 entries; the free operand stage takes the oldest forced entry, else the oldest one unless a matrix instruction
waits; a running entry that is not forced yields to a waiting matrix instruction with its progress kept, or completes; the
operand stage frees with its ranges.
R203 to R205: a qualified thief takes the victim's oldest entry that may be stolen, with its own banks untouched, and the
entry stays in flight on the victim; the merge frees it. The bank after a merge is the bank the victim would hold had it run
the entry itself: cells, KCNT, PEMAX, check cells and OPEN. -/
def Obligations.DeferredAndStolenWork : Prop :=
  ((∀ (s : State) (c : CoreId) (ab ta tb : Reg) (lp nosteal : Bool) (wp : W16) (n1 : BitVec 4) (a b : Nat),
    s.canIssue c [] = true → ab.toNat < 4 → ta.toNat < 16 → tb.toNat < 16 →
    let k := s.core c
    let da := k.desc ta
    let db := k.desc tb
    let n := n1.toNat + 1
    let an := n * (capacity da).getD 0
    let bn := n * (capacity db).getD 0
    let x := k.bank ab.toNat
    (64 ≤ k.entries.length + k.lent.length →
      exec (.mdefer c ab ta tb lp nosteal wp n1) s = .next (s.updCore c fun j => { j with stall := some 8 }))
    ∧ (k.entries.length + k.lent.length < 64 → macOperands c da db n false = .ok (a, b) → k.operandBar a an b bn = none →
        x.fixed = true → x.tight = false → x.run = none ∨ x.run = some (isIntRun da db lp) →
        ∃ u : State, exec (.mdefer c ab ta tb lp nosteal wp n1) s = .next u
          ∧ (u.core c).defq = k.defq ++ [{ id := k.uid, bank := ab.toNat, ta := da, tb := db, n := n, lp := lp, nosteal := nosteal
                                           wp := wp, ftz := k.ftz, started := false, progress := 0, pc := k.pc, seq := k.seq }]
          ∧ (u.core c).pends = k.pends ++ [⟨false, a, an, .defer k.uid⟩, ⟨false, b, bn, .defer k.uid⟩]
          ∧ (∀ m, ((u.core c).bank m).cells = (k.bank m).cells ∧ ((u.core c).bank m).kcnt = (k.bank m).kcnt)
          ∧ (u.core c).stage = k.stage ∧ (u.core c).store = k.store ∧ { u with cores := s.cores } = s))
  ∧ ∀ (s : State) (c : CoreId),
    let k := s.core c
    (∀ e, k.stage = none → k.mseg = none → k.repeatLeft = 0 →
        k.defq.find? (·.forced) = some e
          ∨ k.defq.find? (·.forced) = none ∧ k.matrixWaits = false ∧ k.defq.head? = some e →
        e.started = true ∨ (k.bank e.bank).refuses (isIntRun e.ta e.tb e.lp) = none →
        ∃ u : State, exec (.deferEntryStart c) s = .next u ∧ (u.core c).stage = some (.deferred { e with started := true })
          ∧ (u.core c).defq = k.defq.filter (·.id != e.id) ∧ (∀ m, ((u.core c).bank m).cells = (k.bank m).cells))
    ∧ (k.defq.find? (·.forced) = none → k.matrixWaits = true → exec (.deferEntryStart c) s = .next s)
    ∧ (∀ e cycles, k.stage = some (.deferred e) → cycles % 16 ≠ 0 ∨ e.forced = true ∨ k.matrixWaits = false →
        exec (.deferYield c cycles) s = .next s)
    ∧ (∀ e cycles u, k.stage = some (.deferred e) → cycles % 16 = 0 → e.forced = false → k.matrixWaits = true →
        let hi := e.after ((k.bank e.bank).cover == some true) cycles
        runPairs (e.runIn c) (e.pairs c e.progress hi) s = .ok u →
        ∃ v : State, exec (.deferYield c cycles) s = .next v ∧ (v.core c).stage = none
          ∧ (∀ m, (v.core c).bank m = (u.core c).bank m)
          ∧ (hi < e.total → (v.core c).defq = { e with progress := hi } :: (u.core c).defq)
          ∧ (hi = e.total → (v.core c).defq = (u.core c).defq.filter (·.id != e.id)
              ∧ (v.core c).pends = (u.core c).pends.filter (·.owner != .defer e.id)))
    ∧ (k.stage = some .instr → k.mseg = none →
        exec (.operandStageFrees c) s = .next (s.updCore c fun j => { j with stage := none, pends := j.pends.filter (·.owner != .stage) }))
    ∧ ∀ e u, k.stage = some (.deferred e) → e.started = true → runPairs (e.runIn c) (e.pairs c e.progress e.total) s = .ok u →
        exec (.operandStageFrees c) s = .next (u.updCore c fun j => j.dropEntry e.id))
  ∧ (∀ (s u : State) (thief victim : CoreId) (p : Nat) (e : Defer),
    let t := s.core thief
    let v := s.core victim
    let b := v.bank e.bank
    let ps := e.pairs victim 0 e.total
    s.partOf thief = some p → s.partOf victim = some p → thief ≠ victim → (s.part p).steal = true → s.feature featSteal = true →
    t.run = .running → t.triHold = false → t.repeatLeft = 0 → t.defq = [] → t.stage = none → t.mseg = none → t.stolen = none → 2 ≤ v.entries.length →
    v.defq.find? v.stealable = some e → s.svr.closed.contains (.core victim) = false →
    b.refuses (isIntRun e.ta e.tb e.lp) = none →
    runPairs { owner := victim, dst := thief, bank := 4, ta := e.ta, tb := e.tb, ftz := e.ftz, eater := some victim } ps
      (s.updCore thief fun k => k.setBank 4
        ({ b.forSteal with run := some (isIntRun e.ta e.tb e.lp) }.log (v.logEnt e.ta e.tb e.lp e.ftz ps))) = .ok u →
      ∃ x : State, exec (.steal thief victim) s = .next x ∧ (x.core thief).stolen = some ⟨victim, e⟩
        ∧ (x.core thief).bank 4 = (u.core thief).bank 4 ∧ (∀ n < 4, (x.core thief).bank n = t.bank n)
        ∧ (x.core victim).defq = v.defq.filter (·.id != e.id) ∧ (x.core victim).lent = v.lent ++ [e]
        ∧ (x.core victim).pends = v.pends ∧ ∀ n, (x.core victim).bank n = v.bank n)
  ∧ (∀ (s : State) (thief : CoreId) (y : Stolen), (s.core thief).stolen = some y → y.victim ≠ thief →
      (s.core y.victim).lent.any (·.id == y.entry.id) = true →
      let b := (s.core y.victim).bank y.entry.bank
      ∃ x : State, exec (.stealMerge thief) s = .next x ∧ (x.core thief).stolen = none ∧ (x.core thief).bank 4 = {}
        ∧ (x.core y.victim).bank y.entry.bank = b.merge ((s.core thief).bank 4)
        ∧ (x.core y.victim).lent = (s.core y.victim).lent.filter (·.id != y.entry.id)
        ∧ (x.core y.victim).pends = (s.core y.victim).pends.filter (·.owner != .defer y.entry.id))
  ∧ ∀ (b : Bank) (k : Nat) (ma mb : List (List Machine.Num)), b.intmode = false → b.fixed = true →
      let own := b.addPair k ma mb
      let merged := b.merge (b.forSteal.addPair k ma mb)
      merged.cells = own.cells ∧ merged.kcnt = own.kcnt ∧ merged.pemax = own.pemax ∧ merged.opn = own.opn
      ∧ merged.datum = own.datum ∧ ∀ n < 25, merged.chkReg n = own.chkReg n

/-! ### Vector instructions (spec/05) -/

/-- Table 5-10, integer lanes, in numbers modulo 2^32, with no flag; vbc copies g[ra][31:0] to every lane; vext takes lane
imm[4:0], zero-extended; vld and vst move the 128 bytes at ra + imm × 128, lane l in bytes 4l to 4l + 3, and raise ACCESS and
do nothing else for an offset that is not a multiple of 128 or lies at or above 0x4_0000. -/
def Obligations.IntegerLanesAndMoves : Prop :=
  ∀ (s : State) (c : CoreId) (vd va vb : Reg), s.canIssue c [] = true →
    let k := s.core c
    let out (f : W32 → W32 → W32) : Host.Outcome State Fault Refusal := .next (s.passing c 4 fun j =>
      j.setLanes vd.toNat ((List.range 32).map fun l => f (k.lane va.toNat l) (k.lane vb.toNat l)))
    exec (.iadd c vd va vb) s = out (fun a b => BitVec.ofNat 32 (a.toNat + b.toNat))
    ∧ exec (.isub c vd va vb) s = out (fun a b => BitVec.ofInt 32 (a.toInt - b.toInt))
    ∧ exec (.imul c vd va vb) s = out (fun a b => BitVec.ofNat 32 (a.toNat * b.toNat))
    ∧ exec (.iand c vd va vb) s = out (fun a b => a &&& b)
    ∧ exec (.ior c vd va vb) s = out (fun a b => a ||| b)
    ∧ exec (.ixor c vd va vb) s = out (fun a b => a ^^^ b)
    ∧ exec (.isll c vd va vb) s = out (fun a b => BitVec.ofNat 32 (a.toNat * 2 ^ (b.toNat % 32)))
    ∧ exec (.isra c vd va vb) s = out (fun a b => BitVec.ofInt 32 (a.toInt / 2 ^ (b.toNat % 32)))
    ∧ ∀ (rd ra : Reg) (imm : BitVec 11), s.canIssue c [rd, ra] = true → s.canIssue c [ra] = true → s.canIssue c [rd] = true →
      let a := (k.gr ra + imm.signExtend 64 * 128).toNat
      let refused : Host.Outcome State Fault Refusal := .next (s.raise c k.pc k.seq 0xFF .access .job)
      exec (.vbc c vd ra) s = .next (s.passing c 4 fun j =>
        j.setLanes vd.toNat (List.replicate 32 (BitVec.ofNat 32 ((k.gr ra).toNat % 2 ^ 32))))
      ∧ exec (.vext c rd va imm) s = .next (s.passing c 4 fun j =>
          j.setG rd (BitVec.ofNat 64 (k.lane va.toNat (imm.toNat % 32)).toNat))
      ∧ (a % 128 ≠ 0 ∨ 0x40000 ≤ a → exec (.vld c vd ra imm) s = refused ∧ exec (.vst c vd ra imm) s = refused)
      ∧ (a % 128 = 0 → a < 0x40000 →
          (k.readBar a 128 = none → k.clean a 128 = true →
            ∃ t : State, exec (.vld c vd ra imm) s = .next t
              ∧ (∀ l, l < 32 → (t.core c).lane vd.toNat l = BitVec.ofNat 32 (k.store.readLE (a + 4 * l) 4))
              ∧ (∀ r l, r ≠ vd.toNat → l < 32 → (t.core c).lane r l = k.lane r l)
              ∧ { t.core c with v := k.v } = k.retire (k.pc.toNat + 4)
              ∧ (∀ d, d ≠ c → t.core d = s.core d) ∧ { t with cores := s.cores } = s)
          ∧ (k.blocksWrite a 128 = none → k.triHeld a 128 = false →
            ∃ t : State, exec (.vst c vd ra imm) s = .next t
              ∧ (∀ l, l < 32 → (t.core c).store.readLE (a + 4 * l) 4 = (k.lane vd.toNat l).toNat)
              ∧ (∀ x, x < a ∨ a + 128 ≤ x → (t.core c).store.read x = k.store.read x)
              ∧ (t.core c).v = k.v ∧ (t.core c).g = k.g ∧ (t.core c).t = k.t ∧ (t.core c).banks = k.banks
              ∧ (∀ d, d ≠ c → t.core d = s.core d) ∧ { t with cores := s.cores } = s))

/-- Table 5-10, R206: the arithmetic FP32 lanes round the exact result to nearest even whatever FMODE.RM is, set FLUSHED when
FTZ flushed an input or a result and no other flag, and change nothing else; cvtfi in numbers; Table 5-12 for the special
inputs of vsf and the free choice of R208 for all others. -/
def Obligations.FloatingLanes : Prop :=
  ∀ (s : State) (c : CoreId) (vd va vb : Reg), s.canIssue c [] = true →
    let k := s.core c
    let x (r : Reg) (l : Nat) : Machine.Num := fpFp32.decode k.ftz (k.lane r.toNat l).toNat
    let sub (r : Reg) (l : Nat) : Bool := k.ftz && fpFp32.isSub (k.lane r.toNat l).toNat
    let rn (v : Machine.Num) : Elem := fpFp32.round .rne 0 k.ftz k.znorm v
    let out (v : Nat → W32) (fl : Nat → Bool) : Host.Outcome State Fault Refusal := .next (s.passing c 4 fun j =>
      (j.setLanes vd.toNat ((List.range 32).map v)).flag (if (List.range 32).any fl then 1 else 0))
    let fp (f : Nat → Machine.Num) (ins : Nat → Bool) : Host.Outcome State Fault Refusal :=
      out (fun l => BitVec.ofNat 32 (rn (f l)).code) (fun l => ins l || (rn (f l)).flags.getLsbD 0)
    exec (.fadd c vd va vb) s = fp (fun l => Machine.Num.add (x va l) (x vb l)) (fun l => sub va l || sub vb l)
    ∧ exec (.fsub c vd va vb) s = fp (fun l => Machine.Num.add (x va l) (x vb l).negate) (fun l => sub va l || sub vb l)
    ∧ exec (.fmul c vd va vb) s = fp (fun l => Machine.Num.mul (x va l) (x vb l)) (fun l => sub va l || sub vb l)
    ∧ exec (.ffma c vd va vb) s =
        fp (fun l => Machine.Num.add (x vd l) (Machine.Num.mul (x va l) (x vb l))) (fun l => sub vd l || sub va l || sub vb l)
    ∧ exec (.cvtif c vd va vb) s = fp (fun l => .ofInt (k.lane va.toNat l).toInt 0) (fun _ => false)
    ∧ (∃ f : Nat → Int, exec (.cvtfi c vd va vb) s = out (fun l => BitVec.ofInt 32 (f l)) (sub va)
        ∧ ∀ l, l < 32 → match x va l with
          | .nan => f l = 0
          | .inf neg => f l = if neg then -2 ^ 31 else 2 ^ 31 - 1
          | .fin neg m e =>
            ∃ n : Nat, (2 * n * pow2 (-e) ≤ 2 * m * pow2 e + pow2 (-e) ∧ 2 * m * pow2 e ≤ 2 * n * pow2 (-e) + pow2 (-e)
                ∧ (2 * n * pow2 (-e) = 2 * m * pow2 e + pow2 (-e) ∨ 2 * m * pow2 e = 2 * n * pow2 (-e) + pow2 (-e) → n % 2 = 0))
              ∧ f l = if neg then (if 2 ^ 31 < n then -2 ^ 31 else -(n : Int)) else (if 2 ^ 31 ≤ n then 2 ^ 31 - 1 else (n : Int)))
    ∧ ∀ (i : Instr) (fn : Nat) (special : Machine.Num → Option W32) (g : Bool → Machine.Num → LaneOut),
        (i = .exp c vd va ∧ fn = 0 ∧ g = expLane k.ftz k.znorm ∧ special = fun
            | .nan => some 0x7FC00000 | .inf neg => some (if neg then 0 else 0x7F800000)
            | .fin _ m _ => if m = 0 then some 0x3F800000 else none)
        ∨ (i = .log c vd va ∧ fn = 1 ∧ g = logLane k.ftz k.znorm ∧ special = fun
            | .nan => some 0x7FC00000 | .inf neg => some (if neg then 0x7FC00000 else 0x7F800000)
            | .fin neg m _ => if m = 0 then some 0xFF800000 else if neg then some 0x7FC00000 else none)
        ∨ (i = .rsqrt c vd va ∧ fn = 2 ∧ g = rsqrtLane k.ftz k.znorm ∧ special = fun
            | .nan => some 0x7FC00000 | .inf neg => some (if neg then 0x7FC00000 else 0)
            | .fin neg m _ => if m = 0 then some (if neg then 0xFF800000 else 0x7F800000) else if neg then some 0x7FC00000 else none)
        ∨ (i = .rcp c vd va ∧ fn = 3 ∧ g = rcpLane k.ftz k.znorm ∧ special = fun
            | .nan => some 0x7FC00000 | .inf neg => some (if neg && !k.znorm then 0x80000000 else 0)
            | .fin neg m _ => if m = 0 then some (if neg then 0xFF800000 else 0x7F800000) else none) →
        exec i s = (let r (l : Nat) : LaneOut := match special (x va l) with
              | some w => (w, 0)
              | none => g (Config.vsfUp fn (k.lane va.toNat l) k.ctl.fmode) (x va l)
            out (fun l => (r l).1) (fun l => sub va l || (r l).2.getLsbD 0))

/-- R62, R64 to R66: the three roundings to a grid, in numbers (|v| is num / den grid units), the grid and the value of a
floating-point element at or below its format's largest magnitude, which reads back as that value, and Table 2-6 above it.
R208: for a normal FP32 input and no FTZ, rcp and, for a positive input, rsqrt lie within one unit in the last place of the
exact result, whichever adjacent value is taken; an exact result is given exactly. -/
def Obligations.RoundingAndReciprocals : Prop :=
  ((∀ (m : Nat) (e q : Int) (r : W32),
    let num := m * pow2 (e - q)
    let den := pow2 (q - e)
    let n (mode : RMode) : Nat := gridRound mode r m e q
    (n .rtz * den ≤ num ∧ num < (n .rtz + 1) * den)
    ∧ (2 * n .rne * den ≤ 2 * num + den ∧ 2 * num ≤ 2 * n .rne * den + den
        ∧ (2 * n .rne * den = 2 * num + den ∨ 2 * num = 2 * n .rne * den + den → n .rne % 2 = 0))
    ∧ n .sr = n .rtz + (if 2 ^ 32 ≤ num % den * 2 ^ 32 / den + r.toNat then 1 else 0))
  ∧ ∀ f ∈ [fpFp32, fpBf16, fpFp16, fpE4m3, fpE5m2], ∀ (mode : RMode) (r : W32) (neg : Bool) (m : Nat) (e : Int), 0 < m →
    let y := f.round mode r false false (.fin neg m e)
    let q := max (flog2 m e - f.mbits) f.minLsb
    let sign := if neg then 2 ^ (f.ebits + f.mbits) else 0
    (magLt f.maxM f.maxE m e = false → y.flags.getLsbD 1 = false
      ∧ ∃ n p, f.decode false y.code = .fin neg n p ∧ n * pow2 (p - q) = gridRound mode r m e q * pow2 (q - p))
    ∧ (magLt f.maxM f.maxE m e = true →
        (f.hasInf = false → y.code = sign + f.maxCode ∧ y.flags = fOvf)
        ∧ (f.hasInf = true →
            (mode = .rtz → y.code = sign + f.maxCode)
            ∧ (mode = .rne → if magLt m e (2 * f.maxM + 1) (f.maxE - 1) then y.code = sign + f.maxCode ∧ y.flags = 0
                else y.code = sign + f.infCode ∧ y.flags = fOvf)
            ∧ (mode = .sr → magLt m e (f.maxM + 1) f.maxE = false → y.code = sign + f.infCode ∧ y.flags = fOvf))))
  ∧ ∀ (x : W32) (up zn : Bool), 2 ^ 23 ≤ x.toNat % 2 ^ 31 → x.toNat % 2 ^ 31 < 0x7F800000 →
    ∀ neg m e, fp32In false x = .fin neg m e →
      (∃ n q, fp32In false (rcpLane false zn up (.fin neg m e)).1 = .fin neg n q ∧ e + q ≤ 0
        ∧ (((m * n : Nat) : Int) - pow2 (-(e + q))).natAbs < m
        ∧ (m = 2 ^ 23 → m * n = pow2 (-(e + q))))
      ∧ (neg = false → ∃ n q, fp32In false (rsqrtLane false zn up (.fin neg m e)).1 = .fin false n q
        ∧ 0 < n ∧ e + 2 * q ≤ 0 ∧ (n - 1) * (n - 1) * m < pow2 (-(e + 2 * q)) ∧ pow2 (-(e + 2 * q)) < (n + 1) * (n + 1) * m)

/-- R207: fmax, fmin and fhmax by the codes of their lanes: NaN wins, −0 lies below +0, a subnormal counts as the zero of its
sign under FTZ, and a −0 result is +0 under ZNORM; maxima and minima formed in any order are the same bits. fabs and fneg
change the sign bit only, but for ZNORM, fsel copies a lane, fcmplt compares values, NaN never below. -/
def Obligations.ComparisonAndSignLanes : Prop :=
  ∀ (s : State) (c : CoreId) (vd va vb : Reg), s.canIssue c [] = true →
    let k := s.core c
    let isNan (x : W32) : Bool := decide (0x7F800000 < x.toNat % 2 ^ 31)
    let sub (r : Reg) (l : Nat) : Bool := k.ftz && fpFp32.isSub (k.lane r.toNat l).toNat
    let fl (x : W32) : W32 := if k.ftz ∧ x.toNat % 2 ^ 31 < 2 ^ 23 then x &&& 0x80000000 else x
    let zn (x : W32) : W32 := if k.znorm ∧ x = 0x80000000 then 0 else x
    let key (x : W32) : Nat := if x.toNat < 2 ^ 31 then 2 ^ 31 + x.toNat else 2 ^ 32 - 1 - x.toNat
    let pz (x : W32) : W32 := if fl x = 0x80000000 then 0 else fl x
    let mx (a b : W32) : W32 := if isNan a || isNan b then 0x7FC00000 else zn (if key (fl a) < key (fl b) then fl b else fl a)
    let mn (a b : W32) : W32 := if isNan a || isNan b then 0x7FC00000 else zn (if key (fl b) < key (fl a) then fl b else fl a)
    let a := k.lane va.toNat
    let b := k.lane vb.toNat
    let d := k.lane vd.toNat
    let out (v : Nat → W32) (f : Nat → Bool) : Host.Outcome State Fault Refusal := .next (s.passing c 4 fun j =>
      (j.setLanes vd.toNat ((List.range 32).map v)).flag (if (List.range 32).any f then 1 else 0))
    exec (.fmax c vd va vb) s = out (fun l => mx (a l) (b l)) (fun l => sub va l || sub vb l)
    ∧ exec (.fmin c vd va vb) s = out (fun l => mn (a l) (b l)) (fun l => sub va l || sub vb l)
    ∧ exec (.fhmax c vd va vb) s = out (fun _ => (List.range 32).foldl (fun x l => mx x (a l)) (mx (a 0) (a 0))) (sub va)
    ∧ exec (.fcmplt c vd va vb) s = out (fun l =>
        if isNan (a l) = false ∧ isNan (b l) = false ∧ key (pz (a l)) < key (pz (b l)) then 0xFFFFFFFF else 0)
        (fun l => sub va l || sub vb l)
    ∧ exec (.fabs c vd va vb) s = out (fun l => BitVec.ofNat 32 ((a l).toNat % 2 ^ 31)) (fun _ => false)
    ∧ exec (.fneg c vd va vb) s = out (fun l => zn (a l ^^^ 0x80000000)) (fun _ => false)
    ∧ exec (.fsel c vd va vb) s = out (fun l => if b l = 0 then d l else a l) (fun _ => false)
    ∧ ∀ x y z, mx x y = mx y x ∧ mx x (mx y z) = mx (mx x y) z ∧ mn x y = mn y x ∧ mn x (mn y z) = mn (mn x y) z

/-- R212: a vlsum into a bank of fixed datum in the long path. The named cell receives the 32 lanes as terms of any order,
every other cell 32 exact +0 terms, KCNT grows by 32, and nothing but this bank and FSTAT.FLUSHED changes; DESC_FORMAT and
FORMAT_MISMATCH where the rule says so, with nothing else done.
R213, R214: vupd in numbers of FP32: lanes below tw.COLS take the updated weight, rounded stochastically into tw's format by
the random word of its index, and the two moments; other lanes and v(d + 3) stay. -/
def Obligations.LongSumAndFusedUpdate : Prop :=
  (∀ (s : State) (c : CoreId) (ab va : Reg) (cell : BitVec 7), s.canIssue c [] = true → ab.toNat < 4 →
    let k := s.core c
    let b := k.bank ab.toNat
    let refused (code : FCode) : Host.Outcome State Fault Refusal := .next (s.raise c k.pc k.seq (dBank ab.toNat) code .job)
    (b.run = some true → exec (.vlsum c ab va cell) s = refused .formatMismatch)
    ∧ (b.intmode = false → b.fixed = false ∨ b.tight = true → exec (.vlsum c ab va cell) s = refused .descFormat)
    ∧ (b.intmode = false → b.fixed = true → b.tight = false →
        ∀ xs : List Machine.Num, xs.Perm ((k.vr va.toNat).map (fp32In k.ftz)) →
          ∃ (x : Bank) (f : W32), exec (.vlsum c ab va cell) s = .next (s.passing c 8 fun j => (j.setBank ab.toNat x).flag f)
            ∧ x.cell cell.toNat = xs.foldl (Cell.term (some (sInt b.datum))) (b.cell cell.toNat)
            ∧ (∀ n, n < 128 → n ≠ cell.toNat →
                x.cell n = (List.replicate 32 (.fin false 0 0)).foldl (Cell.term (some (sInt b.datum))) (b.cell n))
            ∧ x.kcnt.toNat = min (b.kcnt.toNat + 32) 0xFFFFFFFF ∧ x.pemax = xs.foldl pemaxOf b.pemax ∧ x.opn = true
            ∧ x.datum = b.datum ∧ x.fixed = b.fixed ∧ x.written = b.written ∧ x.force = b.force ∧ x.intmode = b.intmode
            ∧ f = (if k.ftz && (k.vr va.toNat).any fun w => fpFp32.isSub w.toNat then 1 else 0)))
  ∧ ∀ (s : State) (c : CoreId) (vd va tw : Reg) (momentum : Bool) (col row : W16), s.canIssue c [] = true →
    tw.toNat < 16 →
    let k := s.core c
    let d := k.desc tw
    (vd.toNat % 4 ≠ 0 → exec (.vupd c vd va tw momentum col row) s = .next (s.raise c k.pc k.seq 0xFF .featureUnsupported .job))
    ∧ (vd.toNat % 4 = 0 → 3 ≤ d.fmt.toNat →
        exec (.vupd c vd va tw momentum col row) s = .next (s.raise c k.pc k.seq (dDesc tw) .formatMismatch .job))
    ∧ (vd.toNat % 4 = 0 → ∀ f, d.fmt.toNat < 3 → floatFmt d.fmt = some f →
        let rd (x : W32) : Machine.Num := fp32In k.ftz x
        let rn (x : Machine.Num) : Machine.Num := fp32In false (fp32Out k.ftz k.znorm x).1
        let p (i : Nat) : Machine.Num := rd (k.lane va.toNat i)
        ∃ t : State, exec (.vupd c vd va tw momentum col row) s = .next t
          ∧ (∀ l, l < 32 →
              let w := rd (k.lane vd.toNat l)
              let m := rd (k.lane (vd.toNat + 1) l)
              let v := rd (k.lane (vd.toNat + 2) l)
              let g := rd (k.lane (vd.toNat + 3) l)
              let one : Machine.Num := .fin false 1 0
              let m2 := if momentum then rn (Machine.Num.add (Machine.Num.mul (p 0) m) g)
                else rn (Machine.Num.add (Machine.Num.mul (p 0) m) (rn (Machine.Num.mul (rn (Machine.Num.add one (p 0).negate)) g)))
              let v2 := rn (Machine.Num.add (Machine.Num.mul (p 1) v) (rn (Machine.Num.mul (rn (Machine.Num.add one (p 1).negate)) (rn (Machine.Num.mul g g)))))
              let root := fp32In false (sqrtLane k.ftz k.znorm (rn (Machine.Num.mul v2 (p 6)))).1
              let quot := fp32In false (divLane k.ftz k.znorm (rn (Machine.Num.mul m2 (p 5))) (rn (Machine.Num.add root (p 3)))).1
              let st := if momentum then rn (Machine.Num.add (Machine.Num.mul (p 4) w) m2) else rn (Machine.Num.add (Machine.Num.mul (p 4) w) quot)
              let ix : W64 := BitVec.ofNat 64 (d.ebase.toNat + row.toNat * d.rstride.toNat + col.toNat + l)
              let e := f.round .sr (srBits k.srkey d.tensor d.step ix) k.ftz k.znorm (Machine.Num.add w (Machine.Num.mul (p 2) st).negate)
              if col.toNat + l < d.cols.toNat then
                (t.core c).lane vd.toNat l = codeOf e.val ∧ (t.core c).lane (vd.toNat + 1) l = codeOf m2
                ∧ (t.core c).lane (vd.toNat + 2) l = (if momentum then k.lane (vd.toNat + 2) l else codeOf v2)
              else ∀ i, i < 3 → (t.core c).lane (vd.toNat + i) l = k.lane (vd.toNat + i) l)
          ∧ (∀ r l, r < vd.toNat ∨ vd.toNat + 3 ≤ r → l < 32 → (t.core c).lane r l = k.lane r l)
          ∧ (t.core c).g = k.g ∧ (t.core c).t = k.t ∧ (t.core c).store = k.store ∧ (t.core c).banks = k.banks
          ∧ (t.core c).epoch = k.epoch ∧ (t.core c).hist = k.hist ∧ (∀ x, x ≠ c → t.core x = s.core x)
          ∧ { t with cores := s.cores } = s)

/-- R210, R211: vunpk leaves the elements of its tile as FP32 lanes from v(d), +0 past the last in its register, and changes no
other lane; a cartouche of another shape raises FORMAT_MISMATCH. vcvt advances the epoch and stands a tile of its lanes at
td.ADDR, by the rules of an mcvt, with the datum EXT[15:0] for a long partial. -/
def Obligations.VectorConversions : Prop :=
  (∀ (s : State) (c : CoreId) (vd ts : Reg) (a : Nat) (u : Tile), s.canIssue c [] = true → ts.toNat < 16 →
    let k := s.core c
    let d := k.desc ts
    let n := d.rows.toNat * d.cols.toNat
    elemBits d.fmt ≠ none → n ≤ 32 * (32 - vd.toNat) → ownTile c d.addr 64 = some a →
    k.readBar a (64 + up64 (Cart.parse (k.loadBytes a 64)).plen.toNat) = none → k.useTile a (some d.fmt) = .ok u →
      (u.cart.rows ≠ d.rows ∨ u.cart.cols ≠ d.cols →
        exec (.vunpk c vd ts) s = .next (s.raise c k.pc k.seq (dDesc ts) .formatMismatch .job))
      ∧ (u.cart.rows = d.rows → u.cart.cols = d.cols → s.freeToUse c u.cart →
        ∃ t : State, exec (.vunpk c vd ts) s = .next t
          ∧ (∀ i l, 32 * i + l < n → l < 32 → (t.core c).lane (vd.toNat + i) l =
              BitVec.ofNat 32 (fpFp32.round .rne 0 k.ftz k.znorm ((decodeTile k.ftz u.cart u.payload).1.getD (32 * i + l) .nan)).code)
          ∧ (∀ i l, n ≤ 32 * i + l → 32 * i < n → l < 32 → (t.core c).lane (vd.toNat + i) l = 0)
          ∧ (∀ r l, r < vd.toNat ∨ vd.toNat + (n + 31) / 32 ≤ r → l < 32 → (t.core c).lane r l = k.lane r l)
          ∧ (t.core c).store = k.store ∧ (t.core c).g = k.g ∧ (t.core c).t = k.t ∧ (t.core c).banks = k.banks
          ∧ (∀ x, x ≠ c → t.core x = s.core x) ∧ { t with cores := s.cores } = s))
  ∧ ∀ (s : State) (c : CoreId) (td va : Reg) (rm : BitVec 2) (hslot rstep : Bool) (bound : W16) (cap a : Nat),
    s.canIssue c [] = true → td.toNat < 16 →
    let k := s.core c
    let d := k.desc td
    let n := d.rows.toNat * d.cols.toNat
    let o : Rounding := { mode := k.rmode rm, ftz := k.ftz, znorm := k.znorm, datum := sInt bound }
    let src := ((List.range n).map fun i => k.lane (va.toNat + i / 32) (i % 32)).map (fp32In k.ftz)
    let w := writeElems d.fmt d.bsize o (k.withRandom o.mode d src)
    capacity d = some cap →
      (n % 32 ≠ 0 ∨ 32 * (32 - va.toNat) < n ∨ badOutput d = true →
        exec (.vcvt c td va rm hslot bound rstep) s = .next (s.raise c k.pc k.seq (dDesc td) .descFormat .job))
      ∧ (n % 32 = 0 → n ≤ 32 * (32 - va.toNat) → badOutput d = false → d.survey = false → ownTile c d.addr cap = some a →
          k.blocksWrite a cap = none → k.triHeld a cap = false → s.convBar c [] = false →
          isLong d.fmt = true ∨ rangeFails d.fmt bound (expBound (fun x y => if x < y then y else x) w.2) src w.2 = false →
          ∃ t : State, exec (.vcvt c td va rm hslot bound rstep) s = .next t
            ∧ (t.core c).epoch = k.epoch + 1 ∧ (t.core c).loadBytes (a + 64) w.1.length = w.1
            ∧ (let u := Cart.parse ((t.core c).loadBytes a 64)
               u.ver = 1 ∧ u.fmt = d.fmt ∧ u.rows = d.rows ∧ u.cols = d.cols ∧ u.plen.toNat = w.1.length ∧ u.pcrc = crc32c w.1
               ∧ u.version = d.version ∧ u.tensor = d.tensor ∧ u.step = d.step ∧ u.core = BitVec.ofNat 16 c
               ∧ u.module = s.modId ∧ u.epoch = k.epoch + 1 ∧ (isLong d.fmt = true → u.datum = bound))
            ∧ hcrcOk ((t.core c).loadBytes a 64) = true
            ∧ (∀ x, x < a ∨ a + cap ≤ x → (t.core c).store.read x &&& 0x7F = k.store.read x &&& 0x7F)
            ∧ (t.core c).g = k.g ∧ (t.core c).v = k.v ∧ (t.core c).t = k.t ∧ (t.core c).banks = k.banks)

/-! ### Memory, links and transfers (spec/06, spec/07) -/

/-- R255, R258, R259: a request for a local address goes to the endpoint of its stack on row 0 or 159, in column
40 × A[13:12] + 20 × A[15] + A[11:8]; for a core's store to that core; for another slot's window to its module, at the local
address. A range is cut at 256-byte boundaries into requests that cover it in order.
R259, R260, R268, R269, R273, R275, R277 at a controller (s' is the state with the request taken from the mesh). A request that
covers 1 to 256 bytes of one 256-byte block at its own endpoint and that the region table of the requester's partition lets
pass is served: a read answers the bytes, a write leaves them and no other byte changes, but on poisoned pages; any other one
is answered ACCESS, a closed controller or router ISOLATED, a poisoned page POISON; a page that is being copied waits; an
uncorrectable error poisons the page and resets the module.
R255, R259, R260, R543, R286 to R288: what the responses to a load, a tile load, a store and a prefetch do, an acknowledgement
of a transfer engine's write, and an access through a core-store window, which is held while its write meets a pending-read
granule. -/
def Obligations.RemoteMemory : Prop :=
  (∀ (s : State) (src : W16) (typ : PType) (tag : W32) (a n : Nat),
    let q := s.reqPacket src typ tag a n
    q.src = src ∧ q.smod = s.modId ∧ q.msgid = tag ∧ q.len = BitVec.ofNat 32 n
    ∧ (a < 0x8000000000 → q.dlocal = true ∧ memAddr q = a ∧ q.edge = (if a / 4096 % 8 < 4 then 1 else 2)
        ∧ coreY q.dst.toNat = (if a / 4096 % 8 < 4 then 0 else 159)
        ∧ coreX q.dst.toNat = 40 * (a / 2 ^ 12 % 4) + 20 * (a / 2 ^ 15 % 2) + a / 2 ^ 8 % 16)
    ∧ (∀ d off, d < 65536 → spaceOf a = .store d off → q.dlocal = true ∧ memAddr q = a ∧ q.edge = 0 ∧ q.dst.toNat = d)
    ∧ ∀ w, spaceOf a = .window w → q.dlocal = false ∧ q.dmod = s.boardPeer w ∧ memAddr q = a % 0x8000000000)
  ∧ (∀ (a : Nat) (bs : List Byte),
      ((cutBytes a bs).flatMap fun w => w.2) = bs
      ∧ (∀ w ∈ cutBytes a bs, a ≤ w.1 ∧ w.2 = (bs.drop (w.1 - a)).take w.2.length ∧ 0 < w.2.length ∧ w.1 % 256 + w.2.length ≤ 256)
      ∧ (cutBytes a bs).map (fun w => (w.1, w.2.length)) = pieces256 a bs.length)
  ∧ (∀ (s s' : State) (p : Packet), s.arrive p = some s' → memAddr p < 0x8000000000 →
    let a := memAddr p
    let ok (write : Bool) (n : Nat) : Prop :=
      ∃ q, s'.requester p = some q ∧ 0 < n ∧ a % 256 + n ≤ 256 ∧ p.edge = memEdge a ∧ p.dst.toNat = memHome a
        ∧ s'.permits q write a n = true ∧ (write = true → p.pencil = true → s'.inkRegion q a n = false)
    let shut (n : Nat) : Prop := s'.cutPacket p = true ∨ s'.memIsolated a n = true
    let r := s'.reply p .mrdr
    let w := s'.reply p .mwrr
    (p.typ = .mrd → ∀ err, let n := p.len.toNat
      (s.copying a n = true → exec (.mrdRequest p err) s = .next s)
      ∧ (s.copying a n = false → ¬ ok false n → exec (.mrdRequest p err) s = .next (s'.send (r 0x06)))
      ∧ (s.copying a n = false → ok false n → shut n → exec (.mrdRequest p err) s = .next (s'.send (r 0x04)))
      ∧ (s.copying a n = false → ok false n → ¬ shut n →
          (s'.mem.poisoned.contains (a / 4096) = true → exec (.mrdRequest p err) s = .next (s'.send (r 0x07)))
          ∧ (s'.mem.poisoned.contains (a / 4096) = false →
              let answer : Packet := { r 0 with len := p.len, off := p.off, payload := s'.mem.bytes.readBytes a n }
              (err = 0 → exec (.mrdRequest p err) s = .next (s'.send answer))
              ∧ (err = 1 → ∃ t : State, exec (.mrdRequest p err) s = .next t ∧ t.net = s'.net ++ [answer]
                  ∧ (t.stack (a / 4096 % 8)).cecnt.toNat = min ((s'.stack (a / 4096 % 8)).cecnt.toNat + 1) 0xFFFF
                  ∧ Sparse.get [] t.mem.corrections (a / 4096) =
                      (Sparse.get [] s'.mem.corrections (a / 4096)).filter (fun x => s'.now < x + 24 * 3600 * 10 ^ 9) ++ [s'.now]
                  ∧ t.mem.bytes = s'.mem.bytes ∧ t.cores = s'.cores)
              ∧ (2 ≤ err.toNat → s'.rst.powerOn = false → s'.rst.nvPulse = false →
                  ∃ t : State, exec (.mrdRequest p err) s = .next t ∧ t.rst.inReset = true ∧ t.rst.resetNDrive = true
                    ∧ (s'.bkp.crash.valid = false → t.bkp.crash.valid = true ∧ t.bkp.crash.code = FCode.memUncorrectable.byte
                        ∧ t.bkp.crash.detail = BitVec.ofNat 64 (a / 4096 * 4096))
                    ∧ (t.bkp.poison.contains (BitVec.ofNat 64 (a / 4096 * 4096)) = true ∨ t.bkp.poisonOvf = true)))))
    ∧ (p.typ = .mwr → let n := p.payload.length
      (s.copying a n = true → exec (.mwr p) s = .next s)
      ∧ (s.copying a n = false → ¬ ok true n → exec (.mwr p) s = .next (s'.send (w 0x06)))
      ∧ (s.copying a n = false → ok true n → shut n → exec (.mwr p) s = .next (s'.send (w 0x04)))
      ∧ (s.copying a n = false → ok true n → ¬ shut n →
          ∃ t : State, exec (.mwr p) s = .next t ∧ t.net = s'.net ++ [w 0]
            ∧ (s'.mem.poisoned.contains (a / 4096) = false →
                t.mem.bytes.readBytes a n = p.payload ∧ ∀ x, x < a ∨ a + n ≤ x → t.mem.bytes.read x = s'.mem.bytes.read x)
            ∧ (s'.mem.poisoned.contains (a / 4096) = true → ∀ x, t.mem.bytes.read x = s'.mem.bytes.read x)
            ∧ { t with net := s'.net, mem := { t.mem with bytes := s'.mem.bytes } } = s')))
  ∧ (∀ (s s' : State) (p : Packet) (r : Remote), s.arrive p = some s' → p.edge = 0 →
    let c := p.dst.toNat
    let k := s'.core c
    k.remotes = [r] → r.tag = p.msgid → 0 < r.left → s.landingHeld p = false →
    let got := Memory.writeBytes r.data p.off.toNat p.payload
    let code : FCode := if p.code = 0x04 then .isolated else if p.code = 0x07 then .linkLost else .access
    (p.code ≠ 0 → (p.code = 0x07 → r.far = true) → (∀ n, r.use ≠ .prefetch n ∧ r.use ≠ .adapter n) →
      ∀ i ∈ [Instr.mrdr p, .mwrr p], ∃ t : State, (t.core c).remotes = [] ∧ (t.core c).store = k.store ∧ t.net = s'.net ∧
        exec i s = .next (t.raise c r.pc r.seq (r.use.detail code) code code.cls))
    ∧ (∀ n, p.code ≠ 0 → (p.code = 0x07 → r.far = true) → r.use = .prefetch n →
        exec (.mrdr p) s = .next (s'.updCore c fun j => { j with remotes := [], slots := j.slots.filter (·.idx != n) }))
    ∧ (p.code = 0x07 → r.far = false → s'.rst.powerOn = false → s'.rst.nvPulse = false →
        ∃ t : State, exec (.mrdr p) s = .next t ∧ t.rst.inReset = true)
    ∧ (p.code = 0 → 2 ≤ r.left →
        exec (.mrdr p) s = .next (s'.updCore c fun j => { j with remotes := [{ r with left := r.left - 1, data := got }] })
        ∧ exec (.mwrr p) s = .next (s'.updCore c fun j => { j with remotes := [{ r with left := r.left - 1 }] }))
    ∧ (p.code = 0 → r.left = 1 →
        (∀ rd op, r.use = .load rd op → exec (.mrdr p) s = .next (s'.updCore c fun j =>
          { j with remotes := [] }.setG rd (loadExtend op (Memory.readLE got 0 (loadSize op)))))
        ∧ (∀ n, r.use = .prefetch n ∨ r.use = .adapter n → exec (.mrdr p) s =
            .next (s'.updCore c fun j => { j with remotes := [{ r with left := 0, data := got }] }))
        ∧ (∀ d f ts td cap, r.use = .tile d f ts td → capacity d = some cap →
            let cart := Memory.readBytes got 0 64
            let n := (Cart.parse cart).plen.toNat
            (hcrcOk cart = true → up64 (64 + n) ≤ cap →
              ∃ t : State, exec (.mrdr p) s = .next t ∧ (t.core c).remotes = []
                ∧ (t.core c).loadBytes r.base (64 + n) = cart ++ Memory.readBytes got 64 n
                ∧ (∀ x, x < r.base ∨ r.base + 64 + up64 n ≤ x → (t.core c).store.read x = k.store.read x)
                ∧ (t.core c).flights = k.flights ∧ (t.core c).pends = k.pends ∧ { t with cores := s'.cores } = s')
            ∧ (hcrcOk cart = false → ∃ t : State, (t.core c).store = k.store ∧ (t.core c).flights = k.flights.filter (·.id != f)
                ∧ exec (.mrdr p) s = .next (t.raise c r.pc r.seq (dDesc ts) .csumAtUse .step))
            ∧ (hcrcOk cart = true → cap < up64 (64 + n) → ∃ t : State, (t.core c).store = k.store
                ∧ exec (.mrdr p) s = .next (t.raise c r.pc r.seq (dDesc td) .descBounds .job)))
        ∧ (∀ det, r.use = .store det → exec (.mwrr p) s = .next (s'.updCore c fun j => { j with remotes := [] }))))
  ∧ (∀ (s s' : State) (p : Packet) (e : Nat) (x : Xfer), s.arrive p = some s' → p.edge ≠ 0 →
      s'.engineOfTag p.msgid = some (e, x) → p.code = 0 →
      exec (.mwrr p) s = .next (s'.setEngine e (some { x with acks := x.acks - 1 })))
  ∧ ∀ (s s' : State) (p : Packet) (d : CoreId) (off : Nat), s.arrive p = some s' → spaceOf (memAddr p) = .store d off →
    let n := if p.typ = .mwr then p.payload.length else p.len.toNat
    let k := s'.core d
    let answer (code : Byte) : Packet := s'.reply p (if p.typ = .mwr then .mwrr else .mrdr) code
    let ok : Prop := (∃ q, s'.requester p = some q ∧ (s'.part q).hasCore d = true) ∧ off + n ≤ 0x40000 ∧ 0 < n ∧ off % 256 + n ≤ 256
      ∧ p.smod = s'.modId ∧ p.edge = 0 ∧ p.dst.toNat = d
    let shut : Prop := s'.cutPacket p = true ∨ s'.svr.closed.contains (.core d) = true
    p.typ = .mrd ∨ p.typ = .mwr →
    (¬ ok → p.typ = .mrd ∨ k.holdsWrite off n = false → exec (.windowAccess p) s = .next (s'.send (answer 0x06)))
    ∧ (ok → shut → p.typ = .mrd ∨ k.holdsWrite off n = false → exec (.windowAccess p) s = .next (s'.send (answer 0x04)))
    ∧ (ok → ¬ shut → p.typ = .mrd →
        (k.clean off n = true → exec (.windowAccess p) s =
          .next (s'.send { answer 0 with len := p.len, off := p.off, payload := k.store.readBytes off n }))
        ∧ ∀ r, k.clean off n = false → p.src ≠ 0xFFFF → (s'.core p.src.toNat).remotes.find? (fun r => r.tag == p.msgid) = some r →
            exec (.windowAccess p) s = .next (s'.failRemote p.src.toNat r .csumAtUse))
    ∧ (ok → ¬ shut → p.typ = .mwr →
        ((∃ x ∈ k.pends, x.wr = false ∧ overlap64 x.lo x.len off n = true) → exec (.windowAccess p) s = .next s)
        ∧ (k.holdsWrite off n = false → ∃ t : State, exec (.windowAccess p) s = .next t ∧ t.net = s'.net ++ [answer 0]
            ∧ (t.core d).store.readBytes off n = p.payload
            ∧ (∀ x, x < off ∨ off + n ≤ x → (t.core d).store.read x = k.store.read x)
            ∧ (∀ g, g ∈ (t.core d).tags ↔ g ∈ k.tags ∧ overlap64 g.addr (64 + up64 g.plen) off n = false)
            ∧ (∀ e, e ≠ d → t.core e = s'.core e) ∧ { t with cores := s'.cores, net := s'.net } = s'))

/-- R224, R226, R263, R264, R267, R272, R274 to R276: link replays, of which the sixteenth failure in a row closes the receiving
core's wrapper and queues its quarantine; reserved packets; scrub and the retirement of a page with three corrected reads in
24 hours, whose copy changes no byte and ends with one spare less; writes of MEM_TILE_CFG and of the region table and what the
registers then say. -/
def Obligations.LinksScrubAndTables : Prop :=
  (∀ (s : State) (c : CoreId) (dir : BitVec 2), coreExists c = true →
    let key := 4 * c + dir.toNat
    let n := Sparse.get 0 s.mem.linkFails key
    exec (.linkReplay c dir false) s = .next (s.updMem fun m => { m with linkFails := Sparse.put 0 m.linkFails key 0 })
    ∧ (n < 15 → exec (.linkReplay c dir true) s =
        .next (s.updMem fun m => { m with linkFails := Sparse.put 0 m.linkFails key (n + 1) }))
    ∧ (15 ≤ n → ∃ t : State, exec (.linkReplay c dir true) s = .next t ∧ t.svr.closed.contains (.core c) = true
        ∧ t.svr.quarantines.contains (.core c) = true
        ∧ (s.svr.closed.contains (.core c) = false → t.core c = {} ∧ t.mem.bytes = s.mem.bytes)))
  ∧ (∀ (s s' : State) (p : Packet), s.arrive p = some s' → p.typ = .rsv0E ∨ p.typ = .rsv0F →
      exec (.reservedPacket p) s = .next { s' with notices := s'.notices ++ [p.typ] })
  ∧ (∀ (s : State) (line page : Nat), s.rst.inReset = false → line < 0x200000000 → page < 0x8000000 →
      exec (.patrolScrub line 0) s = .next s
      ∧ (s.mem.poisoned.contains (line / 64) = false → ∃ t : State, exec (.patrolScrub line 1) s = .next t
          ∧ (t.stack (line / 64 % 8)).cecnt.toNat = min ((s.stack (line / 64 % 8)).cecnt.toNat + 1) 0xFFFF
          ∧ t.mem.bytes = s.mem.bytes ∧ { t with mem := s.mem } = s)
      ∧ (∀ err, 2 ≤ err.toNat → s.rst.powerOn = false → s.rst.nvPulse = false →
          ∃ t : State, exec (.patrolScrub line err) s = .next t ∧ t.rst.inReset = true ∧ t.rst.resetNDrive = true)
      ∧ (s.mem.poisoned.contains page = false → (∀ x ∈ s.mem.copies, x.1 ≠ page) →
          let recent := (Sparse.get [] s.mem.corrections page).filter fun x => s.now < x + 24 * 3600 * 10 ^ 9
          (recent.length < 3 → exec (.pageRetire page false) s = .next s)
          ∧ (3 ≤ recent.length → exec (.pageRetire page false) s = .next (
              if (s.stack (page % 8)).spares = 0 then s.updStack (page % 8) fun n => { n with nospare := true }
              else (s.updStack (page % 8) fun n => { n with retiring := true }).updMem fun m =>
                { m with copies := m.copies ++ [(page, s.now + 4000)] })))
      ∧ (let t := s.copied page
         t.mem.bytes = s.mem.bytes ∧ t.cores = s.cores ∧ t.mem.copies = s.mem.copies.filter (fun x => x.1 != page)
         ∧ Sparse.get [] t.mem.corrections page = []
         ∧ (t.stack (page % 8)).spares = (s.stack (page % 8)).spares - 1
         ∧ (t.stack (page % 8)).nospare = decide ((s.stack (page % 8)).spares = 1)))
  ∧ (∀ (s : State) (v : W64), s.rst.inReset = false →
      let base := v.toNat % 512
      let size := v.toNat / 2 ^ 16 % 512
      (s.attached = true ∨ 2 ^ 39 < base * 2 ^ 30 + size * 2 ^ 30 + size * 2 ^ 24 → exec (.memTileCfgWrite v) s = .next s)
      ∧ (s.attached = false → base * 2 ^ 30 + size * 2 ^ 30 + size * 2 ^ 24 ≤ 2 ^ 39 →
          ∃ t : State, exec (.memTileCfgWrite v) s = .next t ∧ { t with mem := s.mem } = s ∧ t.mem.bytes = s.mem.bytes
            ∧ t.mem.tileCfg.toNat = base + 2 ^ 16 * size
            ∧ ∀ a, a < 2 ^ 39 → t.slotOk a = decide (a % 4096 = 0 ∧ base * 2 ^ 30 ≤ a ∧ a < (base + size) * 2 ^ 30)
                ∧ (t.slotOk a = true → t.cartAddr a = (base + size) * 2 ^ 30 + (a - base * 2 ^ 30) / 64)))
  ∧ ∀ (s : State) (p n : Nat) (v v1 : W64), s.rst.inReset = false → p < 16 → n < 256 →
      ((s.part p).job.isSome = true → ∀ w1, exec (.regionTableWrite p n w1 v) s = .next (s.event
          { code := .access, cls := .job, part := some p, step := s.stepNo p
            detail := Config.eventDetail FCode.access.byte.toNat 0xFFFF s.tick }))
      ∧ ((s.part p).job = none → ∃ t u : State, exec (.regionTableWrite p n false v) s = .next t
          ∧ exec (.regionTableWrite p n true v1) t = .next u
          ∧ (let r := u.region p n
             r.base = v.toNat / 4096 * 4096 ∧ r.owner = v.toNat / 256 % 16 ∧ r.valid = v.getLsbD 7 ∧ r.ink = v.getLsbD 6
             ∧ r.w = v.getLsbD 5 ∧ r.r = v.getLsbD 4 ∧ r.w0.toNat % 16 = 0 ∧ r.last = v1.toNat / 4096 * 4096 + 4095
             ∧ r.w1.toNat % 4096 = 0)
          ∧ (∀ q m, q < 16 → m < 256 → (q ≠ p ∨ m ≠ n) → u.region q m = s.region q m) ∧ { u with mem := s.mem } = s)

/-- R259, R279 to R284, R444: a free engine takes the transfer that waits longest; the first failing check ends it and nothing
moves; bytes for the host come from one INK region.
A BYTES transfer of device bytes asks for them, one of host bytes writes them at once; what its answers bring reaches its
destination at the same place. A TILES transfer asks for one tile at a time, a cartouche read and sixteen payload reads; once
they have come it is checked, held for inking where its destination holds pencilled tiles, and written, its payload filled to
4,096 bytes before its cartouche. A refused answer ends the transfer; completion waits for every answer, frees the engine and
makes the arrival. No register and no store of a core changes. -/
def Obligations.TransferEngines : Prop :=
  let asks (s : State) (x : Xfer) (rs : List (Nat × Nat × Nat)) : List Packet :=
    rs.map fun r => { s.reqPacket 0xFFFF .mrd x.tag r.1 r.2.1 with off := BitVec.ofNat 32 r.2.2 }
  let puts (s : State) (x : Xfer) (pencil : Bool) (ws : List (Nat × List Byte)) : List Packet :=
    ws.map fun w => { s.reqPacket 0xFFFF .mwr x.tag w.1 w.2.length with payload := w.2, pencil := pencil }
  let moved (s u : State) (e : Nat) (y : Xfer) (ps : List Packet) : Prop :=
    u.net = s.net ++ ps ∧ u.engine e = some y ∧ u.mem.bytes = s.mem.bytes ∧ u.host = s.host ∧ u.cores = s.cores
  let hosted (s u : State) (e : Nat) (y : Xfer) (a : Nat) (bs : List Byte) : Prop :=
    u.host.mem.readBytes a bs.length = bs ∧ (∀ z, z < a ∨ a + bs.length ≤ z → u.host.mem.read z = s.host.mem.read z)
    ∧ u.net = s.net ∧ u.engine e = some y ∧ u.mem.bytes = s.mem.bytes ∧ u.cores = s.cores
  (∀ (s : State) (e : Nat) (w : Xfer) (rest : List Xfer), s.rst.inReset = false → e < 16 → s.engine e = none →
    s.svr.closed.contains .transferEngines = false → s.mem.waiting = w :: rest → (w.d.srcHost = true → s.host.linkUp = true) →
    let x : Xfer := { w with tag := BitVec.ofNat 32 (16 * s.mem.xferNo + e) }
    let t := (s.updMem fun m => { m with waiting := rest, xferNo := m.xferNo + 1 }).setEngine e (some x)
    let d := x.d
    let n := d.len.toNat
    (∀ code, s.xferCheck x.part d = some code → exec (.transferStart e) s = .next (t.endXfer e x (.fault code) 0))
    ∧ (s.xferFormat d = false → (s.xferCheck x.part d = some .descBounds ↔
        d.src.toNat < d.srclo.toNat ∨ d.srchi.toNat < d.src.toNat + d.srcLen ∨ d.dst.toNat < d.dstlo.toNat
        ∨ d.dsthi.toNat < d.dst.toNat + d.dstLen))
    ∧ (s.xferCheck x.part d = none → d.tiles = true ∨ n = 0 → exec (.transferStart e) s = .next t)
    ∧ (s.xferCheck x.part d = none → d.tiles = false → 0 < n →
        let src := s.translate d.src.toNat
        let host := s.host.mem.readBytes d.src.toNat n
        let ws := cutBytes (s.translate d.dst.toNat) host
        let rs := (pieces256 src n).map fun r => (r.1, r.2, r.1 - src)
        ∃ u : State, exec (.transferStart e) s = .next u
          ∧ (d.srcHost = false → moved s u e { x with fetched := true, left := x.left + rs.length } (asks s x rs))
          ∧ (d.srcHost = true → d.dstHost = false ∧ moved s u e { x with acks := x.acks + ws.length } (puts s x false ws)))
    ∧ (d.tiles = false → 0 < n → d.dstHost = true →
        d.srcHost = true ∨ s.inkRegion x.part (s.translate d.src.toNat) n = false → ∃ code, s.xferCheck x.part d = some code))
  ∧ (∀ (s s' : State) (p : Packet) (e : Nat) (x : Xfer), s.arrive p = some s' → p.edge ≠ 0 → s'.engineOfTag p.msgid = some (e, x) →
    let code : FCode := if p.code = 0x04 then .isolated else if p.code = 0x07 then .linkLost else .access
    let y := { x with left := x.left - 1 }
    let off := p.off.toNat
    let ws := cutBytes (s'.translate x.d.dst.toNat + off) p.payload
    (p.code ≠ 0 → (p.code = 0x07 → p.smod ≠ s'.modId) → ∀ i ∈ [Instr.mrdr p, .mwrr p],
        exec i s = .next (s'.endXfer e x (.fault code) (BitVec.ofNat 64 x.next)))
    ∧ (p.code = 0 → x.d.tiles = true → exec (.mrdr p) s =
        .next (s'.setEngine e (some { y with got := Memory.writeBytes x.got off p.payload })))
    ∧ (p.code = 0 → x.d.tiles = false → ∃ u : State, exec (.mrdr p) s = .next u
        ∧ (x.d.dstHost = false → moved s' u e { y with acks := x.acks + ws.length } (puts s' x false ws))
        ∧ (x.d.dstHost = true → s'.host.linkUp = true → hosted s' u e y (x.d.dst.toNat + off) p.payload)))
  ∧ ∀ (s : State) (e : Nat) (x : Xfer), s.rst.inReset = false → s.engine e = some x →
    (x.d.tiles = true → x.next < x.d.count.toNat →
      let a := s.translate (x.d.src.toNat + 4096 * x.next)
      let b := s.translate (x.d.dst.toNat + 4096 * x.next)
      let cart := Memory.readBytes x.got 0 64
      let c := Cart.parse cart
      let payload := Memory.readBytes x.got 64 c.plen.toNat
      let body := payload ++ List.replicate (4096 - payload.length) 0
      let stops (code : FCode) : Prop := exec (.tileTransfer e) s = .next (s.endXfer e x (.fault code) (BitVec.ofNat 64 x.next))
      let z : Xfer := { x with next := x.next + 1, asked := false, answer := none, fetched := false, got := [] }
      let ws := cutBytes b body ++ [(s.cartAddr b, cart)]
      (x.fetched = false → a % 4096 = 0 → ∃ u : State, exec (.tileTransfer e) s = .next u ∧
        moved s u e { x with fetched := true, left := x.left + 17 }
          (asks s x ((s.cartAddr a, 64, 0) :: (List.range 16).map fun i => (a + 256 * i, 256, 64 + 256 * i))))
      ∧ (x.fetched = true → x.left ≠ 0 → exec (.tileTransfer e) s = .next s)
      ∧ (x.fetched = true → x.left = 0 →
          (hcrcOk cart = false → stops .csumAtUse)
          ∧ (hcrcOk cart = true → shapeOk c = false → stops .formatMismatch)
          ∧ (hcrcOk cart = true → shapeOk c = true → x.d.verify = true → crc32c payload ≠ c.pcrc → stops .csumAtUse)
          ∧ (hcrcOk cart = true → shapeOk c = true → (x.d.verify = true → crc32c payload = c.pcrc) →
              (s.xferInk x = true → s.tileInk x c = .dead → stops .access)
              ∧ (s.xferInk x = true → s.tileInk x c = .wait → c.module = s.modId ∨ x.asked = true →
                  exec (.tileTransfer e) s = .next s)
              ∧ (s.xferInk x = false ∨ s.tileInk x c = .go → ∃ u : State, exec (.tileTransfer e) s = .next u
                  ∧ (x.d.dstHost = false →
                      moved s u e { z with acks := x.acks + ws.length } (puts s x (c.pencil && !s.xferInk x) ws))
                  ∧ (x.d.dstHost = true → s.host.linkUp = true → u.engine e = some z ∧ u.mem.bytes = s.mem.bytes ∧ u.cores = s.cores
                      ∧ u.host.mem.readBytes (x.d.dst.toNat + 4096 * x.next) 4096 = body
                      ∧ u.host.mem.readBytes (x.d.dst.toNat + 4096 * x.d.count.toNat + 64 * x.next) 64 = cart)))))
    ∧ ((x.d.tiles = true → x.d.count.toNat ≤ x.next) → x.left = 0 → x.acks = 0 →
        ∃ t u : State, exec (.transferComplete e) s = .next u ∧ u = t.endXfer e x .ok 0 ∧ u.engine e = none
          ∧ (x.d.warr = false → t = s)
          ∧ (x.d.warr = true → ∃ q : Packet, t = s.send q ∧ q.typ = .warr ∧ q.wpid = x.d.wp.setWidth 16 ∧ q.pencil = false))
    ∧ (x.left ≠ 0 ∨ x.acks ≠ 0 → exec (.transferComplete e) s = .next s)

/-! ### Checks, ink, smudges and commits (spec/08) -/

/-- R293, R290 to R292: a covered run on a sound data path passes its check. For a clear covered bank at a fixed datum in the
long path and any sequence of tile pairs, vector long sums and partials whose finite values have ordinary exponents, every
line that is not excluded is within its bound, once the overflow test has passed and KCNT has not saturated. -/
def Obligations.SoundRunsPassTheirCheck : Prop :=
  ∀ (b : Bank) (ops : List (Bank → Bank)), b.cells = [] → b.chk = [] → b.kcnt = 0 → b.pemax = 0x8000 → b.intmode = false →
    b.fixed = true → b.cover = some true →
    let ordinary (x : Machine.Num) : Prop := ∀ neg m e, x = .fin neg m e → m ≠ 0 → -8000 ≤ flog2 m e ∧ flog2 m e ≤ 8000
    (∀ f ∈ ops,
      (∃ (k : Nat) (ma mb : List (List Machine.Num)), (f = fun b => b.addPair k ma mb) ∧ ma.length ≤ 8 ∧ mb.length ≤ 16
        ∧ ∀ r ∈ ma ++ mb, r.length = k ∧ ∀ x ∈ r, ordinary x)
      ∨ (∃ (n : Nat) (xs : List Machine.Num), (f = fun b => b.longSum n xs) ∧ n < 128 ∧ xs.length = 32 ∧ ∀ x ∈ xs, ordinary x)
      ∨ ∃ xs : List Machine.Num, (f = fun b => b.addPartial xs) ∧ xs.length = 128 ∧ ∀ x ∈ xs, ordinary x) →
    let r := ops.foldl (fun b f => f b) b
    r.overflows = false → r.kcnt ≠ 0xFFFFFFFF → r.checks = true

/-- R293 to R295, R306 to R309, Table 8-3: what the check engine and the surveyor do with a snapshot. A line passes by 2 × |D| ≤ N
or when it is excluded, and the excluded lines are counted; a passing comparison drops the snapshot; a failing one holds its epoch and the neighbour; a rerun or
the timeout ends by its outcome: the result stands and the checker is suspect, or the epoch is never inked. -/
def Obligations.GraticuleAndTriangulation : Prop :=
  (∀ (b : Bank) (i : Nat), i < 8 → b.intmode = false →
    let cells := (List.range 16).map fun j => b.cell (16 * i + j)
    let r := b.chkReg (16 + i)
    let count (c : Byte) : Nat := if c = 0xFF then b.kcnt.toNat else c.toNat
    b.checks = true → (∃ x ∈ cells, x.nan = true ∨ x.pinf = true ∨ x.ninf = true) ∨ r.nan = true ∨ r.pinf = true ∨ r.ninf = true
      ∨ 2 * ((cells.map fun x => x.acc.toInt).sum - r.acc.toInt).natAbs ≤ (cells.map fun x => count x.rcnt).sum + count r.cnt)
  ∧ (∀ (b : Bank) (i : Nat), i < 8 →
    let cells := (List.range 16).map fun j => b.cell (16 * i + j)
    let r := b.chkReg (16 + i)
    ∃ l, b.lines[i]? = some l ∧ b.lines.length = 26 ∧ (l.excluded = true ↔
      (∃ x ∈ cells, x.nan = true ∨ x.pinf = true ∨ x.ninf = true ∨ b.intmode = true ∧ x.sat = true)
        ∨ r.nan = true ∨ r.pinf = true ∨ r.ninf = true))
  ∧ (∀ (s : State) (c : CoreId) (p : Nat) (x : Snap), s.rst.inReset = false → s.svr.closed.contains (.core c) = false →
    s.partOf c = some p → (s.core c).snaps.find? (fun y => !y.held) = some x →
    let k := s.core c
    (x.bank.checks = true → ∃ t : State, exec (.graticuleCompare c) s = .next t ∧ (t.core c).snaps = k.snaps.erase x
        ∧ (t.core c).banks = k.banks ∧ (∀ d, d ≠ c → t.core d = s.core d)
        ∧ t.svr = { s.svr with linesExcluded := s.svr.linesExcluded + (x.bank.lines.filter (·.excluded)).length }
        ∧ { t with cores := s.cores, net := s.net, svr := s.svr } = s)
    ∧ (x.bank.checks = false → ∃ t : State, exec (.graticuleCompare c) s = .next t
        ∧ (let n := if (s.part p).hasCore (coreAt (coreX c + 1) (coreY c)) then coreAt (coreX c + 1) (coreY c)
             else coreAt (coreX c - 1) (coreY c)
           (t.core n).triHold = true
           ∧ (t.part p).tris = (s.part p).tris ++ [⟨c, n, x.ab, x.epoch, x.bank.failing.1, x.bank.failing.2⟩])
        ∧ (t.core c).snaps = k.snaps.map (fun y => if y = x then { y with held := true } else y)
        ∧ (t.core c).frontier = k.frontier ∧ (t.core c).epoch = k.epoch ∧ t.net = s.net
        ∧ t.svr.linesExcluded = s.svr.linesExcluded + (x.bank.lines.filter (·.excluded)).length))
  ∧ ∀ (s : State) (c : CoreId) (p : Nat) (t : Tri) (x : Snap), s.triFor c = some (p, t, x) → t.neighbour ≠ c →
    let k := s.core c
    let ended (u : State) (o : TriOutcome) : Prop :=
      (u.part p).tris = (s.part p).tris.erase t ∧ (u.core c).snaps = k.snaps.erase x
      ∧ ((∀ y ∈ (s.part p).tris.erase t, y.neighbour ≠ t.neighbour) → (u.core t.neighbour).triHold = false)
      ∧ (o = .checker → (u.core c).suspect = true ∧ (u.core c).checkerHits = k.checkerHits + 1 ∧ (u.core c).rangeFail = k.rangeFail
          ∧ (1 ≤ k.checkerHits → u.svr.quarantines.contains (.core c) = true))
      ∧ (o ≠ .checker → (u.core c).rangeFail = some (match k.rangeFail with | some f => nearer k.frontier f t.epoch | none => t.epoch)
          ∧ (u.core c).suspect = k.suspect)
      ∧ (o = .core → (u.core c).forceCover = true ∧ u.svr.quarantines.contains (.core c) = true
          ∧ (s.svr.quarantines.contains (.core c) = false → (Block.core c, 0x05) ∈ u.svr.causes))
    (∃ u : State, exec (.triangulationTimeout c) s = .next u ∧ ended u .unresolved)
    ∧ ((s.core t.neighbour).stolen = none → s.svr.closed.contains (.core t.neighbour) = false →
        ∃ u : State, exec (.triangulation c) s = .next u ∧ ended u (s.triOutcome t x.bank) ∧ (u.core t.neighbour).bank 4 = {}
          ∧ (∀ n < 4, (u.core t.neighbour).bank n = (s.core t.neighbour).bank n)
          ∧ (x.bank.clogFull = true → s.triOutcome t x.bank = .unresolved))

/-- R314 to R319, R544: the ink frontier ends just below the nearest epoch that something holds back, and at the latest epoch
when nothing does; a block keeps the highest frontier told and answers exactly the subscriptions that it passes; a query is
answered DEAD, INKED, SUBSCRIBED or NOTYET, or replaces its subscription in silence; INKED retires entries, NOTYET has the
query sent again, DEAD ends the arrivals that depend on it with ACCESS. -/
def Obligations.InkFrontiersAndQueries : Prop :=
  (∀ k : Core, (k.epoch - k.frontier).toNat < 2 ^ 31 →
    (∀ b ∈ k.blockers, 1 ≤ (b - k.frontier).toNat ∧ (b - k.frontier).toNat ≤ (k.epoch - k.frontier).toNat) →
      let f := k.frontierNow
      covers f k.frontier = true ∧ covers k.epoch f = true ∧ (∀ b ∈ k.blockers, covers f b = false)
      ∧ (k.blockers = [] → f = k.epoch) ∧ (k.blockers ≠ [] → f + 1 ∈ k.blockers))
  ∧ ∀ (s s' : State) (p : Packet), s.arrive p = some s' → p.typ = .ink →
    let kind := p.arg.toNat % 256
    let pc := p.ext.toNat % 2 ^ 16
    let pm : BitVec 15 := BitVec.ofNat 15 (p.ext.toNat / 2 ^ 16)
    let notice (n c : Nat) (m : BitVec 15) (d : W16) (id e : W32) : Packet :=
      { typ := .ink, edge := if d.toNat < 0xFF00 then 0 else 4, dst := d, src := 0xFFFF, dlocal := m == s'.modId, dmod := m
        smod := s'.modId, msgid := id, epoch := e, arg := BitVec.ofNat 32 n, ext := BitVec.ofNat 160 (c + 2 ^ 16 * s'.modId.toNat) }
    let me := p.dst.toNat
    let k := s'.core me
    (kind = 0 → p.smod = s'.modId → let c := p.src.toNat
      let b := s'.ink c
      let f := if covers b.frontier p.epoch then b.frontier else p.epoch
      let due (x : Sub) : Bool := x.producer == c && (covers f x.epoch || b.isDead x.epoch)
      ∃ t : State, exec (.frontier p) s = .next t ∧ t.ink c = { b with frontier := f } ∧ t.subs = s'.subs.filter (fun x => !due x)
        ∧ t.net = s'.net ++ (s'.subs.filter due).map (fun x =>
            if b.isDead x.epoch then notice 5 c x.cmod x.ccore x.msgid x.epoch else notice 2 c x.cmod x.ccore x.msgid f)
        ∧ (∀ d, d ≠ c → t.ink d = s'.ink d) ∧ t.cores = s'.cores)
    ∧ (kind = 1 → pc < 0xFF00 → coreExists pc = true → p.smod = s'.modId →
        let b := s'.ink pc
        let x : Sub := ⟨pc, p.smod, p.src, p.msgid, p.epoch⟩
        let out (n : Nat) (e : W32) (subs : List Sub) : Host.Outcome State Fault Refusal :=
          .next { s' with subs := subs, net := s'.net ++ [notice n pc p.smod p.src p.msgid e] }
        exec (.query p) s =
          if b.isDead p.epoch then out 5 p.epoch s'.subs
          else if covers b.frontier p.epoch then out 2 b.frontier s'.subs
          else if s'.subs.any (sameSub x) then .next { s' with subs := s'.subs.map fun y => if sameSub x y then x else y }
          else if (s'.subs.filter fun y => sheetOf y.producer == sheetOf pc).length < 16384 then out 3 p.epoch (s'.subs ++ [x])
          else out 4 p.epoch s'.subs)
    ∧ (kind = 2 → me < 0xFF00 → ∃ t : State, exec (.inked p) s = .next t
        ∧ (∀ g ∈ (t.core me).foreign, g.pmod = pm → g.pcore.toNat = pc → g.isDead = none →
            covers p.epoch g.epoch = false ∧ g.covered = some p.epoch ∧ ∀ m ∈ g.marks, covers p.epoch m.1 = false)
        ∧ (∀ g, ¬(g.pmod = pm ∧ g.pcore.toNat = pc) → (g ∈ (t.core me).foreign ↔ g ∈ k.foreign))
        ∧ (t.core me).banks = k.banks ∧ (t.core me).g = k.g ∧ ∀ d, d ≠ me → t.core d = s'.core d)
    ∧ (kind = 3 → exec (.subscribed p) s = .next s')
    ∧ (kind = 4 → me < 0xFF00 → k.heldArrs = [] → ∀ i g, k.foreign[i]? = some g → g.pmod = pm → g.pcore.toNat = pc →
        ∃ t u : State, exec (.notyet p) s = .next t ∧ (t.core me).foreign[i]? = some { g with again := true }
          ∧ exec (.notyetRetry me i) t = .next u ∧ (u.core me).foreign[i]? = some { g with again := false }
          ∧ ∃ q : Packet, u.net = t.net ++ [q] ∧ q.typ = .ink ∧ q.arg = 1 ∧ q.epoch = g.epoch ∧ q.src = BitVec.ofNat 16 me
            ∧ q.ext = BitVec.ofNat 160 (pc + 2 ^ 16 * pm.toNat) ∧ q.dmod = pm)
    ∧ (kind = 5 → me < 0xFF00 → (∀ h ∈ k.heldArrs, s'.arrDead me p h = false) → (∀ d ∈ k.foreign, d.isDead = none) →
        k.heldArrs.all (fun h => h.own.isNone) = true →
        exec (.dead p) s = .next (s'.updCore me fun j => { j with foreign := j.foreign.map (fun g =>
          if g.pmod = pm ∧ g.pcore.toNat = pc ∧ (g.marks.any fun m => m.1 == p.epoch) = true then
            { g with isDead := (g.marks.find? fun m => m.1 == p.epoch).map (·.2) }
          else g) }))

/-- R322 to R324, R176: the first smudge of the current attempt stops every core of the partition and discards its work, its
epochs above the frontier become dead, its waypoints return to their launch values; a later one of the same attempt only
moves the restart tick, any other is ignored; ATTEMPT advances once; at the restart tick the stopped cores run again from
STEPPC with their restore values and their core store as it stands. -/
def Obligations.SmudgeAndRestart : Prop :=
  (∀ (s s' : State) (p : Packet) (part : Nat), s.arrive p = some s' → p.typ = .smudge → p.smod = s'.modId →
    s'.sheetPart (sheetOf p.dst.toNat) = some part → (s'.part part).job.isSome = true →
    let x := s'.part part
    let a : Byte := p.arg.setWidth 8
    (x.smudging = none → a ≠ x.attempt ∨ x.committed = true → exec (.smudge part p) s = .next s')
    ∧ (∀ m, x.smudging = some m → m.quiesced = false → x.committed = false →
        (a = x.attempt → exec (.smudge part p) s =
          .next (s'.updPart part fun y => { y with smudging := some { m with tr := max m.tr p.time.toNat } }))
        ∧ (a ≠ x.attempt → exec (.smudge part p) s = .next s'))
    ∧ (x.smudging = none → a = x.attempt → x.committed = false → s'.tick.toNat ≤ p.time.toNat → x.tris = [] → s'.contexts part = [] →
        (∀ e, s'.engine e = none) →
        ∃ t : State, exec (.smudge part p) s = .next t
          ∧ (t.part part).smudging = some ⟨p.time.toNat, false, false⟩ ∧ (t.part part).attempt = x.attempt
          ∧ (t.part part).votes = [] ∧ (t.part part).running = x.running.map (fun r => { r with attempts := r.attempts + 1 })
          ∧ (∀ w, x.hasSheet (wpHome w) = true → t.wp w = {}) ∧ (∀ w, x.hasSheet (wpHome w) = false → t.wp w = s'.wp w)
          ∧ (∀ c, x.hasCore c = true → (s'.core c).run ≠ .off →
              let k := s'.core c
              let j := t.core c
              j.run = (if k.run = .stopJob then .stopJob else .stopStep) ∧ j.foreign = [] ∧ j.heldArrs = [] ∧ j.hold = none
              ∧ j.snaps = [] ∧ j.stolen = none ∧ j.sends = [] ∧ j.bank 4 = {} ∧ j.epoch = k.epoch ∧ (∀ n < 4, j.bank n = k.bank n)
              ∧ (∀ a, j.store.read a &&& 0x7F = k.store.read a &&& 0x7F)
              ∧ (covers k.frontier k.epoch = false →
                  (t.ink c).dead = ((k.frontier + 1, k.epoch) :: (s'.ink c).dead).take 4))
          ∧ (∀ c, c < 65536 → x.hasCore c = false → t.core c = s'.core c)))
  ∧ ∀ (s : State) (part : Nat) (m : Smudging), (s.part part).smudging = some m →
    (m.quiesced = false → ∃ t : State, exec (.quiesced part) s = .next t ∧ (t.part part).attempt = (s.part part).attempt + 1
        ∧ (t.part part).smudging = some { m with quiesced := true } ∧ t.cores = s.cores ∧ t.mem = s.mem)
    ∧ (m.quiesced = true → s.tick.toNat < m.tr → exec (.restart part) s = .next s)
    ∧ (m.quiesced = true → m.tr ≤ s.tick.toNat → ∃ t : State, exec (.restart part) s = .next t
        ∧ (t.part part).smudging = none
        ∧ (∀ c, (s.part part).hasCore c = true → (s.core c).run = .stopStep →
            let k := s.core c
            let j := t.core c
            j.run = .running ∧ j.pc = k.steppc ∧ j.steppc = k.steppc ∧ j.ctl = k.restore ∧ j.store = k.store ∧ j.tags = k.tags
            ∧ j.epoch = k.epoch ∧ j.frontier = k.frontier ∧ j.idle = k.idle ∧ j.cfault = k.cfault ∧ j.icount = k.icount
            ∧ j.givenUp = k.givenUp
            ∧ (∀ r, j.gr r = 0) ∧ (∀ q l, j.lane q l = 0) ∧ (∀ r, j.desc r = {})
            ∧ (∀ n < 4, (j.bank n).written = Sparse.get {} k.restoreDat n ∧ (j.bank n).opn = false ∧ (j.bank n).cells = []))
        ∧ (∀ c, c < 65536 → (s.part part).hasCore c = false ∨ (s.core c).run ≠ .stopStep → t.core c = s.core c))

/-- R326 to R329: a module votes once its commit waypoint is complete and every core has halted, to every other module of its
job; a vote counts when its ATTEMPT and step are the module's own, once per module; at the commit tick, the latest vote plus
SMDELAY, STEP and VSEL move, ATTEMPT is 0, and the commit cell takes the same eight bytes. -/
def Obligations.VotesAndInkCommit : Prop :=
  (∀ (s : State) (part : Nat) (j : Job) (r : StepRun), s.rst.inReset = false →
    let x := s.part part
    x.job = some j → x.running = some r → x.voted = false → x.smudging = none → x.cwp ≠ 0xFFFF → s.wpOk part x.cwp.toNat = true →
    (s.wp x.cwp.toNat).state = .complete →
    ((∀ c, x.hasCore c = true → (s.core c).run = .halted) → ∃ t : State, exec (.commitVote part) s = .next t
        ∧ (t.part part).voted = true ∧ (t.part part).votes = x.votes ++ [(s.modId, s.tick)]
        ∧ (∃ ps qs, t.net = s.net ++ ps ++ qs ∧ (∀ q ∈ ps, q.typ = .ovd ∨ q.typ = .ovr) ∧ (s.overlayOn part = false → ps = [])
            ∧ qs.map (·.dmod) = s.otherModules part
            ∧ ∀ q ∈ qs, q.typ = .vote ∧ q.dlocal = false ∧ q.time = s.tick ∧ q.arg.toNat = x.attempt.toNat
                ∧ q.ext.toNat % 2 ^ 32 = r.step.toNat ∧ q.smod = s.modId)
        ∧ t.cores = s.cores ∧ t.mem = s.mem
        ∧ (s.overlayOn part = false → { t with parts := s.parts, net := s.net } = s))
    ∧ (∀ c, x.hasCore c = true → (s.core c).run ≠ .halted → exec (.commitVote part) s = .next s))
  ∧ (∀ (s s' : State) (p : Packet) (part : Nat) (r : StepRun), s.arrive p = some s' → p.typ = .vote →
      (s'.otherModules part).contains p.smod = true → (s'.part part).running = some r →
      let x := s'.part part
      let mine := p.arg.toNat % 256 = x.attempt.toNat ∧ p.ext.toNat % 2 ^ 32 = r.step.toNat
      (¬ mine ∨ (∃ v ∈ x.votes, v.1 = p.smod) → exec (.vote part p) s = .next s')
      ∧ (mine → (∀ v ∈ x.votes, v.1 ≠ p.smod) → x.voted = false →
          exec (.vote part p) s = .next (s'.updPart part fun y => { y with votes := y.votes ++ [(p.smod, p.time)] })))
  ∧ ∀ (s : State) (part : Nat) (r : StepRun), (s.part part).running = some r → s.rst.inReset = false →
    let x := s.part part
    (x.voted = true → x.smudging = none → (∀ m ∈ s.otherModules part, ∃ v ∈ x.votes, v.1 = m) →
      ∃ tc, s.commitTick part = some tc ∧ (∀ v ∈ x.votes, v.2.toNat + 1000 * x.smdelay.toNat ≤ tc)
        ∧ (x.votes ≠ [] → ∃ v ∈ x.votes, tc = v.2.toNat + 1000 * x.smdelay.toNat))
    ∧ ∀ tc, s.commitTick part = some tc →
      (s.tick.toNat < tc → exec (.inkCommit part) s = .next s)
      ∧ (tc ≤ s.tick.toNat → s.contexts part = [] → ∃ t : State, exec (.inkCommit part) s = .next t
          ∧ (t.part part).commitStep = r.step ∧ (t.part part).vsel = !x.vsel ∧ (t.part part).attempt = 0
          -- the restore state ends: no later smudge restarts the attempt
          ∧ (t.part part).committed = true ∧ (∀ c, x.hasCore c = true → (t.core c).restore = {} ∧ (t.core c).restoreDat = [])
          ∧ (t.part part).ctick = BitVec.ofNat 64 tc ∧ (t.part part).commitWord.toNat = 2 ^ 32 * r.step.toNat + (if x.vsel then 0 else 1)
          ∧ (let a := s.translate x.ccell.toNat
             x.ccell ≠ 0 → spaceOf a = .memory → s.memIsolated a 8 = false → s.poisonIn a 8 = none →
               t.mem.bytes.readLE a 8 = 2 ^ 32 * r.step.toNat + (if x.vsel then 0 else 1)
               ∧ ∀ y, y < a ∨ a + 8 ≤ y → t.mem.bytes.read y = s.mem.bytes.read y))

/-! ### The Fameuri fabric (spec/09) -/

/-- R225, R334 to R338, Tables 6-1, 9-1 and 9-3: packets of one class that follow one another in the byte stream of a port are
read back one by one, with every header field and payload byte. A flit of up to 240 bytes passes its check and gives them back;
its fields stand where Table 9-1 puts them. The class that a port sends next gives up to 240 bytes of its stream, what has
begun first and then whole waiting packets, as one DATA flit with the next SEQ that the replay buffer keeps, against one
credit; a flit is short only when nothing more of its class waits. A HELLO record is read back. -/
def Obligations.PacketStreamRoundTrip : Prop :=
  (∀ ps : List Packet,
    (∀ p ∈ ps, p.payload.length ≤ 256 ∧ payloadSize p.typ p.len.toNat p.off.toNat ((p.payload.length + 63) / 64) = p.payload.length) →
      packetsOf ps.length (ps.flatMap packetBytes) = (ps, []))
  ∧ (∀ (o : Port) (kind : FlitKind) (cls : Nat) (first : W16) (bs : List Byte), bs.length ≤ 240 → cls < 8 →
      let f := o.flit kind cls first bs
      let by_ := flitBytes f
      flitGood f = true ∧ flitData f = bs ∧ by_.length = 0xFC ∧ by_.getD 0 0 = BitVec.ofNat 8 (kindCode kind) ∧ by_.getD 1 0 = BitVec.ofNat 8 cls
        ∧ field by_ 2 2 = (if kind = .idle then 0 else o.txseq.toNat)
        ∧ field by_ 4 2 = (o.rxseq - 1).toNat + (if o.got then 0x1000 else 0) + (if o.nakDue then 0x2000 else 0)
        ∧ field by_ 6 2 = f.creditCls.toNat + 256 * f.credit.toNat ∧ field by_ 8 2 = first.toNat ∧ field by_ 0xA 2 = bs.length
        ∧ (by_.drop 0xC).take bs.length = bs)
  ∧ (∀ (s : State) (n c : Nat), n < 12 → c < 7 →
      let t := s.sendData n c
      let o := s.port n
      ∃ (f : Flit) (ps : List Packet),
        (t.port n).outq = o.outq ++ [f] ∧ (t.port n).replay = o.replay ++ [f] ∧ f.kind = .data ∧ f.cls.toNat = c ∧ f.seq = o.txseq
          ∧ (t.port n).txseq = o.txseq + 1 ∧ flitGood f = true
          ∧ flitData f ++ (t.port n).begun c = o.begun c ++ ps.flatMap packetBytes
          ∧ (flitData f).length = min 240 (o.begun c ++ ps.flatMap packetBytes).length
          ∧ f.first = (if ps = [] then 0xFFFF else BitVec.ofNat 16 (o.begun c).length)
          ∧ (c ≠ 1 → ∀ p ∈ ps, packetClass p.typ true = c ∧ (p ∈ o.direct ∨ p ∈ s.net))
          ∧ ((flitData f).length < 240 → t.queued n c = false)
          ∧ (t.port n).credit c = o.credit c - 1 ∧ ∀ d, d ≠ c → (t.port n).credit d = o.credit d ∧ (t.port n).begun d = o.begun d)
  ∧ ∀ h : Hello, helloOf (helloBytes h) = h ∧ (helloBytes h).length = 65

/-- R336 to R338, R342, R351: a flit is delivered only when its FEC and FCRC are good and its SEQ is the next expected one, else
the next flit reports NAK; an ACK releases the flits up to its number and CREDIT gives back flits of a class; a whole packet
joins the mesh, but a job's packet on a dark port, and one that crosses between the margin dies through a closed router or with a
reserved type; on NAK every unacknowledged flit leaves again in order with what is to be reported now, and a flit resent 16 times
loses the port.
R31 to R33, R347, R348, R375, R376, R377 and Tables 9-11, 9-12: what cages, discovery, the HELLO exchange, a failing lane and a
lost port do. A loss in use stops the job's cores and posts ABORT once on every other port in use; an ABORT seen before does
nothing. -/
def Obligations.PortsFlitsAndCages : Prop :=
  (∀ (s : State) (n : Nat) (f : Flit), s.listens n = true →
    let o := s.port n
    let good := f.fecOk = true ∧ flitCrcOk f = true
    let left := (o.acked f).replay
    (f.fecOk = false → exec (.flitReceive n f) s = .next (s.updPort n fun o => { o with uncorr := sat16 o.uncorr, nakDue := true }))
    ∧ (f.fecOk = true → flitCrcOk f = false → exec (.flitReceive n f) s = .next (s.updPort n fun o => { o with nakDue := true }))
    ∧ ((f.ackv = false → left = o.replay)
        ∧ ∀ i g, f.ackv = true → o.replay[i]? = some g → g.seq = f.ack → (∀ j < i, ∀ h, o.replay[j]? = some h → h.seq ≠ f.ack) →
            left = o.replay.drop (i + 1))
    ∧ (good → f.kind = .idle → exec (.flitReceive n f) s = .next (s.updPort n fun o => (o.acked f).credited f))
    ∧ (∀ d, (o.credited f).credit d = o.credit d + (if d = f.creditCls.toNat then f.credit.toNat else 0))
    ∧ (good → f.kind ≠ .idle → f.seq ≠ o.rxseq →
        exec (.flitReceive n f) s = .next (s.updPort n fun o => { o.acked f with nakDue := true }))
    ∧ (good → f.kind = .data → f.seq = o.rxseq → (∀ e ∈ o.rx, e.1 ≠ f.cls.toNat) → ∀ p : Packet, flitData f = packetBytes p →
        payloadSize p.typ p.len.toNat p.off.toNat ((p.payload.length + 63) / 64) = p.payload.length → p.payload.length ≤ 256 →
          let keep : Bool := o.use != .dark || p.typ == .mer || p.typ == .mgmt
          let y := coreY p.dst.toNat
          let c := f.cls.toNat
          ∃ t : State, exec (.flitReceive n f) s = .next t
            ∧ (keep = false → t.net = s.net ∧ t.notices = s.notices)
            ∧ (keep = true → s.forUs p = true ∨ (∀ m, s.routePort p.dmod = some m → dieOf m = dieOf n) →
                t.net = s.net ++ [p] ∧ t.notices = s.notices)
            ∧ (∀ m, keep = true → s.forUs p = false → s.routePort p.dmod = some m → dieOf m ≠ dieOf n →
                let closed := s.cut (fabricHome (dieOf n) y) (fabricHome (dieOf m) y)
                (p.typ = .rsv0E ∨ p.typ = .rsv0F → t.net = s.net ∧ t.notices = s.notices ++ [p.typ])
                ∧ (p.typ ≠ .rsv0E → p.typ ≠ .rsv0F → t.notices = s.notices ∧ (closed = false → t.net = s.net ++ [p])
                    ∧ ∀ q, closed = true → s.routeRefusal p rcIsolated = some q → t.net = (s.net ++ [p]).erase p ++ [q]))
            ∧ t.mer.arrived = s.mer.arrived ++ (if keep = true ∧ p.typ = .mer then [(p, n, s.tick)] else [])
            ∧ (t.port n).rxseq = o.rxseq + 1 ∧ (t.port n).got = true ∧ (t.port n).ackDue = true ∧ (t.port n).nakDue = o.nakDue
            ∧ (t.port n).replay = left ∧ (t.port n).rx = o.rx
            ∧ Sparse.get 0 (t.port n).rxFlits c = 0
            ∧ Sparse.get 0 (t.port n).owed c = Sparse.get 0 o.owed c + Sparse.get 0 o.rxFlits c + 1
            ∧ (∀ d, (t.port n).credit d = o.credit d + (if d = f.creditCls.toNat then f.credit.toNat else 0))
            ∧ (t.port n).darkdisc.toNat = (if keep then o.darkdisc.toNat else min (o.darkdisc.toNat + 1) 0xFFFF)
            ∧ (∀ m, m ≠ n → t.port m = s.port m)
            ∧ { t with net := s.net, notices := s.notices, fab := s.fab, mer := { t.mer with arrived := s.mer.arrived } } = s)
    ∧ (good → f.nak = true → o.state ≠ .degrading → left ≠ [] → (∀ k ∈ (o.acked f).resends, k < 16) → ∃ (t : State) (fs : List Flit),
        exec (.nakReplay n f) s = .next t ∧ (t.port n).outq = o.outq ++ fs ∧ fs.length = left.length
          ∧ (∀ i g h, left[i]? = some g → fs[i]? = some h → flitCrcOk h = true ∧ h.ack = o.rxseq - 1 ∧ h.ackv = o.got
              ∧ h.nak = (decide (i = 0) && o.nakDue)
              ∧ { h with ack := g.ack, ackv := g.ackv, nak := g.nak, fcrc := g.fcrc } = g)
          ∧ (t.port n).replay = left ∧ (t.port n).nakDue = false
          ∧ (t.port n).resends = (o.acked f).resends.map (· + 1) ∧ (t.port n).rxseq = o.rxseq
          ∧ (t.port n).replays.toNat = min (o.replays.toNat + left.length) 0xFFFF
          ∧ (∀ m, m ≠ n → t.port m = s.port m) ∧ { t with fab := s.fab } = s)
    ∧ (good → f.nak = true → o.state ≠ .degrading → left ≠ [] → (∃ k ∈ (o.acked f).resends, 16 ≤ k) → o.use ≠ .inUse → ∃ t : State,
        exec (.nakReplay n f) s = .next t ∧ (t.port n).state = .lost ∧ (t.port n).replay = [] ∧ t.svr.portout.getLsbD n = true
          ∧ (∀ m, m ≠ n → t.port m = s.port m) ∧ { t with fab := s.fab, svr := { t.svr with portout := s.svr.portout } } = s))
  ∧ ∀ (s : State) (n : Nat), s.rst.inReset = false → n < 12 →
    let o := s.port n
    let retrained (x : Port) : Prop := x.fec = false ∧ x.heard = false ∧ x.partnerAck = false ∧ x.ackSent = false
    let powers (u : State) : Prop := ∀ k < 12,
      (u.port k).powered = ((u.port k).present && u.rst.phase == 8 && decide ((u.port k).watts ≤ 20)
        && decide (((List.range (k + 1)).map fun i => if (u.port i).present then (u.port i).watts else 0).sum ≤ 180))
      ∧ ((u.port k).powered = false →
          (u.port k).cage = if (u.port k).present = true ∧ u.rst.phase = 8 then .unpowered else .empty)
    let lostBy (i : Instr) : Prop :=
      (o.use ≠ .inUse ∨ s.multiPart = none → ∃ t : State, exec i s = .next t ∧ (t.port n).state = .lost ∧ (t.port n).lanes = 0
        ∧ t.svr.portout.getLsbD n = true ∧ (∀ m, m ≠ n → t.port m = s.port m) ∧ t.cores = s.cores ∧ t.parts = s.parts)
      ∧ (∀ part, o.use = .inUse → s.multiPart = some part → ∃ t : State, exec i s = .next t ∧ (t.port n).state = .lost
        ∧ (t.part part).stopped = true ∧ (s.modId, s.fab.abortNo) ∈ t.fab.aborts
        ∧ (∀ c, (s.part part).hasCore c = true → (s.core c).run ≠ .off → (t.core c).run = .stopJob)
        ∧ ∀ m < 12, m ≠ n → (s.port m).use = .inUse → ∃ p : Packet, (t.port m).direct = (s.port m).direct ++ [p]
            ∧ p.typ = .abort ∧ p.smod = s.modId ∧ p.dmod = (s.port m).peer ∧ p.msgid = s.fab.abortNo
            ∧ p.arg.toNat = FCode.linkLost.byte.toNat + 256 * n)
    (o.linked = true → lostBy (.portLost n))
    ∧ (o.linked = false → exec (.portLost n) s = .next s)
    ∧ (o.state = .degrading → lostBy (.degradeTimeout n))
    ∧ (∀ lane, o.linked = true →
        let dead := o.deadLanes ||| BitVec.ofNat 4 (2 ^ lane.toNat)
        (o.lanes.getLsbD lane.toNat = true → o.app400 = false ∨ (dead &&& 3 ≠ 0 ∧ dead &&& 12 ≠ 0) → o.use ≠ .inUse → ∃ t : State,
            exec (.laneFail n lane) s = .next t ∧ (t.port n).state = .lost ∧ (t.port n).lanefail.getLsbD lane.toNat = true)
        ∧ (o.lanes.getLsbD lane.toNat = true → o.app400 = true → dead &&& 3 = 0 ∨ dead &&& 12 = 0 → ∃ t : State,
            exec (.laneFail n lane) s = .next t ∧ (t.port n).state = .degrading ∧ (t.port n).lanes = (if dead &&& 3 = 0 then 3 else 12)
            ∧ (t.port n).appLanes = 2 ∧ retrained (t.port n) ∧ (t.port n).deadLanes = dead
            ∧ (t.port n).lanefail = o.lanefail ||| BitVec.ofNat 4 (2 ^ lane.toNat) ∧ (t.port n).replay = o.replay
            ∧ (∀ m, m ≠ n → t.port m = s.port m) ∧ { t with fab := s.fab, justSet := s.justSet } = s)
        ∧ (o.lanes.getLsbD lane.toNat = false → ∃ t : State, exec (.laneFail n lane) s = .next t ∧ (t.port n).state = o.state
            ∧ (t.port n).lanefail = o.lanefail ||| BitVec.ofNat 4 (2 ^ lane.toNat)))
    ∧ (∀ b, b ≠ o.present → ∃ t : State, exec (.cagePresenceChange n b) s = .next t ∧ (t.port n).present = b
        ∧ (∀ m, m ≠ n → (t.port m).present = (s.port m).present) ∧ powers t
        ∧ ∀ k < 12, ((s.port k).powered = false → (t.port k).powered = true →
              (t.port k).resetL = true ∧ (t.port k).lpMode = false ∧ (t.port k).cage = .empty)
            ∧ ((s.port k).powered = true → (t.port k).powered = false → (t.port k).resetL = false ∧ (t.port k).lpMode = true
                ∧ ((s.port k).linked = true ∨ (t.port k).present = false → (t.port k).state = .lost)))
    ∧ (∀ m : Cmis, o.powered = true → o.linked = false →
        let fits := m.qsfp = true ∧ 0x50 ≤ m.revision ∧ m.paged = true ∧ m.app800 = true
        (∃ t : State, exec (.cageDiscovery n m) s = .next t ∧ powers t)
        ∧ (powers (s.updPort n fun x => { x with watts := m.watts }) → ∃ t : State, exec (.cageDiscovery n m) s = .next t
          ∧ (t.port n).watts = m.watts ∧ (t.port n).app400 = m.app400
          ∧ (fits → (t.port n).cage = .accepted ∧ (t.port n).lanes = 0xF ∧ (t.port n).appLanes = 4 ∧ (t.port n).dataPath = true
              ∧ (o.state ≠ .lost → (t.port n).state = .training))
          ∧ (¬ fits → (t.port n).cage = .refused ∧ (t.port n).state = o.state) ∧ (∀ k, k ≠ n → t.port k = s.port k)))
    ∧ (s.svr.closed.contains (.port n) = false → exec (.fecAlignmentLock n) s = .next (s.updPort n fun x =>
        if o.state = .training ∨ o.state = .degrading then { x with fec := true } else x))
    ∧ (o.streams = true → o.room = true → ∃ (t : State) (f : Flit) (fs : List Flit), exec (.helloSend n) s = .next t
        ∧ (t.port n).outq = o.outq ++ f :: fs ∧ (o.state ≠ .degrading → fs = []) ∧ f.kind = .ctrl ∧ f.seq = o.txseq
        ∧ (let h := helloOf f.payload
           h.pkind = 0 ∧ h.port.toNat = n ∧ h.id = s.modId ∧ h.ver = 1 ∧ h.ackd = o.heard ∧ h.lanes.toNat = o.live)
        ∧ (t.port n).state = (if o.up = false ∧ o.heard = true ∧ o.partnerAck = true then
            (if o.state = .degrading then .up2 else if o.live = 4 then .up4 else .up2) else o.state))
    ∧ (∀ h : Hello, s.svr.closed.contains (.port n) = false → o.greets = true → h.ver = 1 →
        let met := (o.partnerAck = true ∨ h.ackd = true) ∧ o.ackSent = true
        ∃ (t : State) (fs : List Flit), exec (.hello n h) s = .next t ∧ (t.port n).peer = h.id ∧ (t.port n).peerv = h.idv
          ∧ (t.port n).peerport = h.port ∧ (t.port n).pkind = h.pkind ∧ (t.port n).heard = true ∧ (t.port n).hello = some h
          ∧ (t.port n).state = (if met then (if o.state = .degrading then .up2 else if o.live = 4 then .up4 else .up2) else o.state)
          ∧ (t.port n).outq = o.outq ++ fs ∧ fs.length = (if met ∧ o.state = .degrading then o.replay.length else 0)
          ∧ (∀ m, m ≠ n → t.port m = s.port m) ∧ { t with fab := s.fab } = s)
    ∧ (o.state = .training → ∃ t : State, exec (.trainingRetry n) s = .next t ∧ (t.port n).state = .training ∧ retrained (t.port n)
        ∧ (t.port n).txseq = 0 ∧ (t.port n).rxseq = 0 ∧ (t.port n).replay = [] ∧ (t.port n).rx = [] ∧ (t.port n).credits = []
        ∧ (∀ c < 7, Sparse.get 0 (t.port n).owed c = Config.classBuffer c)
        ∧ (s.attached = false → (t.port n).lanes = 0xF ∧ (t.port n).deadLanes = 0 ∧ (t.port n).appLanes = 4)
        ∧ (s.attached = true → (t.port n).lanes = o.lanes ∧ (t.port n).appLanes = o.appLanes) ∧ (∀ m, m ≠ n → t.port m = s.port m))
    ∧ ∀ (s' : State) (p : Packet), s.arrive p = some s' → p.typ = .abort →
        ((p.smod, p.msgid) ∈ s'.fab.aborts → exec (.abort n p) s = .next s')
        ∧ (∀ part, (p.smod, p.msgid) ∉ s'.fab.aborts → s'.multiPart = some part → ∃ t : State, exec (.abort n p) s = .next t
            ∧ (t.part part).stopped = true ∧ (p.smod, p.msgid) ∈ t.fab.aborts ∧ (t.port n).direct = (s'.port n).direct
            ∧ (∀ c, (s'.part part).hasCore c = true → (s'.core c).run ≠ .off → (t.core c).run = .stopJob)
            ∧ ∀ m < 12, m ≠ n → (s'.port m).use = .inUse →
                (t.port m).direct = (s'.port m).direct ++ [{ p with dmod := (s'.port m).peer }])

/-! ### Collectives (spec/09) -/

/-- R127, R363, R364: the lane sum of a set of contributions does not depend on their order; the sums of two parts, added
exactly, are the sum of the whole, so that no tree, group or number of hops shows in it; a partial's code keeps the value of
every lane in the finite range; and at the datum that R364 sets from the largest
bound and the number of contributions no conversion and no sum is beyond the window. -/
def Obligations.CollectiveSumIsOrderFree : Prop :=
  (∀ (w : Nat) (d : Int) (n : Nat) (ts us : List CTile), ts.Perm us → laneSum w d n ts = laneSum w d n us)
  ∧ (∀ (w : Nat) (d : Int) (n : Nat) (ts us : List CTile),
      (laneSum w d n (ts ++ us)).1 = List.zipWith Lane.add (laneSum w d n ts).1 (laneSum w d n us).1)
  ∧ (∀ (w : Nat) (d : Int) (a : Lane), w = 32 ∨ w = 64 → a.beyond w = false →
      (laneOfCode w (roundLong w d (a.val d)).code).val d = a.val d)
  ∧ ∀ (w : Nat) (emax : Int) (n : Nat) (ts : List CTile), w = 32 ∨ w = 64 → 1 ≤ ts.length → ts.length ≤ 2 ^ (w - 2) →
      (∀ t ∈ ts, ∀ neg m e, Machine.Num.fin neg m e ∈ t.vals → m ≠ 0 → flog2 m e ≤ emax) →
        (laneSum w (emax + clog2 ts.length - (w : Int) + 3) n ts).2 = false

/-- R356, R357, R359 to R362, R364 to R371: what the commands of a collective instance do. A contribution, a partial or a result
opens the instance of its step or is held; a bad descriptor or tile raises its fault; late partials are carried or dropped; the
agreed datum goes up and down the tree; at the fence each engine sends its partials, and the root writes the result, sends it down
and arrives. R410: a partial that comes in the deadline's own tick is not late. -/
def Obligations.CollectiveInstances : Prop :=
  ∀ (s : State) (part ctx : Nat), s.engineOn part ctx = true →
    let k := s.coll part ctx
    let upd (u : State) (f : Coll → Coll) : Host.Outcome State Fault Refusal := .next (u.updColl part ctx f)
    -- the opening (R356, R357)
    (∀ step bs, s.openCount ctx < 128 → s.unitRead (s.translate ((s.part part).ctab.toNat + 64 * ctx)) 64 = .bytes bs →
        let d := CDesc.parse bs
        let bad := field bs 0x3C 4 ≠ (crc32c (bs.take 60)).toNat ∨ 3 < d.op ∨ 1 < d.scope ∨ 2 < d.policy ∨ (d.agree = true ∧ d.policy = polFold)
          ∨ (d.policy ≠ polWait ∧ d.deadline = 0) ∨ (d.op = opSum ∧ isLong (BitVec.ofNat 4 d.ofmt) = false)
          ∨ d.tiles = 0 ∨ d.gcount = 0 ∨ 4096 < d.gbase + d.gcount ∨ (d.replay = true ∧ s.feature featReplay = false)
          ∨ (∃ g ∈ d.groups, 8 < (s.grp part g).nchild)
        (bad → s.openColl part ctx step = .fault .descFormat)
        ∧ (¬ bad → s.badRecord part ctx d = none → ∃ v : State, s.openColl part ctx step = .ok v
            ∧ (v.coll part ctx).opn = true ∧ (v.coll part ctx).step = step ∧ (v.coll part ctx).desc = some d
            ∧ (v.coll part ctx).locals = [] ∧ (v.coll part ctx).opened = s.tick ∧ (v.coll part ctx).fenced = false
            ∧ (v.coll part ctx).partials = (if k.fresh then s.storedCarries ctx d step
                else k.carries.filter fun t => decide (t.step.toNat < step.toNat))
            ∧ (v.coll part ctx).carries = k.carries.filter (fun t => decide (step.toNat ≤ t.step.toNat))
            ∧ (v.coll part ctx).agrees = k.agrees.filter (fun a => decide (step.toNat ≤ a.step.toNat)) ∧ { v with fab := s.fab } = s))
    -- a contribution (R359 to R361)
    ∧ (∀ src tile ps, s.partOf src = some part → s.ctxMessage ctx src = some ps → ps.flatMap (·.payload) = tile →
        (∀ p ∈ ps, p.warr = false) →
        let t : CTile := { step := (Cart.parse tile).step, idx := (Cart.parse tile).tcoord.toNat % 65536, src := s.modId, count := 1
                           late := false, bytes := tile }
        let away : State := { s with net := s.net.filter fun p => !ps.contains p }
        (∀ c, k.opn = false → s.openColl part ctx t.step = .fault c →
          exec (.contribution part ctx src tile) s = .next (away.collFault part c))
        ∧ (k.opn = true → k.step.toNat < t.step.toNat →
          exec (.contribution part ctx src tile) s = upd away fun k => { k with held := k.held ++ [⟨t, .contribution src⟩] })
        ∧ ∀ v d, (k.opn = true ∧ k.step = t.step ∧ v = s) ∨ (k.opn = false ∧ s.openColl part ctx t.step = .ok v) →
            (v.coll part ctx).desc = some d →
          (∀ c, (v.coll part ctx).refuses d false t = some c →
            exec (.contribution part ctx src tile) s = .next (away.collFault part c))
          ∧ ∀ u, (v.coll part ctx).refuses d false t = none → t.cart.pencil = false → d.agree = false → (v.coll part ctx).repeated = [] →
              v.slotWrite part (d.slotAt (if d.op = opRing then t.idx else (v.coll part ctx).locals.length)) tile = some u →
              ∃ x : State, exec (.contribution part ctx src tile) s = .next x ∧ x.mem = u.mem ∧ x.net = away.net ∧ x.cores = s.cores
                ∧ (x.coll part ctx).locals = (v.coll part ctx).locals ++ [t] ∧ (x.coll part ctx).step = t.step
                ∧ (x.coll part ctx).opn = (v.coll part ctx).opn)
    -- a partial (R362, R366, R367)
    ∧ (∀ p u tile, s.collArrival part p .cpart = some u → ctxOf p = ctx →
        let t := tileOf p tile
        (u.sameAttempt part p = false → exec (.cpart part p tile) s = .next u)
        ∧ (u.sameAttempt part p = true → k.opn = true → k.step.toNat < (stepOf p).toNat →
            (∀ d, k.desc = some d → k.fenced = true ∨ s.deadlinePast k d = false) →
            exec (.cpart part p tile) s = upd u fun k => { k with held := k.held ++ [⟨t, .partialSum⟩] })
        ∧ ∀ d, u.sameAttempt part p = true → k.opn = true → k.desc = some d → k.step = stepOf p →
          k.fenced = true ∨ d.policy = polWait ∨ d.deadline = 0 ∨ (s.tick - k.opened).toNat ≤ d.deadline →
          let mine := (s.grp part (d.groupOf t.idx)).kids.contains p.smod
          (k.fenced = false → d.tiles ≤ t.idx → exec (.cpart part p tile) s = .next (u.collFault part .descFormat))
          ∧ (k.fenced = false → t.idx < d.tiles → mine = false → exec (.cpart part p tile) s = .next u)
          ∧ (k.fenced = false → t.idx < d.tiles → mine = true → k.listed = [] →
              (∀ x ∈ k.partials, x.idx = t.idx → x.src = t.src → x.late = true) →
              (d.op = opSum → (d.groupOf t.idx, t.cart.datum) ∉ k.floors) →
              (t.count ≠ 0 → k.refuses d true t = none ∧ t.cart.pencil = false) →
              exec (.cpart part p tile) s = upd u fun k => { k with partials := k.partials ++ [t] })
          ∧ (k.fenced = true → d.tiles ≤ t.idx → exec (.cpart part p tile) s = .next (u.collFault part .descFormat))
          ∧ (k.fenced = true → t.idx < d.tiles → mine = false → exec (.cpart part p tile) s = .next u)
          ∧ (k.fenced = true → t.idx < d.tiles → mine = true → d.replay = false → t.cart.pencil = false →
              useCheck (tile.take 64) (d.needs true) (fun n => crc32c ((tile.drop 64).take n)) = none →
              (d.policy = polDrop → exec (.cpart part p tile) s = .next (u.lateDropped part t))
              ∧ (d.policy = polFold → 64 ≤ k.carries.length →
                  exec (.cpart part p tile) s = .next (u.lateDropped part { t with late := true }))
              ∧ ∀ v w, d.policy = polFold → k.carries.length < 64 → u.carryOk part d = true → u.logCarry ctx d { t with late := true } = some v →
                  v.slotWrite part (d.carryAt k.carries.length) tile = some w →
                  exec (.cpart part p tile) s = upd w fun k => { k with carries := k.carries ++ [{ t with late := true }] }))
    -- the carry log (R368)
    ∧ (∀ (d : CDesc) (t : CTile), d.carry ≠ 0 → d.replay = false → d.carrylen < 2 ^ 32 →
        let a := s.translate d.carry
        let n := field (s.tableBytes d.carry 4) 0 4
        (d.carrylen ≤ n → s.logCarry ctx d t = none)
        ∧ (n < d.carrylen → s.memIsolated a 4 = false → s.memIsolated (a + 64 + 32 * n) 32 = false → spaceOf a = .memory → spaceOf (a + 64 + 32 * n) = .memory → s.poisonIn a 4 = none →
            s.poisonIn (a + 64 + 32 * n) 32 = none → ∃ u : State, s.logCarry ctx d t = some u
              ∧ u.mem.bytes.readBytes (a + 64 + 32 * n) 32 = leBytes 4 t.step.toNat ++ leBytes 2 t.idx ++ leBytes 2 t.src.toNat
                  ++ leBytes 2 t.cart.datum.toNat ++ leBytes 2 ctx ++ leBytes 4 t.cart.pcrc.toNat ++ leBytes 8 s.tick.toNat
                  ++ leBytes 4 t.count ++ [0, 0, 0, 0]
              ∧ u.mem.bytes.readLE a 4 = n + 1
              ∧ ∀ x, (x < a ∨ a + 4 ≤ x) → (x < a + 64 + 32 * n ∨ a + 96 + 32 * n ≤ x) → u.mem.bytes.read x = s.mem.bytes.read x))
    -- agreement and repeat (R364, R365)
    ∧ (∀ p u d g, s.collArrival part p .cagr = some u → ctxOf p = ctx → u.sameAttempt part p = true → k.opn = true → k.desc = some d →
        d.agree = true → d.op ≠ opRing → d.groups = [g] → collCount p = g → k.agreedSent = [] → d.lcnt ≤ k.locals.length →
        k.floors = [] → k.agrees = [] → k.step = stepOf p →
        let e := s.grp part g
        let emax := largerBound ((k.locals.map fun t => t.cart.exphi).foldl largerBound 0x8000) (BitVec.ofNat 16 (idxOf p))
        let n := k.locals.foldl (fun n t => n + t.count) 0 + p.arg.toNat
        let dr := agreedDatum d.laneBits emax n none
        e.kids = [p.smod] → ∃ t : State, exec (.cagr part p) s = .next t ∧ t.cores = s.cores ∧ t.mem = s.mem
          ∧ (e.root = true → (t.coll part ctx).datumOf d g = some dr ∧ t.net = u.net ++ [u.collPacket part ctx .cagd p.smod k.step 0 g dr])
          ∧ (e.root = false → t.net = u.net ++
              [{ u.collPacket part ctx .cagr e.parent k.step emax.toNat g 0 with arg := BitVec.ofNat 32 n }]))
    ∧ (∀ p u, s.collArrival part p .cagd = some u → ctxOf p = ctx → u.sameAttempt part p = true → k.opn = true → k.step = stepOf p →
        (s.grp part (collCount p)).parent = p.smod → ∃ t : State, exec (.cagd part p) s = .next t
          ∧ (t.coll part ctx).datums = k.datums.filter (fun e => e.1 != collCount p) ++ [(collCount p, datumOfPacket p)]
          ∧ t.net = u.net ++ (s.grp part (collCount p)).kids.map fun m =>
              u.collPacket part ctx .cagd m k.step 0 (collCount p) (datumOfPacket p))
    ∧ (∀ p u d, s.collArrival part p .crep = some u → ctxOf p = ctx → u.sameAttempt part p = true → k.opn = true → k.desc = some d →
        k.step = stepOf p →
        let g := collCount p
        let e := s.grp part g
        let old := datumOfPacket p
        let again (t : State) : Prop :=
          t.net = u.net ++ e.kids.map (fun m => u.collPacket part ctx .crep m k.step 0 g old)
          ∧ (t.coll part ctx).repeated = k.repeated ++ [g] ∧ (t.coll part ctx).opened = s.tick
          ∧ (t.coll part ctx).datumOf d g = none ∧ (t.coll part ctx).locals = k.locals ∧ (t.coll part ctx).fenced = false
          ∧ (∀ x ∈ (t.coll part ctx).partials, x.late = true ∨ d.groupOf x.idx ≠ g)
          ∧ ∀ i ∈ (t.coll part ctx).formed, d.groupOf i ≠ g
        (e.root = false → p.smod = e.parent → e.kids ≠ [] → d.op ≠ opRing → d.groups = [g] →
          ∃ t : State, exec (.crep part p) s = .next t ∧ again t)
        ∧ (e.kids.contains p.smod = true → e.root = true ∨ p.smod ≠ e.parent → k.datumOf d g = some old →
          (k.repeated.contains g = true → exec (.crep part p) s = .next (u.collFault part .datumOverflow))
          ∧ (k.repeated.contains g = false → e.root = false →
              exec (.crep part p) s = .next (u.send (u.collPacket part ctx .crep e.parent k.step 0 g old)))
          ∧ (k.repeated.contains g = false → e.root = true → d.op ≠ opRing → d.groups = [g] →
              ∃ t : State, exec (.crep part p) s = .next t ∧ again t)))
    -- a result for a step whose instance is not open opens it (R361, R362, R366)
    ∧ (∀ p u v d tile, s.collArrival part p .cres = some u → ctxOf p = ctx → u.sameAttempt part p = true → k.opn = false →
        k.delivered = false → (∀ w, k.lastStep = some w → w.toNat < (stepOf p).toNat) → u.openColl part ctx (stepOf p) = .ok v →
        (v.coll part ctx).desc = some d → d.scope = 0 → d.op ≠ opGather → s.overlayOn part = false →
        let i := idxOf p
        let e := s.grp part (d.groupOf i)
        ∀ w, i < d.tiles → e.root = false → e.parent = p.smod → v.slotWrite part (d.outAt i) tile = some w →
          ∃ t : State, exec (.cres part p tile) s = .next t ∧ t.mem = w.mem ∧ t.cores = s.cores ∧ (t.coll part ctx).opn = true
            ∧ (t.coll part ctx).step = stepOf p ∧ (t.coll part ctx).written = [i] ∧ (t.coll part ctx).fenced = false
            ∧ ∀ m ∈ e.kids, ∃ q ∈ t.net, q.typ = .cres ∧ q.dmod = m ∧ idxOf q = i ∧ stepOf q = stepOf p ∧ ctxOf q = ctx)
    -- the deadline and the fence (R366)
    ∧ ∀ d, k.desc = some d → k.opn = true →
        (d.policy ≠ polWait → d.deadline ≠ 0 → exec (.collectiveDeadline part ctx) s =
          if (s.tick - k.opened).toNat ≤ d.deadline then .next s else upd s fun k => { k with expired := true })
        ∧ (k.locals.length < d.lcnt ∨ ((k.expired = false ∨ d.policy = polWait ∨ d.replay = true) ∧ k.listed = [] ∧ ∃ i < d.tiles,
              ∃ m ∈ (s.grp part (d.groupOf i)).kids, ∀ t ∈ k.partials, t.idx = i → t.src = m → t.late = true) →
            exec (.collectiveFence part ctx) s = .next s)
        -- the partials leave (R362)
        ∧ (let dr (i : Nat) : W16 := (k.datumOf d (d.groupOf i)).getD 0
           let form (i : Nat) : List Byte × Nat × Bool := s.formTile part ctx d false i (sInt (dr i))
           s.fenceDue part ctx = true → k.formed = [] → k.failed = false → k.written = [] → d.scope = 0 → 0 < d.tiles → 0 < d.gcount →
           (∀ i < d.tiles, (s.grp part (d.groupOf i)).root = false ∧ s.sumFault part ctx d i = none ∧ (form i).2.2 = false) →
             ∃ t : State, exec (.collectiveFence part ctx) s = .next t
               ∧ t.net = s.net ++ (List.range d.tiles).flatMap (fun i => (State.sendTileTo { s with net := [] } part ctx .cpart
                   (s.grp part (d.groupOf i)).parent k.step i (form i).2.1 (dr i) (form i).1).net)
               ∧ t.coll part ctx = { k with formed := List.range d.tiles, fenced := true } ∧ { t with net := s.net, fab := s.fab } = s)
        -- the root delivers (R362, R370), and so does a module that gets its result
        ∧ (let e := s.grp part (d.groupOf 0)
           let dr : W16 := (k.datumOf d (d.groupOf 0)).getD 0
           let form := s.formTile part ctx d true 0 (sInt dr)
           ∀ u, s.fenceDue part ctx = true → k.formed = [] → k.failed = false → k.written = [] → d.tiles = 1 → 0 < d.gcount → e.root = true →
             d.op ≠ opGather → k.recording = none → k.held = [] → s.overlayOn part = false → s.wpOk part d.wpout.toNat = true →
             s.sumFault part ctx d 0 = none → form.2.2 = false →
             s.slotWrite part (d.outAt 0) form.1 = some u →
             ∃ (t : State) (ink : List Packet), exec (.collectiveFence part ctx) s = .next t ∧ t.mem = u.mem ∧ t.cores = s.cores
               ∧ t.net = s.net ++ (if d.scope = 0 then e.kids.flatMap (fun m =>
                   (State.sendTileTo { s with net := [] } part ctx .cres m k.step 0 form.2.1 dr form.1).net) else [])
                   ++ [s.arrivalPacket 0xFFFF d.wpout false 0 none] ++ ink
               ∧ (∀ q ∈ ink, q.typ = .ink) ∧ (t.coll part ctx).opn = false ∧ (t.coll part ctx).lastStep = some k.step
               ∧ (t.coll part ctx).epoch = k.epoch + 1
               ∧ (d.scope ≠ 1 → (t.coll part ctx).locals = [] ∧ (t.coll part ctx).partials = [])
               ∧ (d.scope = 1 → (t.coll part ctx).delivered = true ∧ (t.coll part ctx).locals = k.locals))
        -- a contribution whose slot no longer passes its check raises its fault and nothing leaves (R360)
        ∧ (∀ e, s.fenceDue part ctx = true → k.formed = [] → k.failed = false → d.tiles = 1 → s.sumFault part ctx d 0 = some e →
             (d.op = opSum → (k.datumOf d (d.groupOf 0)).isSome = true) →
             exec (.collectiveFence part ctx) s =
               upd ((s.updColl part ctx fun k => { k with failed := true }).collFault part e) fun k => { k with fenced := false })
        ∧ ∀ p u v tile, s.collArrival part p .cres = some u → ctxOf p = ctx → u.sameAttempt part p = true → k.step = stepOf p →
            d.scope = 0 → d.op ≠ opGather → k.recording = none → k.failed = false → k.held = [] → s.overlayOn part = false → s.wpOk part d.wpout.toNat = true →
            let i := idxOf p
            let e := s.grp part (d.groupOf i)
            e.root = false → e.parent = p.smod → i < d.tiles → i ∉ k.written → (∀ x ∈ k.unwritten, x.1 ≠ i) → u.slotWrite part (d.outAt i) tile = some v →
              ∃ t : State, exec (.cres part p tile) s = .next t ∧ t.mem = v.mem ∧ t.cores = s.cores
                ∧ (∀ m ∈ e.kids, ∃ q ∈ t.net, q.typ = .cres ∧ q.dmod = m ∧ idxOf q = i ∧ stepOf q = k.step ∧ ctxOf q = ctx)
                ∧ (if k.fenced = true ∧ ∀ j < d.tiles, j ∈ k.written ∨ j = i then
                    (t.coll part ctx).opn = false ∧ (t.coll part ctx).epoch = k.epoch + 1
                    ∧ (∃ q ∈ t.net, q.typ = .warr ∧ q.wpid = d.wpout)
                   else (t.coll part ctx).written = k.written ++ [i] ∧ (t.coll part ctx).opn = true
                    ∧ (t.coll part ctx).epoch = k.epoch)

/-- R373, R374: the ring pass. With a credit the own block leaves as T tiles of round 1; a block that lands stands in its
buffer, the engine arrives at WPOUT and arms WPFREE with LCNT, and forwards it but in the last round, which ends the instance;
a completed WPFREE ends the arming that has stood longest; a buffer whose own arming is complete and whose block has left is free,
and RCRED goes to the previous module; RCRED adds a credit. -/
def Obligations.RingPass : Prop :=
  ∀ (s : State) (part ctx : Nat) (d : CDesc), s.engineOn part ctx = true →
    let k := s.coll part ctx
    let e := s.grp part d.gbase
    let leaves (u : State) (r : Nat) (at_ : Nat → Nat) : List Packet := (List.range d.tiles).flatMap fun i =>
      (State.sendTileTo { u with net := [] } part ctx .cpart e.parent k.step i (r + 1) 0 (u.slotRead (at_ i))).net
    let outBlock (r i : Nat) : Nat := d.outAt ((r - 1) % 2 * d.tiles + i)
    k.desc = some d → d.op = opRing →
      (k.opn = true → d.tiles ≤ k.locals.length →
        (k.ownSent = false → k.fwd = [] → 0 < k.credits → k.round = 0 → 2 ≤ e.members →
          ∃ t : State, exec (.ringRound part ctx []) s = .next t ∧ t.net = s.net ++ leaves s 0 d.slotAt
            ∧ t.coll part ctx = { k with ownSent := true, credits := k.credits - 1 } ∧ { t with net := s.net, fab := s.fab } = s)
        ∧ ∀ block u,
            let r := k.round + 1
            let v := s.ringTake ctx (e.kids.headD 0) k.step r
            block ≠ [] → block.length = d.tiles → d.tiles < 65536 → r < e.members → k.ownSent = true → k.fwd = [] → 0 < k.credits →
            k.held = [] → (if (r - 1) % 2 = 0 then k.bufFree0 else k.bufFree1) = true → s.wpOk part d.wpout.toNat = true →
            v.ringLand part d ((r - 1) % 2) block = some u →
              ∃ t : State, exec (.ringRound part ctx block) s = .next t ∧ t.mem = u.mem ∧ t.cores = s.cores
                ∧ (∃ q ∈ t.net, q.typ = .warr ∧ q.wpid = d.wpout)
                ∧ (∃ q ∈ t.net, q.typ = .warm ∧ q.wpid = d.wpfree ∧ q.arg = BitVec.ofNat 32 d.lcnt)
                ∧ (if (r - 1) % 2 = 0 then (t.coll part ctx).bufFree0 else (t.coll part ctx).bufFree1) = false
                ∧ (if r + 2 ≤ e.members then
                    (t.coll part ctx).opn = true ∧ (t.coll part ctx).round = r ∧ (t.coll part ctx).credits = k.credits - 1
                    ∧ ∀ i < d.tiles, ∃ q ∈ t.net, q.typ = .cpart ∧ q.dmod = e.parent ∧ idxOf q = i ∧ collCount q = r + 1
                   else (t.coll part ctx).opn = false ∧ (t.coll part ctx).epoch = k.epoch + 1))
      -- the arming of WPFREE that has stood longest completes
      ∧ (∀ buf rest, s.fab.colls.wf {} = true → k.arms = buf :: rest → s.sheetPart (wpHome d.wpfree.toNat) = some part →
          (s.wp d.wpfree.toNat).completes = true →
            let x := (s.completion d.wpfree.toNat).coll part ctx
            x.arms = rest ∧ x.released = k.released ++ [buf])
      ∧ (∀ buf, buf < 2 → (if buf = 0 then k.bufFree0 else k.bufFree1) = false → buf ∈ k.released →
          (∀ r ∈ k.fwd, (r - 1) % 2 ≠ buf) → ∃ (t : State) (q : Packet), exec (.ringBufferFree part ctx buf) s = .next t
            ∧ t.net = s.net ++ [q] ∧ q.typ = .rcred ∧ q.dmod = e.kids.headD 0 ∧ ctxOf q = ctx
            ∧ t.coll part ctx = { k with bufFree0 := k.bufFree0 || buf == 0, bufFree1 := k.bufFree1 || buf == 1
                                         released := k.released.erase buf }
            ∧ { t with net := s.net, fab := s.fab } = s)
      ∧ ∀ p u, s.collArrival part p .rcred = some u → ctxOf p = ctx → u.sameAttempt part p = true →
          (k.opn = false → exec (.rcred part p) s = .next (u.updColl part ctx fun k => { k with credits := k.credits + 1 }))
          ∧ ∀ r, k.opn = true → d.tiles ≤ k.locals.length → k.ownSent = true → k.fwd = [r] → k.credits = 0 → k.round + 1 < e.members →
              ∃ t : State, exec (.rcred part p) s = .next t ∧ t.net = u.net ++ leaves u r (outBlock r) ∧ (t.coll part ctx).fwd = []
                ∧ (t.coll part ctx).credits = 0 ∧ { t with net := u.net, fab := u.fab } = u

/-! ### Meridian time, launches and overlay (spec/11) -/

/-- R398 to R406, R409, R415, Tables 11-1 to 11-4: the time exchange and the lock. The offset of an update is (b − a) / 2 with
every stamp in sixths of a tick; the lock moves by R405 and R406; only an ACQUIRING module without a job whose offset is above
1 µs sets its count; a lost meridian stops every job.
R411 to R413, R424 to R427, R131: a launch write at least 50,000 ticks ahead arms the launch, any other leaves its mark, 0
cancels 10,000 ticks before; at its tick every core of the partition starts with cleared registers, its store as it was, at
the launch's entry. Digests that agree release the records of their block; otherwise the records are exchanged and the first
difference is reported with OVERLAY_DIVERGED. -/
def Obligations.MeridianLaunchAndOverlay : Prop :=
  (∀ s : State, s.rst.inReset = false →
    let m := s.mer
    -- `u` with an update of offset x / 12 ticks
    let updated (u t : State) (x : Int) : Prop :=
      let lk := if m.lock = .free then Lock.acquiring else m.lock
      let good := if x.natAbs ≤ 24 then m.good + 1 else 0
      t.mer.good = good
      ∧ t.mer.lock = (if lk = .acquiring then (if 16 ≤ good then .locked else .acquiring)
          else if lk = .holdover then (if x.natAbs ≤ 24 then .locked else .holdover) else lk)
      ∧ (let steps := lk = .acquiring ∧ 12000 < x.natAbs ∧ s.attached = false
         t.mer.count = (if steps then BitVec.ofInt 64 ((12 * (m.count.toNat : Int) - x) / 12) else m.count)
         ∧ t.mer.theta = (if steps then 0 else x) ∧ t.mer.stepped = (m.stepped || decide steps))
      ∧ (x.natAbs < 2 ^ 24 → (t.mer.offsetPs.toInt * 12 - x * 1000).natAbs ≤ 6)
      ∧ t.mer.role = m.role ∧ { t with mer := u.mer, justSet := u.justSet } = u
    let now (sixths : Nat) : Int := 6 * (m.count.toNat : Int) + (sixths % 6 : Nat)
    -- TREQ leaves by UPPORT; a stamp is taken in the tick in which the header crosses the port (R399)
    (∀ n, m.role = roleLink → (s.port m.upport.toNat).up = true → ∃ q : Packet,
        exec (.treqSend n) s = .next (s.postOn m.upport.toNat q) ∧ q.typ = .mer ∧ q.arg = 1 ∧ q.smod = s.modId
        ∧ ((s.port m.upport.toNat).pkind = 0 → q.dmod = (s.port m.upport.toNat).peer) ∧ extField q 0x2C 1 = n % 6
        ∧ extField q 0x3C 2 = 0
        ∧ ∀ u : State, u.modId = s.modId → u.stamped q =
            ({ q with time := u.tick }, u.updMer fun m => { m with treqSent := some (6 * (u.tick.toNat : Int) + (n % 6 : Nat)) }))
    ∧ (m.role ≠ roleLink ∨ (s.port m.upport.toNat).up = false → ∀ n, exec (.treqSend n) s = .next s)
    ∧ (∀ p port, ((∀ e ∈ m.arrived, e.1 ≠ p) → s.crossed p port = (port, s.tick))
        ∧ ∀ k w rest, m.arrived = (p, k, w) :: rest → s.crossed p port = (k, w))
    ∧ (∀ p port n2 n3 s', s.arrive p = some s' → p.typ = .mer → p.arg.toNat % 256 = 1 →
        let x := s.crossed p port
        ∃ q : Packet, exec (.treq p port n2 n3) s = .next ((s'.merTaken p).postOn x.1 q) ∧ q.typ = .mer ∧ q.arg = 2
        ∧ q.dmod = p.smod ∧ q.smod = s.modId ∧ extField q 0x2C 1 = n3 % 6 ∧ extField q 0x30 8 = x.2.toNat ∧ extField q 0x38 1 = n2 % 6
        ∧ extField q 0x3C 2 = extField p 0x3C 2 ∧ extField q 0x3E 2 = 0
        ∧ ∀ u : State, u.modId = s.modId → u.stamped q = ({ q with time := u.tick }, u))
    ∧ (∀ p port n s' t1, s.arrive p = some s' → p.typ = .mer → p.arg.toNat % 256 = 2 → m.treqSent = some t1 →
        let x := s.crossed p port
        (m.role ≠ roleLink ∨ x.1 ≠ m.upport.toNat → exec (.trsp p port n) s = .next (s'.merTaken p))
        ∧ (m.role = roleLink → x.1 = m.upport.toNat →
            let a : Int := 6 * (extField p 0x30 8 : Int) + extField p 0x38 1 - t1 - extField p 0x3C 2
            let b : Int := 6 * (x.2.toNat : Int) + (n % 6 : Nat) - (6 * (p.time.toNat : Int) + extField p 0x2C 1) - extField p 0x3E 2
            ∃ t : State, exec (.trsp p port n) s = .next t ∧ updated s' t (b - a) ∧ t.mer.treqSent = none
              ∧ (0 ≤ a + b → t.mer.delay.toNat = min ((a + b) / 12).toNat 65535)))
    ∧ (∀ n, ∃ t : State, exec (.merSyncEdge n) s = .next t ∧ t.mer = { m with latches := (now n :: m.latches).take 4, edgeAt := some s.now }
        ∧ { t with net := s.net, fab := s.fab, mer := m } = s
        ∧ (m.role = roleEdge → t.net = s.net ∧ t.fab = s.fab)
        ∧ (m.role ≠ roleEdge → ∀ k < 12, (s.port k).peerv = true → (s.port k).pkind = 0 → (s.port k).peer.toNat / 8 = s.modId.toNat / 8 →
            (s.port k).peer ≠ s.modId → ∃ q : Packet, q.typ = .mer ∧ q.arg = 3 ∧ q.dmod = (s.port k).peer ∧ q.time = m.count
              ∧ extField q 0x2C 1 = n % 6 ∧ (s.routePort (s.port k).peer ≠ none → q ∈ t.net)
              ∧ ∀ j, s.routePort (s.port k).peer = none → s.directPort (s.port k).peer = some j → q ∈ (t.port j).direct))
    ∧ (∀ p s', s.arrive p = some s' → p.typ = .mer → p.arg.toNat % 256 = 3 → m.role = roleEdge → p.smod = s.boardPeer m.bref.toNat →
        let t3 : Int := 6 * (p.time.toNat : Int) + extField p 0x2C 1
        let near (l : Int) : Bool := decide ((l - t3).natAbs ≤ 150000)
        (m.latches.find? near = none → exec (.edge p) s = .next (s'.merTaken p))
        ∧ ∀ l, m.latches.find? near = some l → ∃ t : State, exec (.edge p) s = .next t ∧ updated s' t (2 * (l - t3)))
    ∧ (m.role = roleLink ∨ m.role = roleEdge →
        (m.lock = .locked ∨ m.lock = .acquiring → exec .holdoverEntry s = .next (s.updMer fun m => { m with lock := .holdover, good := 0 }))
        ∧ ∀ ms, (m.lock = .holdover ∧ 100 ≤ ms) ∨ 600 < m.theta.natAbs → ∃ t : State, exec (.meridianLoss ms) s = .next t
            ∧ ∀ p < 16, (s.part p).job.isSome = true → (s.part p).stopped = false → (t.part p).stopped = true
                ∧ ∀ c, (s.part p).hasCore c = true → (s.core c).run ≠ .off → (t.core c).run = .stopJob)
    ∧ ∀ v : W64,
        (s.attached = true → exec (.merCfgWrite v) s = .next s ∧ exec (.merSet v) s = .next s)
        ∧ (s.attached = false → ∃ t : State, exec (.merCfgWrite v) s = .next t ∧ t.mer.bref.toNat = v.toNat / 2 ^ 13 % 8
            ∧ t.mer.upport.toNat = v.toNat / 256 % 16 ∧ t.mer.role.toNat = v.toNat % 4 ∧ t.mer.count = m.count
            ∧ (v.toNat % 4 < 2 → t.mer.lock = .locked) ∧ (2 ≤ v.toNat % 4 → t.mer.lock = .free ∧ t.mer.latches = [] ∧ t.mer.good = 0)
            ∧ { t with mer := m } = s)
        ∧ (s.attached = false → m.role.toNat < 2 → exec (.merSet v) s = .next (s.updMer fun m => { m with count := v }))
        ∧ (2 ≤ m.role.toNat → exec (.merSet v) s = .next s))
  ∧ (∀ (s : State) (part : Nat) (v : W64), s.rst.inReset = false → part < 16 →
    let x := s.part part
    let upd (f : Part → Part) : Host.Outcome State Fault Refusal := .next (s.updPart part f)
    let cancels := x.lstate = .pending ∧ s.tick.toNat + 10000 ≤ x.launch.toNat
    let writes (v : W64) : Host.Outcome State Fault Refusal :=
      if s.tick.toNat + 50000 ≤ v.toNat ∧ x.lstate ≠ .pending then upd fun x => { x with launch := v, lstate := .pending, entry := 0 }
      else if x.lstate = .pending then .next ((s.updPart part fun x => { x with wref := true }).hwSet (0x11008 + 0x20 * part) 4) else upd fun x => { x with lstate := .refused }
    let zero := if cancels then upd fun x => { x with launch := 0, lstate := .none } else writes 0
    exec (.merPartLaunchWrite part v) s = (if v = 0 then zero else writes v) ∧ exec (.launchCancel part) s = zero)
  ∧ (∀ (s : State) (part : Nat), s.rst.inReset = false →
    let x := s.part part
    (x.lstate ≠ .pending ∨ s.tick.toNat < x.launch.toNat → exec (.launch part) s = .next s)
    ∧ (x.lstate = .pending → x.launch.toNat ≤ s.tick.toNat → ∃ t : State, exec (.launch part) s = .next t
        ∧ (t.part part).lstate = .launched ∧ (t.part part).launch = x.launch ∧ t.mem = s.mem
        ∧ ∀ c < 65536, if x.hasCore c = true ∧ s.svr.closed.contains (.core c) = false then
            let k := t.core c
            k.run = .running ∧ k.pc.toNat = x.entry.toNat % 2 ^ 18 / 4 * 4 ∧ (∀ r, k.gr r = 0) ∧ k.v = [] ∧ k.t = []
            ∧ k.banks = [] ∧ k.ctl = {} ∧ k.store = (s.core c).store ∧ k.epoch = 0 ∧ k.cfault = {} ∧ k.icount = 0 ∧ k.pends = []
          else t.core c = s.core c))
  ∧ ∀ (s s' : State) (part : Nat) (p : Packet), s.arrive p = some s' → s.overlayOn part = true → p.smod = s.ovlPeer part →
    let k := p.dst.toNat
    let o := s'.ovl part k
    let d := ovlDigOf p
    let own (r : OvlRec) : Bool := r.step == d.step && r.ordinal / 64 == d.block
    -- a context's results that waited for the block are then written (R427)
    let goesOn (v : State) : State := if k < 0xFF00 then v else v.drainResults part (k % 256)
    (p.typ = .ovd → o.peer = [] →
      ((∀ a ∈ o.mine, a.step ≠ d.step ∨ a.block ≠ d.block) →
          exec (.ovd part p) s = .next (goesOn (s'.updOvl part k fun o => { o with peer := [d] })))
      ∧ (o.mine = [d] → exec (.ovd part p) s = .next (goesOn (s'.updOvl part k fun o =>
          { o with peer := [d], recs := o.recs.filter fun r => !own r })))
      ∧ ∀ a, k < 0xFF00 → o.mine = [a] → a ≠ d → a.step = d.step → a.block = d.block → (o.recs.filter own).length ≤ 64 →
          ∃ (t : State) (ps : List Packet), exec (.ovd part p) s = .next t ∧ t.net = s'.net ++ ps ∧ (∀ q ∈ ps, q.typ = .ovr ∧ q.dst = p.dst)
            ∧ ps.flatMap (·.payload) = (o.recs.filter own).flatMap OvlRec.bytes ∧ (t.ovl part k).recs = o.recs)
    ∧ (p.typ = .ovr →
      ((∀ a ∈ o.mine, a.step ≠ d.step ∨ a.block ≠ d.block) → exec (.ovr part p) s = .next s')
      ∧ ∀ (n : Nat) (r : Option OvlRec) (a : OvlDig), o.mine = [a] → a.step = d.step → a.block = d.block →
          let first := 64 * d.block + p.off.toNat / 16
          let rec_ (i : Nat) : Option OvlRec := (o.recs.filter own).find? fun x => x.ordinal == first + i
          16 * n < p.payload.length → p.payload.length % 16 = 0 →
          (∀ i < n, ∃ x, rec_ i = some x ∧ x.key = (p.payload.drop (16 * i)).take 8) → rec_ n = r →
          (∀ x, r = some x → x.key ≠ (p.payload.drop (16 * n)).take 8) →
            exec (.ovr part p) s = .next ((((s'.updOvl part k fun o => { o with mine := [] }).eventAt
              { code := .overlayDiverged, cls := .job, part := some part, core := some k, step := d.step
                tick := (match r with | some x => x.tick | none => s.tick)
                detail := (match r with | some x => x.tensor.setWidth 64 | none => 0xFFFFFFFF) }).finishStep part
              (.fault .overlayDiverged) true)))

/-! ### Host queues, jobs, events and the host's accesses (spec/12) -/

/-- R435, R436 to R440, R446: the journal. A record finds its place at the tail with the pass's PHASE and the tick, no other host
byte changes, and its MSI-X message follows; a full journal makes it wait. The front command's end is its COMPLETE record; a
job-class or module-class fault stops the queue, and every later accepted command completes CANCELLED, in order. JHEAD only
moves the consumed index forward, never past JTAIL; a waiting STEP proceeds once the record of the one that ended is written. -/
def Obligations.JournalRecords : Prop :=
  ∀ (s : State) (q : Nat),
    let u := s.queue q
    let phase : Byte := if u.jwrap then 0 else 128
    let size := 2 ^ (u.logsz.toNat + 7)
    u.logsz.toNat ≤ 10 →
    (∀ rec : List Byte, rec.length = 32 →
      (u.jcount = size → s.record q rec = s.updQueue q fun u => { u with records := u.records ++ [rec] })
      ∧ (u.jcount < size → u.records = [] → s.host.linkUp = true → u.jtail.toNat < size →
          let t := s.record q rec
          let a := u.jbase.toNat + 32 * u.jtail.toNat
          t.host.mem.readBytes a 32 = (rec.headD 0 ||| phase) :: ((rec.drop 1).take 5 ++ [0, 0] ++ (rec.drop 8).take 8
            ++ leBytes 8 s.tick.toNat ++ rec.drop 24)
          ∧ (∀ x, x < a ∨ a + 32 ≤ x → t.host.mem.read x = s.host.mem.read x)
          ∧ (t.queue q).jtail.toNat = (u.jtail.toNat + 1) % size
          ∧ (t.queue q).jwrap = (u.jwrap != decide (u.jtail.toNat + 1 = size)) ∧ (t.queue q).jcount = u.jcount + 1
          ∧ (t.queue q).records = [] ∧ (t.queue q).accepted = u.accepted ∧ (t.queue q).state = u.state
          ∧ t.host.msix = s.host.msix ++ (if rec.getD 6 0 = 1 then [(u.func.toNat, u.vector.toNat)] else [])
          ∧ (∀ p, p ≠ q → t.queue p = s.queue p) ∧ { t with host := s.host } = s))
    ∧ (∀ (c : Cmd) (rest : List Cmd) (st : Status) (n : Nat) (d : W64) (stop : Bool), u.accepted = c :: rest →
        u.records = [] → s.host.linkUp = true → u.state = .running → u.jcount + rest.length < size → u.jtail.toNat + rest.length < size →
        let t := s.finishFront q st n d stop
        let at_ (i : Nat) : Nat := u.jbase.toNat + 32 * (u.jtail.toNat + i)
        let stopped : Prop := stop = true ∧ ∃ code, st = .fault code ∧ (code.cls = .job ∨ code.cls = .module)
        (stopped ∨ (∀ e es, rest = e :: es → e.early = none)) →
          t.host.mem.readBytes (at_ 0) 16 = [2 ||| phase, st.byte, st.code, BitVec.ofNat 8 (min n 255)] ++ leBytes 2 q ++ [0, 0]
            ++ leBytes 8 c.seq.toNat
          ∧ t.host.mem.readBytes (at_ 0 + 24) 8 = leBytes 8 d.toNat
          ∧ (¬ stopped → (t.queue q).accepted = rest ∧ (t.queue q).state = .running ∧ (t.queue q).jcount = u.jcount + 1)
          ∧ (stopped → (t.queue q).accepted = [] ∧ (t.queue q).state = .stopped ∧ (t.queue q).jcount = u.jcount + 1 + rest.length
              ∧ ∀ i e, rest[i]? = some e → t.host.mem.readBytes (at_ (i + 1)) 16 = [2 ||| phase, 3, 0, 0] ++ leBytes 2 q ++ [0, 0]
                  ++ leBytes 8 e.seq.toNat))
    ∧ ∀ v : W64, s.rst.inReset = false → q < 256 →
        let n := v.toNat % 2 ^ 17 % size
        let c := (n + size - u.jhead.toNat % size) % size
        (u.jcount < c → exec (.hqQJheadWrite q v) s = .next s)
        ∧ (c ≤ u.jcount → u.records = [] → exec (.hqQJheadWrite q v) s = .next ((List.range 16).foldl State.stepsGo
            (s.updQueue q fun u => { u with jhead := BitVec.ofNat 17 n, jcount := u.jcount - c })))
        ∧ (c ≤ u.jcount → u.jcount - c < size → (∀ p < 16, (s.part p).ended = none) → ∀ r rs, u.records = r :: rs → ∃ t : State,
            exec (.hqQJheadWrite q v) s = .next t ∧ (t.queue q).records.length ≤ rs.length)

/-- R436 to R438, R444 to R446, Table 12-12: doorbells, acceptance, and the commands that act at once. The command at HEAD is accepted
under the conditions of R437, with its acceptance record; another SEQ stops the queue. WAITQ, XFER and ADVANCE by their rules;
enabling and disabling a queue. -/
def Obligations.CommandQueues : Prop :=
  ∀ (s : State) (q : Nat), s.rst.inReset = false → q < 256 →
    let u := s.queue q
    let c := s.headCmd q
    let may := s.host.linkUp = true ∧ s.svr.closed.contains .queueFrontEnd = false ∧ u.state = .running
      ∧ u.head.toNat % 2 ^ (u.logsz.toNat + 6) ≠ u.tail.toNat % 2 ^ (u.logsz.toNat + 6) ∧ u.accepted.length < u.ahead.toNat + 1
      ∧ u.records = [] ∧ u.jcount < 2 ^ (u.logsz.toNat + 7)
    let ends (st : Status) (d : W64) : Host.Outcome State Fault Refusal := .next (s.finishFront q st 0 d true)
    (∀ v, exec (.hqQTailWrite q v) s = .next (s.updQueue q fun u => { u with tail := v.setWidth 16 }))
    ∧ (¬ may → exec (.commandAccept q) s = .next s)
    ∧ (may → c.seq ≠ u.nextseq → exec (.commandAccept q) s =
        .next (((s.updQueue q fun u => { u with state := .stopped, seqerr := true }).hwSet (0x104030 + 0x40 * q) 0x100).event
          { code := .descFormat, cls := .job, part := if u.func = 0 then none else some ((u.func.toNat - 1) % 16)
            count := BitVec.ofNat 32 q, detail := c.seq }))
    ∧ (may → c.seq = u.nextseq → (∀ d ds, u.accepted ++ [c] = d :: ds → d.early = none) → exec (.commandAccept q) s =
        .next ((s.record q (recordBytes 1 .ok 0 q false c.seq 0)).updQueue q fun w => { w with
          head := BitVec.ofNat 16 ((u.head.toNat + 1) % 2 ^ (u.logsz.toNat + 6)), nextseq := u.nextseq + 1
          accepted := u.accepted ++ [c] }))
    ∧ (∀ d, s.front q 0 = some d → exec (.nop q) s = ends .ok 0)
    ∧ (∀ d, s.front q 5 = some d →
        let k := d.arg 0x10 2
        exec (.waitq q) s = if 256 ≤ k then ends (.fault .descFormat) 0
          else if ∃ x ∈ (s.queue k).done, d.arg 0x18 8 ≤ x.toNat then ends .ok 0 else .next s)
    ∧ (∀ d, s.front q 4 = some d →
        let a := d.arg 0x10 8
        (a % 64 ≠ 0 → exec (.xfer q) s = ends (.fault .descFormat) 0)
        ∧ (a % 64 = 0 → s.svr.closed.contains .transferEngines = false → s.host.linkUp = true →
            exec (.xfer q) s = .next ((s.startFront q).updMem fun m => { m with waiting := m.waiting ++
              [{ q := q, part := s.cmdPart q d, seq := d.seq, d := XDesc.parse (s.host.mem.readBytes a 64), next := 0 }] })))
    ∧ (∀ d, s.front q 6 = some d →
        let p := s.cmdPart q d
        let x := s.part p
        let a := s.translate x.ccell.toNat
        let at_ : W32 := BitVec.ofNat 32 (s.mem.bytes.readLE a 8 / 2 ^ 32)
        let want := d.arg 0x10 4
        (x.job.isSome = true ∨ x.ccell = 0 ∨ s.cellOk p x.ccell.toNat = false →
          exec (.advance q) s = ends (.fault .access) (x.commitStep.setWidth 64))
        ∧ (x.job = none → x.ccell ≠ 0 → s.cellOk p x.ccell.toNat = true → spaceOf a = .memory → s.memIsolated a 8 = false →
            s.poisonIn a 8 = none →
            (want = at_.toNat → exec (.advance q) s = ends .already (at_.setWidth 64))
            ∧ (want ≠ at_.toNat → want ≠ at_.toNat + 1 → exec (.advance q) s = ends (.fault .descFormat) (at_.setWidth 64))
            ∧ (want = at_.toNat + 1 → ∃ t : State, exec (.advance q) s = .next (t.finishFront q .ok 0 (BitVec.ofNat 64 want) true)
                ∧ t.mem.bytes.readLE a 8 = 2 ^ 32 * want + (1 - s.mem.bytes.readLE a 8 % 2)
                ∧ (∀ y, y < a ∨ a + 8 ≤ y → t.mem.bytes.read y = s.mem.bytes.read y)
                ∧ { t with mem := s.mem } = s)))
    ∧ (u.en = false → s.rst.phase = 8 → (s.func u.func.toNat).mstate = 2 →
        u.func = 0 ∨ (s.part ((u.func.toNat - 1) % 16)).en = true →
        exec (.queueEnable q) s = .next (s.updQueue q fun u => { u with en := true, state := .running }))
    ∧ ((s.func u.func.toNat).mstate ≠ 2 → exec (.queueEnable q) s = .next s)
    ∧ (u.en = false → exec (.queueDisable q) s = .next s)
    ∧ (u.en = true → ∀ rest d, u.accepted = d :: rest → d.started = false → exec (.queueDisable q) s =
        .next ((s.updQueue q fun u => { u with en := false, state := .disabled, accepted := [] }).cancelAll q (d :: rest)))
    ∧ (u.en = true → u.accepted = [] →
        exec (.queueDisable q) s = .next (s.updQueue q fun u => { u with en := false, state := .disabled }))

/-- R350 to R353, R408, R441 to R443, spec/15 R529: ATTACH, the exchange of ATTACH packets and its end, DETACH, and the start of a STEP,
step by step in the order of their rules. -/
def Obligations.JobsAndSteps : Prop :=
  ∀ (s : State) (q : Nat) (c : Cmd),
    let p := s.cmdPart q c
    let x := s.part p
    let ends (u : State) (st : Status) (d : W64) : State := u.finishFront q st 0 d true
    (s.front q 1 = some c → x.attaching = none → s.host.linkUp = true → s.serviceFirst x = false →
      let plan := c.arg 0x10 8
      let bs := s.host.mem.readBytes plan 0x70
      let n := field bs 8 4
      let job : Job := ⟨n, BitVec.ofNat 64 (field bs 0 8), planPorts bs⟩
      let us := s.outcomes job.ports
      let fails (code : FCode) : Prop := exec (.attach q) s = .next (ends s (.fault code) 0)
      let ok := x.job = none ∧ x.en = true ∧ s.svr.dbgLevel ≠ 2 ∧ s.outOfService x = false ∧ plan % 4096 = 0
      (x.job.isSome = true → fails .access)
      ∧ (x.job = none → x.en = true → s.svr.dbgLevel ≠ 2 → s.outOfService x = true → fails .isolated)
      ∧ (∀ k e, job.ports[k]? = some e → us[k]? = some (if e.kind = 0 then (if (s.port k).up then .dark else .unused)
          else if (s.port k).up = true ∧ (s.port k).peerv = true ∧ e.kind.toNat = (s.port k).pkind.toNat + 1
              ∧ e.id.toNat = (s.port k).peer.toNat ∧ e.port.toNat = (s.port k).peerport.toNat ∧ e.minlanes.toNat ≤ (s.port k).live
            then .inUse else .mismatched))
      ∧ (ok → n = 1 → .mismatched ∈ us → ∃ t : State, exec (.attach q) s = .next (ends t (.fault .planMismatch) 0)
          ∧ t.fab.missing.toNat = (us.filter (· == .mismatched)).length
          ∧ (∃ k, t.fab.firstbad.toNat = k ∧ us[k]? = some .mismatched ∧ ∀ j < k, us[j]? ≠ some .mismatched))
      ∧ (ok → n = 1 → .mismatched ∉ us →
          (x.ccell = 0 → ∃ t : State, exec (.attach q) s = .next (ends t .ok 0) ∧ (t.part p).job = some job
            ∧ (t.part p).commitStep = 0 ∧ (t.part p).vsel = false ∧ (t.part p).attempt = 0 ∧ (t.part p).stopped = false
            ∧ t.fab.ports = s.fab.ports ∧ t.cores = s.cores)
          ∧ (x.ccell ≠ 0 → s.cellOk p x.ccell.toNat = false → ∃ t : State, exec (.attach q) s = .next (ends t (.fault .access) 0)
              ∧ (t.part p).job = none)
          ∧ (let a := s.translate x.ccell.toNat
             let v := s.mem.bytes.readLE a 8
             x.ccell ≠ 0 → s.cellOk p x.ccell.toNat = true → spaceOf a = .memory → s.memIsolated a 8 = false → s.poisonIn a 8 = none →
             ∃ t : State, exec (.attach q) s = .next (ends t .ok 0) ∧ (t.part p).job = some job
              ∧ (t.part p).commitStep.toNat = v / 2 ^ 32 ∧ (t.part p).vsel = decide (v % 2 = 1) ∧ (t.part p).attempt = 0))
      ∧ (ok → n ≠ 1 → (s.queue q).func ≠ 0 → fails .access)
      ∧ (ok → n = 0 → (s.queue q).func = 0 → fails .descFormat)
      ∧ (ok → 1 < n → (s.queue q).func = 0 → s.feature featFabric = false →
          exec (.attach q) s = .next (s.finishFront q (.fault .featureUnsupported) 0 0 false))
      ∧ (ok → 1 < n → (s.queue q).func = 0 → s.feature featFabric = true → (∃ k < 16, (s.part k).multi = true) → fails .planMismatch)
      ∧ (ok → 32768 < n → (s.queue q).func = 0 → s.feature featFabric = true → (∀ k < 16, (s.part k).multi = false) →
          fails .descFormat)
      ∧ (ok → 1 < n → n ≤ 32768 → (s.queue q).func = 0 → s.feature featFabric = true → (∀ k < 16, (s.part k).multi = false) →
          s.svr.lEepromBad = true ∨ s.svr.lValid = false → fails .planMismatch)
      ∧ (ok → 1 < n → n ≤ 32768 → (s.queue q).func = 0 → s.feature featFabric = true →
          s.svr.lEepromBad = false → s.svr.lValid = true → (∀ k < 16, (s.part k).multi = false) → .mismatched ∉ us → s.fab.attachRx = [] →
          let routes := Sparse.tabulate 0 32768 fun m => s.host.mem.read (plan + 0x100 + m)
          let v := (s.setUses us).updFab fun b => { b with routes := routes }
          v.attachPeers ≠ [] → ∃ t : State, exec (.attach q) s = .next t ∧ (t.part p).attaching = some ⟨q, job, v.attachPeers⟩
            ∧ t.net = s.net ++ v.attachPeers.map (v.attachTo job.digest) ∧ (∀ k < 12, (t.port k).use = us.getD k .unused)
            ∧ t.fab.routes = routes))
    ∧ (∀ (d : Packet) (s' : State) (a : Attaching) (k : Nat), s.arrive d = some s' → d.typ = .attach → s.exchanging = some k →
        (s.part k).attaching = some a →
        let same := BitVec.ofNat 64 (extField d 0x2C 8) = a.job.digest
          ∧ (d.arg.getLsbD 0 = true → BitVec.ofNat 64 (extField d 0x34 8) = s.mem.tileCfg)
        let failed : Host.Outcome State Fault Refusal := .next (s'.attachFail k a.q true .planMismatch)
        (a.awaited.contains d.smod = true → ¬ same → exec (.attachPacket d) s = failed)
        ∧ (same → a.awaited = [d.smod] → s.mer.lock ≠ .locked → s.mer.role ≠ roleRoot → ∃ t : State, exec (.attachPacket d) s = .next t
            ∧ (t.part k).job = (s.part k).job ∧ (t.part k).attaching = none)
        ∧ (same → a.awaited = [d.smod] → s.mer.lock = .locked → (s.part k).ccell = 0 → ∃ t : State,
            exec (.attachPacket d) s = .next (t.finishFront a.q .ok 0 0 true) ∧ (t.part k).job = some a.job
            ∧ (t.part k).commitStep = 0 ∧ (t.part k).attaching = none)
        ∧ (s.rst.inReset = false → exec (.attachExchangeTimeout k) s = .next (s.attachFail k a.q true .planMismatch)))
    ∧ (s.front q 2 = some c →
        (x.job = none → exec (.detach q) s = .next (ends s .ok 0))
        ∧ (∀ j, x.job = some j → x.waitingSteps = [] → p < 16 → ∃ t : State, exec (.detach q) s = .next t
            ∧ (t.part p).job = none ∧ (t.part p).running = none ∧ (t.part p).commitStep = x.commitStep ∧ (t.part p).vsel = x.vsel
            ∧ (x.lstate = .pending → (t.part p).lstate = .none ∧ (t.part p).launch = 0)
            ∧ (∀ k, x.hasCore k = true → (s.core k).run ≠ .off → (t.core k).run = .stopJob)
            ∧ (1 < j.modules → t.fab.routes = [] ∧ ∀ n < 12, (t.port n).use ≠ .inUse)))
    ∧ (s.front q 3 = some c →
        let r := c.stepRun q
        let v := s.startFront q
        let C := x.commitStep
        let tick := if r.tick = 0 then s.tick + 50000 else r.tick
        let inTime := s.tick.toNat + 50000 ≤ tick.toNat ∧ x.lstate ≠ .pending
        let ends3 (u : State) (st : Status) : Prop := exec (.step q) s = .next (u.finishFront q st 0 (C.setWidth 64) true)
        -- it waits while another runs, and until that one's record is written
        (x.running ≠ none ∨ x.ended ≠ none →
          exec (.step q) s = .next (v.updPart p fun x => { x with waitingSteps := x.waitingSteps ++ [r] }))
        ∧ (x.running = none → x.ended = none → x.job = none → ends3 v (.fault .access))
        ∧ (x.running = none → x.ended = none → r.rlen ≠ 0 → s.inInk p r.rsrc.toNat r.rlen.toNat = false → ends3 v (.fault .access))
        ∧ ∀ j, x.running = none → x.ended = none → x.job = some j → r.rlen = 0 ∨ s.inInk p r.rsrc.toNat r.rlen.toNat = true →
            (r.step ≤ C → ends3 v .already)
            ∧ (C.toNat + 1 < r.step.toNat ∨ (r.step.toNat = C.toNat + 1 ∧ r.entry.toNat % 4 ≠ 0) → ends3 v (.fault .descFormat))
            ∧ (r.step.toNat = C.toNat + 1 → r.entry.toNat % 4 = 0 →
                (r.tick = 0 → j.modules ≠ 1 → ends3 v (.fault .descFormat))
                ∧ (r.tick ≠ 0 → ¬ inTime → x.lstate ≠ .pending → ends3 (v.updPart p fun x => { x with lstate := .refused }) (.fault .descFormat))
                ∧ (r.tick ≠ 0 ∨ j.modules = 1 → x.lstate = .pending →
                    ends3 ((v.updPart p fun x => { x with wref := true }).hwSet (0x11008 + 0x20 * p) 4) (.fault .descFormat))
                ∧ (inTime → r.tick ≠ 0 ∨ j.modules = 1 → exec (.step q) s = .next (v.updPart p fun x => { x with
                    launch := tick, lstate := .pending, entry := r.entry, running := some r, voted := false, votes := [] }))))

/-- R432 to R434, R449, R450, R452, R453: event rings, negotiation, function-level reset, the host link and BAR accesses. An event takes
the ring's next slot, or is counted when the ring is full or off; freed room first takes one LOST record with the count. An
FLR disables the function's queues without a record and stops its job, and changes no byte of stacked memory. Writes are held
while the link is down and leave in order. -/
def Obligations.EventsAndHostAccess : Prop :=
  ∀ (s : State) (f : Nat), s.rst.inReset = false → f < 17 →
    let x := s.func f
    let size := 2 ^ x.elog.toNat
    let on := x.elog ≠ 0
    let phase : Byte := if x.evWrap then 0 else 128
    let a := x.evBase.toNat + 32 * x.evTail.toNat
    -- `t` is `u` with one more record in the ring of `f`
    let put (u t : State) (typ : Byte) (rest : List Byte) : Prop :=
      t.host.mem.readBytes a 32 = (typ ||| phase) :: rest ∧ (∀ y, y < a ∨ a + 32 ≤ y → t.host.mem.read y = u.host.mem.read y)
      ∧ (t.func f).evTail.toNat = (x.evTail.toNat + 1) % size ∧ (t.func f).evWrap = (x.evWrap != decide (x.evTail.toNat + 1 = size))
      ∧ (t.func f).evCount = (u.func f).evCount + 1 ∧ t.host.msix = u.host.msix ++ [(f, x.evVector.toNat)]
      ∧ { t with host := u.host, svr := u.svr } = u
    let lostRecord : List Byte := lostBytes s.modId x.lost s.tick
    (∀ e : Event, x.elog.toNat ≤ 16 → s.host.linkUp = true → x.lost = 0 →
      (on → x.evCount < size → x.evTail.toNat < size → put s (s.ringEvent f e) 1 (e.bytes (e.module.getD s.modId))
          ∧ (s.ringEvent f e).svr.smbAlert = (s.svr.smbAlert || e.cls == .job || e.cls == .module))
      ∧ (¬ on ∨ x.evCount = size → s.ringEvent f e = s.updFunc f fun x => { x with lost := 1 }))
    ∧ (x.elog.toNat ≤ 16 → s.host.linkUp = true → on → x.evTail.toNat < size →
        (x.lost = 0 ∨ x.evCount = size → exec (.lost f) s = .next s)
        ∧ (x.lost ≠ 0 → x.evCount < size → ∃ t : State, exec (.lost f) s = .next t ∧ put s t 2 lostRecord ∧ (t.func f).lost = 0)
        ∧ ∀ v : W64,
            let n := v.toNat % 2 ^ 16 % size
            let c := (n + size - x.evHead.toNat % size) % size
            (x.evCount < c → exec (.hqEvtHeadWrite f v) s = .next s)
            ∧ (c ≤ x.evCount → x.lost = 0 → exec (.hqEvtHeadWrite f v) s =
                .next (s.updFunc f fun x => { x with evHead := BitVec.ofNat 16 n, evCount := x.evCount - c }))
            ∧ (c ≤ x.evCount → 0 < c → x.evCount ≤ size → x.lost ≠ 0 → ∃ t : State, exec (.hqEvtHeadWrite f v) s = .next t
                ∧ put (s.updFunc f fun x => { x with evHead := BitVec.ofNat 16 n, evCount := x.evCount - c }) t 2 lostRecord
                ∧ (t.func f).lost = 0))
    ∧ (∀ v : W64, ∃ t : State, exec (.hqEvtCfgWrite f v) s = .next t ∧ (t.func f).evVector.toNat = v.toNat / 256 % 256
        ∧ (let e := v.toNat % 32
           (t.func f).elog.toNat = if e = 0 then 0 else max 6 (min e 16))
        ∧ (v.toNat % 32 = 0 → { t with host := s.host } = s ∧ (t.func f).lost = x.lost))
    ∧ ((s.queueOn f = true ∨ x.mstate = 1 → exec (.go f) s = .next s)
        ∧ (s.queueOn f = false → x.mstate ≠ 1 → ∃ t : State, exec (.go f) s = .next t
            ∧ (if x.accept &&& ~~~(s.offer f) = 0 ∧ x.accept.getLsbD 0 = true then
                (t.func f).mstate = 2 ∧ (t.func f).inForce = x.accept ∧ t.host.mem = s.host.mem
               else (t.func f).mstate = 3 ∧ (t.func f).inForce = 0)
            ∧ (∀ g < 17, g ≠ f → (t.func g).mstate = (s.func g).mstate) ∧ t.cores = s.cores ∧ t.mem = s.mem))
    ∧ s.offer f = (if s.rst.phase ≠ 8 then 0 else if f = 0 then (if s.gradeA then 0xFFF else 0x7FF) else (s.func 0).inForce)
    ∧ (1 ≤ f → ∃ t : State, exec (.flr f) s = .next t ∧ t.mem.bytes = s.mem.bytes
        ∧ (∀ p < 16, (t.part p).commitStep = (s.part p).commitStep)
        ∧ (∀ q, (s.queue q).func.toNat = f → (t.queue q).en = false ∧ (t.queue q).state = .disabled ∧ (t.queue q).accepted = []
            ∧ (t.queue q).records = [] ∧ (t.queue q).nextseq = 0 ∧ (t.queue q).base = 0 ∧ (t.queue q).func = 0)
        ∧ (t.func f).mstate = 0 ∧ (t.func f).inForce = 0 ∧ (t.func f).elog = 0
        ∧ ((s.part (f - 1)).job.isSome = true → (t.part (f - 1)).stopped = true
            ∧ ∀ c, (s.part (f - 1)).hasCore c = true → (s.core c).run ≠ .off → (t.core c).run = .stopJob))
    ∧ (∃ t : State, exec .linkDown s = .next t ∧ t.host = { s.host with linkUp := false } ∧ { t with host := s.host } = s)
    ∧ (∀ w : HostWrite, s.host.linkUp = false → s.hostSend w = s.updHost fun h => { h with heldWrites := h.heldWrites ++ [w] })
    -- Relaxed Ordering is for the data of transfers and return copies, where the host allows it (R435)
    ∧ (∀ (a : Nat) (bs : List Byte) (r : Bool), s.host.linkUp = true → s.hostSend (.bytes a bs r) = s.updHost fun h =>
        { h with mem := h.mem.writeBytes a bs, relaxedAt := h.relaxedAt ++ (if r then [a] else []) })
    ∧ (∀ a bs, s.hostData a bs = s.hostSend (.bytes a bs s.host.ero) ∧ s.hostWrite a bs = s.hostSend (.bytes a bs false))
    ∧ (s.host.linkOn = false → exec .hostLinkReturn s = .next s)
    ∧ (s.host.linkOn = true → s.host.linkUp = false → ∃ t : State, exec .hostLinkReturn s = .next t ∧ t.host.linkUp = true
        ∧ t.host.heldWrites = []
        ∧ t.host.mem = s.host.heldWrites.foldl (fun m w => match w with | .bytes a bs _ => m.writeBytes a bs | .msix _ _ => m) s.host.mem
        ∧ t.host.msix = s.host.msix ++ s.host.heldWrites.filterMap (fun w => match w with | .msix f v => some (f, v) | .bytes _ _ _ => none)
        ∧ { t with host := s.host } = s)
    ∧ exec .hostReadReissue s = .next s
    ∧ ∀ (off len : Nat) (bs : List Byte), s.host.linkUp = true →
        let refused : Host.Outcome State Fault Refusal := .next (s.respond (.bar f none))
        let base := if f = 0 then off else s.translate ((s.func f).wbase.toNat + off)
        let may (write : Bool) (n : Nat) : Prop := base + n ≤ memTop ∧ (f ≠ 0 → s.vfOn f = true ∧ off + n ≤ 2 ^ s.host.wlog.toNat
          ∧ s.permits (f - 1) write base n = true)
        (s.rst.phase ≠ 8 → exec (.barAccess f off len none) s = refused ∧ exec (.barAccess f off len (some bs)) s = .next s)
        ∧ (s.rst.phase = 8 → ¬ may false len → exec (.barAccess f off len none) s = refused)
        ∧ (s.rst.phase = 8 → ¬ may true bs.length → exec (.barAccess f off len (some bs)) s = refused)
        ∧ (s.rst.phase = 8 → may false len → 0 < len → s.memIsolated base len = false → s.poisonIn base len = none →
            exec (.barAccess f off len none) s = .next (s.respond (.bar f (some (s.mem.bytes.readBytes base len)))))
        ∧ (s.rst.phase = 8 → may true bs.length → bs ≠ [] → s.memIsolated base bs.length = false → s.poisonIn base bs.length = none →
            ∃ t : State, exec (.barAccess f off len (some bs)) s = .next t ∧ t.mem.bytes.readBytes base bs.length = bs
              ∧ (∀ y, y < base ∨ base + bs.length ≤ y → t.mem.bytes.read y = s.mem.bytes.read y)
              ∧ { t with mem := { t.mem with bytes := s.mem.bytes } } = s)

/-! ### Reset, start and service (spec/01, spec/13, spec/15) -/

/-- R22, R25 to R29, R451, R454 to R469, Tables 13-1 to 13-5: the two sources, the internal causes, what an entry into reset clears
and keeps, the episode's log entry, its counters and its crash record, NV pulses and the backup domain. -/
def Obligations.ResetEpisodes : Prop :=
  ∀ s : State,
    let r := s.rst
    let b := s.bkp
    let upd (f : Rst → Rst) : Host.Outcome State Fault Refusal := .next (s.updRst f)
    -- Table 13-2: everything is cleared but the backup domain, the MRAM, the island, and stacked memory in a pin reset
    let entered (pon : Bool) (t : State) : Prop :=
      t.rst.inReset = true ∧ t.rst.phase = 0 ∧ t.cores = [] ∧ t.wps = [] ∧ t.inks = [] ∧ t.subs = [] ∧ t.net = []
      ∧ t.parts = [(0, { cfg := 0xF003 })] ∧ t.mer = {} ∧ t.pwr = {} ∧ t.host.queues = [] ∧ t.host.funcs = [] ∧ t.host.linkUp = false
      ∧ t.mem.bytes = (if pon then [] else s.mem.bytes) ∧ t.mem.tileCfg = 0 ∧ t.mem.rgn0 = [] ∧ (∀ n < 8, (t.stack n).selfref = true)
      ∧ t.fab.routes = [] ∧ t.fab.colls = [] ∧ (∀ n < 12, (t.port n).powered = false ∧ (t.port n).state = .down
          ∧ (t.port n).present = (s.port n).present)
      ∧ t.svr.closed = [] ∧ t.mram = s.mram ∧ t.svr.lModid = s.svr.lModid
    let nextSeq : W32 := if b.seq = 0xFFFFFFFF then 1 else b.seq + 1
    -- the entry that a recognised source writes
    let logged (bits : BitVec 5) (t : State) : Prop :=
      Sparse.get {} t.bkp.log b.logHead.toNat = { seq := nextSeq, defer := 0, incomplete := s.starting, start := 0, causes := bits
                                                  tick := if r.inReset then BitVec.allOnes 64 else s.tick }
      ∧ (∀ n < 32, n ≠ b.logHead.toNat → Sparse.get {} t.bkp.log n = Sparse.get {} b.log n)
      ∧ t.bkp.logHead = b.logHead + 1 ∧ t.bkp.seq = nextSeq ∧ t.rst.resetNDrive = true ∧ t.rst.episodeOn = true
      ∧ t.bkp.uncorr = (if bits = 4 then sat32 b.uncorr else b.uncorr)
      ∧ t.bkp.thermal = (if bits = 8 then sat32 b.thermal else b.thermal) ∧ t.bkp.wdog = (if bits = 16 then sat32 b.wdog else b.wdog)
      ∧ t.bkp.cold = b.cold ∧ t.bkp.warm = b.warm
    -- a pin reset that begins an episode: at once, or at the end of the NV pulse
    let pin (bits : BitVec 5) (t : State) : Prop :=
      logged bits t ∧ (if r.nvPulse then t.rst.deferred = true ∧ t.cores = s.cores ∧ t.mem = s.mem else entered false t)
    let crashed (code : Byte) (bits : BitVec 5) (t : State) : Prop :=
      if b.crash.valid then t.bkp.crash = { b.crash with count := sat8 b.crash.count }
      else t.bkp.crash.valid = true ∧ t.bkp.crash.code = code ∧ t.bkp.crash.cause = bits.setWidth 8 ∧ t.bkp.crash.count = 0
        ∧ t.bkp.crash.core = 0xFFFF ∧ t.bkp.crash.part = 0xFF ∧ t.bkp.crash.tick = s.tick ∧ t.bkp.crash.fwver = s.svr.fwver
    let addsBit (bits : BitVec 5) (t : State) : Prop := (Sparse.get {} t.bkp.log b.entryIdx).causes =
        (Sparse.get {} b.log b.entryIdx).causes ||| bits
      ∧ t.bkp.logHead = b.logHead ∧ t.bkp.uncorr = b.uncorr ∧ t.bkp.thermal = b.thermal ∧ t.bkp.wdog = b.wdog
    -- RESET_N (R455)
    (∀ ns, (ns < 100 → exec (.resetNAssert ns) s = .next s)
      ∧ (r.resetNDrive = true → exec (.resetNAssert ns) s = .next s)
      ∧ (120 ≤ ns → r.islandOn = true → r.resetNDrive = false →
          (r.episodeOn = false → r.inReset = false → ∃ t : State, exec (.resetNAssert ns) s = .next t ∧ pin 2 t)
          ∧ (r.episodeOn = true → r.inReset = true → r.epEntry = true → ∃ t : State, exec (.resetNAssert ns) s = .next t ∧ addsBit 2 t
              ∧ t.rst.resetNDrive = true ∧ t.mem = s.mem)))
    -- internal causes (R456)
    ∧ (r.powerOn = false → r.episodeOn = false → r.inReset = false →
        (∃ t : State, exec .wdog s = .next t ∧ pin 16 t ∧ crashed 0 16 t)
        ∧ (s.svr.pairStopped = false → ∃ t : State, exec .lockstepMismatch s = .next t ∧ pin 16 t ∧ crashed 0 16 t)
        ∧ ∀ sensor celsius, 105 ≤ celsius → r.tripDrive = false → ∃ t : State, exec (.thermal sensor celsius) s = .next t
            ∧ pin 8 t ∧ crashed FCode.thermal.byte 8 t ∧ t.rst.tripDrive = true ∧ t.svr.smbAlert = true)
    ∧ (∀ sensor celsius, celsius < 105 → exec (.thermal sensor celsius) s = .next s)
    ∧ (∀ readings, readings ≠ [] → r.islandOn = true → r.inReset = true → ∃ t : State, exec (.thermtripRelease readings) s = .next t
        ∧ t.rst.tripDrive = (r.tripDrive && decide (∃ x ∈ readings, 85 ≤ x)) ∧ { t with rst := r } = s)
    -- the power-on source
    ∧ (∀ cause, (cause = .pwrgd ∨ cause = .pll ∨ ∃ mV, cause = .vin mV ∧ mV < 38000) → r.islandOn = true →
        ∃ t : State, exec (.powerOnAssert cause) s = .next t ∧ entered true t ∧ t.rst.powerOn = true ∧ t.rst.epPowerOn = true
          ∧ t.rst.resetNDrive = true ∧ (r.episodeOn = false → logged 1 t) ∧ (r.episodeOn = true → r.epEntry = true → addsBit 1 t))
    ∧ (∀ mV, (38000 ≤ mV → mV ≤ 40000 → exec (.powerOnAssert (.vin mV)) s = .next s)
        ∧ (40000 < mV → exec (.powerOnAssert (.vin mV)) s = upd fun r => { r with vinLow := false })
        ∧ (3000 ≤ mV → exec (.powerOnAssert (.v3a mV)) s = .next s)
        ∧ (mV < 3000 → r.islandOn = true → ∃ t : State, exec (.powerOnAssert (.v3a mV)) s = .next t ∧ entered true t
            ∧ t.rst.islandOn = false ∧ t.rst.powerOn = true ∧ t.rst.epPowerOn = true ∧ t.svr.slot = 0 ∧ t.svr.idoff = 0
            ∧ t.bkp.log = b.log ∧ t.bkp.lost = (b.lost || r.vbkLow))
        ∧ (3135 ≤ mV → mV ≤ 3465 → r.islandOn = false → r.epEntry = false →
            ∃ t : State, exec (.v3aEntersOperatingRange mV) s = .next t ∧ t.rst.islandOn = true ∧ t.rst.resetNDrive = true
              ∧ (Sparse.get {} t.bkp.log b.logHead.toNat).causes = 1
              ∧ (Sparse.get {} t.bkp.log b.logHead.toNat).tick = BitVec.allOnes 64 ∧ t.bkp.logHead = b.logHead + 1)
        ∧ (mV < 3135 ∨ 3465 < mV → exec (.v3aEntersOperatingRange mV) s = .next s))
    ∧ (∀ us, (us ≤ 10 → exec (.referenceLoss us) s = .next s)
        ∧ (10 < us → r.pll = true → r.islandOn = true → ∃ t : State, exec (.referenceLoss us) s = .next t ∧ entered true t
            ∧ t.rst.holdover = true ∧ t.rst.pll = false ∧ t.rst.powerOn = true))
    ∧ (r.vinLow = true → exec .powerOnRelease s = .next s)
    ∧ (r.powerOn = true → r.islandOn = true → r.vinLow = false → ∃ t : State, exec .powerOnRelease s = .next t ∧ t.rst.powerOn = false
        ∧ t.svr.lModid.toNat = 8 * s.svr.straps.toNat + s.svr.slot.toNat ∧ t.svr.eepromDue = true ∧ t.svr.idoff = 0
        ∧ t.svr.smbAddr = none ∧ t.svr.smbAlert = false ∧ { t with rst := r, svr := s.svr } = s)
    -- the end of the episode (R460)
    ∧ (exec .resetStretchEnd s = if r.inReset = true ∧ r.powerOn = false ∧ r.tripDrive = false then
        upd fun r => { r with resetNDrive := false } else .next s)
    ∧ (exec .resetExit s = if r.inReset = true ∧ r.resetNDrive = false ∧ r.powerOn = false then
        upd fun r => { r with inReset := false, episodeOn := false, phase := 0, kind := 0 } else .next s)
    -- NV pulses (R464 to R466)
    ∧ (∀ us, r.nvPulse = true → us ≤ 50 →
        -- a payload pulse is followed by the commit pulse of its record, unless it is cut short
        (r.nvCommit = false → r.deferred = false → r.inReset = false → r.nvblk = false →
            exec (.nvPulseEnd us) s = upd fun r => { r with nvCommit := true })
        ∧ (r.nvCommit = false → r.deferred = false → r.inReset = false → r.nvblk = true → ∃ t : State,
            exec (.nvPulseEnd us) s = .next t ∧ t.mram = s.mram ∧ t.rst.nvPulse = false ∧ t.rst.nvWant = r.nvWant ∧ t.rst.nvRaised = true)
        ∧ (r.nvCommit = false → r.deferred = true → r.epEntry = true → ∃ t : State, exec (.nvPulseEnd us) s = .next t
            ∧ entered r.epPowerOn t
            ∧ (Sparse.get {} t.bkp.log b.entryIdx).defer.toNat = us ∧ t.rst.deferred = false ∧ t.rst.nvPulse = false)
        ∧ (∀ m, r.nvCommit = true → r.nvCur = some m → ∃ t : State, exec (.nvPulseEnd us) s = .next t
            ∧ t.mram = { m with svnFused := s.mram.svnFused }
            ∧ (r.deferred = true → r.epEntry = true → t.rst.inReset = true ∧ t.cores = [] ∧ t.rst.nvPulse = false
                ∧ (Sparse.get {} t.bkp.log b.entryIdx).defer.toNat = us)))
    ∧ (∀ mV, (mV < 42000 → exec (.nvBlocked mV) s = upd fun r => { r with nvblk := true })
        ∧ (44000 < mV → r.nvblk = true →
            (r.nvWant = none → exec (.nvUnblock mV) s = upd fun r => { r with nvblk := false, nvRaised := false, vinLow := false })
            ∧ ∀ m, r.nvWant = some m → r.nvPulse = false → r.inReset = false → { m with svnFused := s.mram.svnFused } ≠ s.mram →
                exec (.nvUnblock mV) s = upd fun r =>
                  { r with nvblk := false, nvRaised := false, vinLow := false, nvPulse := true, nvCommit := false, nvCur := some m })
        ∧ exec (.backupLoss mV) s = .next (if mV < 2700 ∧ r.islandOn = false then
            (s.updRst fun r => { r with vbkLow := true }).updBkp fun b => { b with lost := true }
          else s.updRst fun r => { r with vbkLow := decide (mV < 2700) }))
    ∧ (∀ f : Mram → Mram, r.deferred = false → (s.nvWrite f).mram = s.mram
        ∧ (let m := f (r.nvWant.getD s.mram)
           { m with svnFused := s.mram.svnFused } ≠ s.mram →
             (s.nvWrite f).rst.nvWant = some m ∧ (s.nvWrite f).rst.nvPulse = (r.nvPulse || !r.nvblk)
             ∧ (r.nvPulse = false → r.nvblk = false → (s.nvWrite f).rst.nvCur = some m ∧ (s.nvWrite f).rst.nvCommit = false)))
    -- the backup domain's own writes (Table 13-4)
    ∧ (r.islandOn = true →
        (∃ t : State, exec .bkpCtlClrlog s = .next t ∧ t.bkp = { b with log := [], logHead := 0 })
        ∧ exec .bkpCtlClrcnt s = .next (s.updBkp fun b => { b with cold := 0, warm := 0, uncorr := 0, thermal := 0, wdog := 0 }))

/-- R222, R467, R468, R470 to R478, R479 to R482, R508, R521 to R530, R535: the start, phase by phase, with its failures; wrappers, sweeps,
quarantines and job boundaries. -/
def Obligations.StartAndService : Prop :=
  (∀ (s : State) (f : PhaseFindings),
    let b := s.bkp
    let done (t : State) (n : BitVec 4) : Prop := exec (.startPhase f) s = .next t ∧ t.rst.phase = n
    (s.starting = false ∨ s.svr.pairStopped = true ∨ s.rst.episodeOn = true → exec (.startPhase f) s = .next s)
    -- pulses that still run then end first; of a record whose pulse ran on into the reset only that pulse counts
    ∧ (s.starting = true → s.svr.pairStopped = false → s.rst.episodeOn = false → s.rst.nvPulse = true → s.rst.nvblk = false →
        let m := if s.rst.nvWant.isSome then s.nvView else if s.rst.nvCommit then s.rst.nvCur.getD s.mram else s.mram
        exec (.startPhase f) s = exec (.startPhase f) { s with
          mram := { m with svnFused := s.mram.svnFused }
          rst := { s.rst with nvPulse := false, nvCommit := false, nvCur := none, nvWant := none } })
    ∧ (s.starting = true → s.svr.pairStopped = false → s.rst.episodeOn = false → s.rst.nvPulse = false →
      (s.rst.phase = 0 →
        let cold := s.rst.epPowerOn = true ∨ b.lost = true ∨ s.rst.episodeColdStart = true
        ∃ t : State, done t 1 ∧ t.rst.kind = (if cold then 1 else 2) ∧ t.bkp.lost = false
          ∧ t.bkp.start.getLsbD 7 = !b.lost ∧ t.bkp.start.getLsbD 2 = s.rst.epIncomplete ∧ t.bkp.start.setWidth 2 = (if cold then 1 else 2 : BitVec 2)
          ∧ (b.lost = false → t.bkp.cold = (if cold then sat32 b.cold else b.cold) ∧ t.bkp.warm = (if cold then b.warm else sat32 b.warm)
              ∧ t.bkp.start.getLsbD 6 = b.poisonOvf
              ∧ (s.rst.epEntry = true → (Sparse.get {} t.bkp.log b.entryIdx).start = (if cold then 1 else 2)))
          ∧ (b.lost = true → t.bkp.cold = 1 ∧ t.bkp.warm = 0 ∧ t.bkp.wdog = 0 ∧ t.bkp.poison = [] ∧ t.bkp.fuseShadow = false
              ∧ t.bkp.crash.valid = false))
      ∧ (s.rst.phase = 1 →
        let passes (i : Option Image) (v : Bool) : Prop := v = true ∧ ∃ x, i = some x ∧ s.mram.svnFused ≤ x.svn ∧ x.svn ≤ 64
        (passes s.mram.imageA f.aVerifies → ∃ t : State, done t 2 ∧ t.svr.image = false ∧ t.svr.booted = s.mram.imageA)
        ∧ (¬ passes s.mram.imageA f.aVerifies → passes s.mram.imageB f.bVerifies →
            ∃ t : State, done t 2 ∧ t.svr.image = true ∧ t.svr.booted = s.mram.imageB)
        ∧ (¬ passes s.mram.imageA f.aVerifies → ¬ passes s.mram.imageB f.bVerifies →
            ∃ t : State, done t 15 ∧ t.svr.romAgent = true ∧ t.host.linkUp = s.host.linkUp))
      ∧ (s.rst.phase = 2 →
        (identityValid s.svr.idrom = false → ∃ t : State, done t 15 ∧ t.responses = s.responses ++ [.identityInvalid]
            ∧ t.host = s.host)
        ∧ (identityValid s.svr.idrom = true → mismatches s.svr.idrom f.stackIds = [] → ∃ t : State, done t 3 ∧ t.host.linkUp = true
            ∧ t.host.linkOn = true)
        ∧ (identityValid s.svr.idrom = true → mismatches s.svr.idrom f.stackIds ≠ [] → ∃ t : State, done t 15 ∧ t.host = s.host
            ∧ t.responses = s.responses ++ (mismatches s.svr.idrom f.stackIds).map .stackMismatch
            ∧ ∀ n ∈ mismatches s.svr.idrom f.stackIds, (t.stack n).mismatch = true))
      ∧ (s.rst.phase = 3 → ∃ t : State, done t 4 ∧ t.bkp.fuseShadow = true
          ∧ t.bkp.start.getLsbD 3 = (b.start.getLsbD 3 || s.cold || !b.fuseShadow))
      ∧ (s.rst.phase = 4 → s.svr.quarantines = [] → s.rst.nvWant = none → ∃ t : State, done t 5
          ∧ (∀ c, t.svr.closed.contains (.core c) = (homeless s.mram.insets).contains (.core c))
          ∧ (∀ e ∈ s.mram.history, e.quarantine = true → (∀ c, e.block ≠ .core c) → t.svr.closed.contains e.block = true)
          ∧ (∀ sh < 16, t.svr.sheetout.getLsbD sh = (List.range 40).any fun col => decide ((healthy s.mram.insets sh col).length < 40)))
      ∧ (s.rst.phase = 5 → ∃ t : State, exec (.startPhase f) s = .next t
          ∧ t.rst.phase = (if f.trainFails % 256 = 0 then 6 else 15)
          ∧ t.mem.bytes = (if s.cold = true ∨ b.poisonOvf = true then [] else s.mem.bytes.filter fun e =>
              b.poison.all fun a => e.1 / 4096 != a.toNat / 4096)
          ∧ ∀ n < 8, (t.stack n).selfref = false ∧ (t.stack n).train = (if f.trainFails.testBit n then 3
              else if s.cold = true ∨ b.poisonOvf = true ∨ s.recordsFit f.stackTemps = false then 2 else 1))
      ∧ (s.rst.phase = 6 → f.coreFails = [] → s.svr.quarantines = [] → ∃ t : State, done t 7 ∧ t.cores = s.cores ∧ t.mem = s.mem
          ∧ t.bkp.start.getLsbD 5 = (b.start.getLsbD 5 || s.cold))
      ∧ (s.rst.phase = 7 → (∀ n < 12, (s.port n).linked = false ∧ (s.port n).use ≠ .inUse) → ∃ t : State, done t 8 ∧ t.mer.count = 0 ∧ t.cores = s.cores ∧ t.parts = s.parts ∧ t.mem = s.mem
          ∧ t.mram.svnFused = max s.mram.svnFused ((s.svr.booted.map (·.svn)).getD 0))))
  ∧ (∀ (s : State) (c : CoreId), s.rst.inReset = false → s.svr.pairStopped = false → coreExists c = true →
      s.svr.closed.contains (.core c) = false → ∃ t : State, exec (.wrapperClose (.core c)) s = .next t
        ∧ t.core c = {} ∧ t.svr.closed.contains (.core c) = true ∧ t.issues c = false
        ∧ (∀ q ∈ t.net, q.smod = s.modId → q.rsp = false → q.src.toNat ≠ c) ∧ t.mem.bytes = s.mem.bytes ∧ t.bkp = s.bkp ∧ t.rst = s.rst
        ∧ ∀ d, ∀ x ∈ (t.core d).stages, x.who.smod = s.modId → x.who.src.toNat = c → 2048 ≤ x.got)
  ∧ (∀ s : State, s.rst.inReset = false → s.svr.pairStopped = false →
      (s.svr.closed.contains .queueFrontEnd = false → ∃ t : State, exec (.wrapperClose .queueFrontEnd) s = .next t
        ∧ (∀ q, t.queue q = { energy := (s.queue q).energy }) ∧ t.svr.closed.contains .queueFrontEnd = true ∧ t.cores = s.cores ∧ t.mem = s.mem)
      ∧ (∀ n k, n < 8 → k < 2 → s.svr.closed.contains (.controller n k) = false → ∃ t : State,
          exec (.wrapperClose (.controller n k)) s = .next t ∧ t.svr.stackout.getLsbD n = true
          ∧ t.svr.closed.contains (.controller n k) = true ∧ t.mem.bytes = s.mem.bytes)
      ∧ (∀ k, k < 2 → s.svr.closed.contains (.reductionEngine k) = false → ∃ t : State, exec (.wrapperClose (.reductionEngine k)) s = .next t
          ∧ ∀ part ctx, ctx < 256 → ctx / 128 = k → t.coll part ctx = {})
      ∧ (s.svr.closed.contains .transferEngines = false → (∀ e < 16, s.engine e = none) → s.mem.waiting = [] →
          exec (.wrapperClose .transferEngines) s = .next (s.updSvr fun v => { v with closed := v.closed ++ [.transferEngines] })))
  ∧ (∀ (s : State) (sheets : W16), s.rst.inReset = false → exec (.sweepRequest sheets) s =
      .next ((s.hwSet 8 (BitVec.ofNat 64 (2 ^ 16 * sheets.toNat))).updSvr fun v => { v with sweep := v.sweep ||| sheets }))
  ∧ (∀ (s : State) (sheet : Nat), s.rst.inReset = false → s.svr.pairStopped = false → s.rst.phase = 8 → sheet < 16 →
      (s.sheetIdle sheet = false → ∀ bad, exec (.sweep sheet bad) s = .next s)
      ∧ (s.sheetIdle sheet = true → s.svr.quarantines = [] → ∃ t : State, exec (.sweep sheet []) s = .next t
          -- a request of the same cycle stands (R535)
          ∧ t.svr.sweep = (if (Sparse.get 0 s.justSet 8).getLsbD (16 + sheet) then s.svr.sweep
              else s.svr.sweep &&& ~~~(BitVec.ofNat 16 (2 ^ sheet)))
          ∧ (∀ c, coreExists c = true → sheetOf c = sheet → t.core c = {}
              ∧ ((homeless s.insets).contains (.core c) = false → t.svr.closed.contains (.core c) = false))
          ∧ (∀ c, sheetOf c ≠ sheet → t.core c = s.core c) ∧ t.bkp = s.bkp ∧ t.mer = s.mer ∧ t.mem = s.mem))
  ∧ ∀ (s : State) (part : Nat), s.rst.inReset = false → s.svr.pairStopped = false → part < 16 →
      ((s.part part).job.isSome = true → exec (.jobBoundary part) s = .next s)
      ∧ ((s.part part).job = none → ∃ t : State, exec (.jobBoundary part) s = .next t ∧ t.bkp = s.bkp ∧ t.mem = s.mem
          ∧ (∀ c, s.partOf c = some part → t.svr.quarantines.contains (.core c) = false)
          ∧ (s.attached = false → t.pwr.fixed.floor = none
              ∧ ∀ n < 12, s.svr.closed.contains (.port n) = false → (t.port n).state ≠ .lost
                  ∧ ((s.port n).state = .lost ∨ (s.port n).state = .up2 → (t.port n).lanes = 0xF ∧ (t.port n).use = .unused
                      ∧ (t.port n).state = (if (s.port n).powered = true ∧ (s.port n).cage = .accepted then .training else .down))))

/-! ### Power, frequency steps and energy (spec/14; spec/11 R420, R421) -/

/-- R486 to R489, R492 and R420, R421: the granted step as the slowest limit, or the pinned step, or the floor after a break; what
PWR_STEP.LIMIT names; a slower grant switches the core clock at once (20 ns without a cycle, then issue held for 32 cycles), a
faster one slews first and switches when the voltage is reached; writes of PWR_STEP, PWR_CAP (clamped, or discarded when pinned)
and PWR_FIXED. -/
def Obligations.StepsAndPowerRegisters : Prop :=
  ∀ s : State, s.rst.inReset = false →
    let p := s.pwr
    let n (k : BitVec 3) : Nat := k.toNat
    let grade := if s.gradeA = true ∧ s.feature featF0 = true then 0 else 1
    let opened := max (max (n p.req) grade) (max (n p.clim) (n p.tlim))
    let floor := (p.fixed.floor.map n).getD 0
    -- the clock follows the grant of `t`
    let follows (t : State) : Prop :=
      let g := t.granted
      t.pwr.target = g ∧ { t with pwr := p } = s
      ∧ (if n p.clock < n g then t.pwr.clock = g ∧ t.pwr.slewing = false ∧ t.pwr.stop = 20 ∧ t.pwr.hold = 32
         else t.pwr.clock = p.clock ∧ t.pwr.slewing = (p.clock != g) ∧ t.pwr.stop = p.stop ∧ t.pwr.hold = p.hold)
    -- R488, R420, R421
    n s.granted = (if p.fixed.active then n p.fixed.step else max opened floor)
    ∧ n s.openStep = opened
    -- R489, Table 14-3
    ∧ ((p.fixed.active = true ∨ p.fixed.floor.isSome = true ∧ opened < floor) → s.limitCode = 4)
    ∧ (p.fixed.active = false → floor ≤ opened → (n p.req = opened → s.limitCode = 0)
        ∧ (n p.req ≠ opened → n p.tlim = opened → s.limitCode = 3)
        ∧ (n p.req ≠ opened → n p.tlim ≠ opened → n p.clim = opened → s.limitCode = 2)
        ∧ (n p.req ≠ opened → n p.tlim ≠ opened → n p.clim ≠ opened → s.limitCode = 1))
    -- PWR_STEP
    ∧ (∀ v : W64, ∃ t : State, exec (.pwrStepWrite v) s = .next t ∧ n t.pwr.req = v.toNat % 8 ∧ follows t
        ∧ t.pwr.clim = p.clim ∧ t.pwr.tlim = p.tlim ∧ t.pwr.cap = p.cap ∧ t.pwr.fixed = p.fixed ∧ t.pwr.total = p.total)
    -- the voltage of a faster step is reached
    ∧ (p.slewing = true → exec .clockSwitch s = .next { s with pwr :=
        { p with clock := p.target, slewing := false, stop := 20, hold := 32, clkPhase := 0 } })
    ∧ (p.slewing = false → exec .clockSwitch s = .next s)
    -- PWR_CAP (R492)
    ∧ (∀ v : W64,
        let lo := s.svr.idrom.readLE 0x80 2
        let hi := s.svr.idrom.readLE 0x82 2
        let c := v.toNat % 8192
        (p.fixed.active = true → c < ratedPower (n p.fixed.step) → lo ≤ c → c ≤ hi → exec (.pwrCapWrite v) s = .next s)
        ∧ (p.fixed.active = false → lo ≤ hi → hi < 8192 →
            exec (.pwrCapWrite v) s = .next { s with pwr := { p with cap := BitVec.ofNat 13 (max lo (min hi c)) } }))
    -- PWR_FIXED (R421, Table 11-7)
    ∧ (∀ v : W64,
        (s.attached = true → exec (.pwrFixedWrite v) s =
          .next { s with pwr := { p with fixed := { p.fixed with broken := p.fixed.broken && !(s.clears 0x20018 v).getLsbD 9 } } })
        ∧ (s.attached = false → ∃ t : State, exec (.pwrFixedWrite v) s = .next t ∧ follows t
            ∧ n t.pwr.fixed.step = max (v.toNat / 16 % 8) grade
            ∧ t.pwr.fixed.en = (if s.feature featFixed then v.getLsbD 0 else p.fixed.en)
            ∧ (t.pwr.fixed.active = true ↔ t.pwr.fixed.en = true ∧ ratedPower (n t.pwr.fixed.step) ≤ p.cap.toNat)
            ∧ t.pwr.fixed.broken = (p.fixed.broken && !(s.clears 0x20018 v).getLsbD 9) ∧ t.pwr.fixed.bcause = p.fixed.bcause
            ∧ t.pwr.fixed.floor = p.fixed.floor ∧ t.pwr.req = p.req ∧ t.pwr.clim = p.clim ∧ t.pwr.tlim = p.tlim ∧ t.pwr.cap = p.cap))

/-- R490, R492 to R494, R498, R502: one activity estimate, which takes up the cap as last written. E_k, as the rational number of R490 (times M / Ē of the latest measurement
in MEASURE mode), is compared with the cap and with 95% of it; two estimates above the cap set CLIM to the fastest step no faster
than the granted one that keeps it, ten with room move it one step faster; the first reading at 95 °C throttles and breaks
fixed-frequency mode, whose BROKEN bit a write in the same management cycle does not clear (R12); later readings move TLIM by one step. The sheets' figures are the command's own.
R495 to R500: one power measurement's judgement. M above the cap at a fifth measurement moves CLIM one step slower and bars a
faster one for 1 ms, unless the sensors are flagged; a disagreement above 20% of the cap at a fifth measurement of one sign trusts
the measurement (CLIM one step slower, MEASURE) or the estimate (SENSFLAG); two rules of one interval move CLIM once; either breaks
fixed-frequency mode as R421 says. -/
def Obligations.GovernorRules : Prop :=
  (∀ s : State, s.rst.inReset = false →
    let p := s.pwr
    let n (k : BitVec 3) : Nat := k.toNat
    let f (k : Nat) : Rat := 12 / (stepPeriod k : Rat)
    let V (k : Nat) : Rat := (s.stepVolt k : Rat)
    let g := n s.granted
    let scale : Rat := if p.measure then match p.estScale with | some (a, b) => (a : Rat) / (b : Rat) | none => 1 else 1
    let cap : Rat := 1000 * (p.cap.toNat : Rat)
    (∀ k < 8, f k * (stepPeriod k : Rat) = 12)
    ∧ (∀ e : Estimate,
        let E (k : Nat) : Rat := ((e.shared : Rat) + (((e.sheets.foldl (· + ·) 0 : Nat)) : Rat) * (f k * (V k * V k)) / (f g * (V g * V g))) * scale
        s.stepVolt g ≠ 0 → (∀ a b, p.estScale = some (a, b) → b ≠ 0) →
        ∃ t : State, exec (.activityEstimate e) s = .next t ∧ { t with pwr := p, justSet := s.justSet } = s
          ∧ t.pwr.overEst = (if cap < E g then p.overEst + 1 else 0)
          ∧ t.pwr.capUsed = p.cap ∧ t.pwr.barred = p.barred - 1 ∧ t.pwr.tjmax = BitVec.ofInt 8 e.junction
          -- R493
          ∧ (2 ≤ t.pwr.overEst → g ≤ n t.pwr.clim
              ∧ (E (n t.pwr.clim) ≤ cap ∨ t.pwr.clim = 7 ∧ ∀ k, g ≤ k → k < 8 → cap < E k)
              ∧ ∀ k, g ≤ k → k < n t.pwr.clim → cap < E k)
          -- R494
          ∧ (t.pwr.overEst < 2 →
              let room := if 0 < g ∧ E (g - 1) ≤ cap * 95 / 100 then p.headroom + 1 else 0
              (10 ≤ room ∧ p.barred ≤ 1 → n t.pwr.clim = n p.clim - 1 ∧ t.pwr.headroom = 0)
              ∧ (¬ (10 ≤ room ∧ p.barred ≤ 1) → t.pwr.clim = p.clim ∧ t.pwr.headroom = room))
          -- R502
          ∧ (p.throt = false → e.junction < 95 → t.pwr.tlim = p.tlim ∧ t.pwr.throt = false ∧ t.pwr.fixed = p.fixed)
          ∧ (p.throt = false → 95 ≤ e.junction → t.pwr.throt = true
              ∧ (p.fixed.active = true → n t.pwr.tlim = min 7 (n p.fixed.step + 1) ∧ t.pwr.fixed.active = false
                  ∧ (∀ v, (t.clears 0x20018 v).getLsbD 9 = false)
                  ∧ t.pwr.fixed.broken = true ∧ t.pwr.fixed.bcause = 1 ∧ t.pwr.fixed.floor.map n = some (min 7 (n p.fixed.step + 1)))
              ∧ (p.fixed.active = false → p.fixed.floor = none → t.pwr.fixed = p.fixed ∧ n t.pwr.tlim = min 7 (1 +
                  max (max (n p.req) (if s.gradeA = true ∧ s.feature featF0 = true then 0 else 1)) (max (n t.pwr.clim) (n p.tlim)))))
          ∧ (p.throt = true → t.pwr.tlim = p.tlim ∧ t.pwr.throt = true)
          ∧ t.pwr.target = t.granted ∧ (n p.clock < n t.granted → t.pwr.clock = t.granted ∧ t.pwr.stop = 20 ∧ t.pwr.hold = 32)
          ∧ (n t.granted ≤ n p.clock → t.pwr.clock = p.clock ∧ t.pwr.slewing = (p.clock != t.granted)))
    ∧ ∀ junction : Int, p.throt = true → ∃ t : State, exec (.throttleStep junction) s = .next t ∧ { t with pwr := p, justSet := s.justSet } = s
        ∧ t.pwr.tjmax = BitVec.ofInt 8 junction ∧ t.pwr.clim = p.clim ∧ t.pwr.req = p.req
        ∧ (95 ≤ junction → n t.pwr.tlim = min 7 (n p.tlim + 1) ∧ t.pwr.throt = true ∧ t.pwr.fixed.active = false
            ∧ (p.fixed.active = true → t.pwr.fixed.bcause = 1 ∧ t.pwr.fixed.broken = true))
        ∧ (junction ≤ 90 → n t.pwr.tlim = n p.tlim - 1 ∧ t.pwr.throt = decide (1 < n p.tlim) ∧ t.pwr.fixed = p.fixed)
        ∧ (90 < junction → junction < 95 → t.pwr.tlim = p.tlim ∧ t.pwr.throt = true ∧ t.pwr.clock = p.clock ∧ t.pwr.fixed = p.fixed))
  ∧ ∀ (s : State) (z : Measurement), s.rst.inReset = false →
    let p := s.pwr
    let n (k : BitVec 3) : Nat := k.toNat
    let M : Rat := (z.m : Rat) * 100
    let mean : Rat := ((p.ests.foldl (· + ·) 0 : Nat) : Rat) / (p.ests.length : Rat)
    let D := M - mean
    let cap : Rat := 1000 * (p.capUsed.toNat : Rat)
    let exceed := if 10 * p.capUsed.toNat < z.m then p.overMeas + 1 else 0
    let pos := if cap / 5 < D then p.posDis + 1 else 0
    let neg := if D < -(cap / 5) then p.negDis + 1 else 0
    let calm := decide (-(cap / 10) ≤ D) && decide (D ≤ cap / 10)
    p.ests ≠ [] →
    ∃ t : State, exec (.powerMeasurement z) s = .next t
      ∧ t.pwr.meas = BitVec.ofNat 16 (z.m / 10) ∧ t.pwr.ests = [] ∧ t.pwr.cap = p.cap ∧ t.pwr.capUsed = p.capUsed ∧ t.pwr.req = p.req ∧ t.pwr.tlim = p.tlim
      ∧ t.pwr.target = t.granted
      ∧ t.cores = s.cores ∧ t.mem = s.mem ∧ t.net = s.net ∧ t.wps = s.wps ∧ t.inks = s.inks ∧ t.bkp = s.bkp ∧ t.rst = s.rst
      -- R498: measurement trusted
      ∧ (5 ≤ pos → p.climActed = false → n t.pwr.clim = min 7 (n p.climBase + 1) ∧ t.pwr.measure = true ∧ t.pwr.sensflag = p.sensflag
          ∧ t.pwr.fixed.active = false ∧ (p.fixed.active = true → t.pwr.fixed.broken = true ∧ t.pwr.fixed.bcause = 2))
      -- R499: estimate trusted
      ∧ (5 ≤ neg → t.pwr.sensflag = true ∧ t.pwr.clim = p.clim ∧ (exceed < 5 → t.pwr.fixed = p.fixed))
      -- R495 alone
      ∧ (pos < 5 → neg < 5 → 5 ≤ exceed → p.sensflag = false → p.climActed = false →
          n t.pwr.clim = min 7 (n p.climBase + 1) ∧ t.pwr.barred = 100 ∧ t.pwr.overMeas = 0
          ∧ t.pwr.fixed.active = false ∧ (p.fixed.active = true → t.pwr.fixed.broken = true ∧ t.pwr.fixed.bcause = 3))
      ∧ (pos < 5 → neg < 5 → 5 ≤ exceed → p.sensflag = true → t.pwr.clim = p.clim ∧ t.pwr.barred = p.barred)
      -- neither
      ∧ (pos < 5 → neg < 5 → exceed < 5 → t.pwr.clim = p.clim ∧ t.pwr.fixed = p.fixed ∧ t.pwr.sensflag = p.sensflag
          ∧ t.pwr.posDis = pos ∧ t.pwr.negDis = neg ∧ t.pwr.overMeas = exceed
          ∧ t.pwr.measure = (p.measure && !(calm && decide (100 ≤ p.calmMode + 1)))
          ∧ t.pwr.calmMode = (if calm then p.calmMode + 1 else 0)
          ∧ t.host.mem = s.host.mem ∧ t.host.funcs = s.host.funcs ∧ t.host.msix = s.host.msix)
      -- R500: one POWER_DISAGREE
      ∧ (5 ≤ pos ∨ 5 ≤ neg → t.pwr.disRaised = true
          ∧ (p.disRaised = false → let u := s.disagreeEvent z.m (decide (5 ≤ pos))
              t.host.mem = u.host.mem ∧ t.host.funcs = u.host.funcs ∧ t.host.msix = u.host.msix))
      ∧ (p.disRaised = true → ¬ (calm = true ∧ 100 ≤ p.calmRaise + 1) → t.host.funcs = s.host.funcs ∧ t.host.msix = s.host.msix)

/-- R504, R506 and the queues of R507: the energy of one interval. X is M × 100 µs in µJ, or the mean estimate of the interval while
SENSFLAG is 1; PWR_ENERGY_TOTAL grows by X, each partition by the floors of its consumers' shares, each queue by the shares of its
running STEP or its XFER, and PWR_UNATTR by the rest, so that the counters' sum stays exact, modulo 2^64. -/
def Obligations.EnergyAccounting : Prop :=
  ∀ (s : State) (z : Measurement), s.rst.inReset = false →
    (∀ e ∈ z.sheets, e.1 < 16) → (∀ e ∈ z.xfers, e.1 < 16) → (∀ e ∈ z.ports, e.1 < 16) →
    let sum (l : List Nat) : Nat := l.foldl (· + ·) 0
    let parts (u : State) : W64 := ((List.range 16).map fun i => (u.part i).energy).foldl (· + ·) 0
    let est := z.sheets.map (·.2) ++ z.xfers.map (fun e => e.2.2) ++ z.ports.map (·.2)
    let E := sum est + z.other
    ∃ t : State, exec (.powerMeasurement z) s = .next t
      ∧ (s.pwr.unattr + parts s = s.pwr.total → t.pwr.unattr + parts t = t.pwr.total)
      ∧ (∃ X : Nat, t.pwr.total = s.pwr.total + BitVec.ofNat 64 X
          ∧ (t.pwr.sensflag = false → X = 10 * z.m)
          -- the nearest µJ of the mean, in mW, times 100 µs; a half goes up
          ∧ (t.pwr.sensflag = true → s.pwr.ests ≠ [] → let n := 10 * s.pwr.ests.length
              2 * sum s.pwr.ests < n * (2 * X + 1) ∧ n * (2 * X) ≤ 2 * sum s.pwr.ests + n)
          ∧ (E ≠ 0 →
            let floor (e : Nat) : Nat := X * e / E
            (∀ i < 16, (t.part i).energy = (s.part i).energy + BitVec.ofNat 64
                (sum ((z.sheets.filter fun e => e.1 == i).map fun e => floor e.2)
                 + sum ((z.xfers.filter fun e => e.1 == i).map fun e => floor e.2.2)
                 + sum ((z.ports.filter fun e => e.1 == i).map fun e => floor e.2)))
            ∧ (∀ q, (t.queue q).energy = (s.queue q).energy + BitVec.ofNat 64
                (sum ((z.sheets.filter fun e => (s.part e.1).running.map (·.q) == some q).map fun e => floor e.2)
                 + sum ((z.xfers.filter fun e => e.2.1 == q).map fun e => floor e.2.2)))
            ∧ sum (est.map floor) ≤ X
            ∧ t.pwr.unattr = s.pwr.unattr + BitVec.ofNat 64 (X - sum (est.map floor))))
      ∧ (∀ i, { t.part i with energy := 0 } = { s.part i with energy := 0 })
      ∧ (∀ q, { t.queue q with energy := 0 } = { s.queue q with energy := 0 })

/-! ### Management (spec/15) -/

/-- R509, R510, R512 to R518, Tables 15-1, 15-3 and 15-10: the board chain, the carrier EEPROM and the standby SMBus commands. A burst
of 1 to 7 pulses is the slot, one of 8 or more leaves the slot invalid, silence is slot 0; a change after the latch sets CHAINMOVED
alone. The carrier EEPROM's RACK makes the module ID when magic and CRC match. IDOFF, IDREAD, STATUS, the alert response and an
assigned address.
R519 to R526, Tables 15-4 and 15-6: the MCTP endpoint. Control messages are answered from phase IDENTITY on, the others when an EID
is assigned; PLDM sensors and firmware update (image A to image B, the new image to A; busy while NV writes are blocked); SPDM, with
its signed answers after NEGOTIATE_ALGORITHMS (log 15, PRESUMED); the recovery agent offers firmware update only; nonces and debug
tokens. What a standard or a key determines is a free value. -/
def Obligations.ManagementCommands : Prop :=
  (∀ s : State,
    let v := s.svr
    let svr (f : Surveyor → Surveyor) : Host.Outcome State Fault Refusal := .next (s.updSvr f)
    let answer (bs : List Byte) (f : Surveyor → Surveyor) : Host.Outcome State Fault Refusal :=
      .next { s with svr := f v, responses := s.responses ++ [.smbus bs] }
    (s.rst.islandOn = true →
      exec .chainOutBurst s = svr (fun v => { v with chainOut := v.slot.toNat + 1 })
      ∧ (∀ c, 1 ≤ c → c ≤ 7 → ∃ t : State, exec (.chainInBurst c) s = .next t ∧ t.svr = { v with
            slot := BitVec.ofNat 3 c, slotBad := false, chainCnt := BitVec.ofNat 4 c
            chainMoved := v.chainMoved || (!s.rst.powerOn && decide (v.slot.toNat ≠ c)) }
          ∧ { t with svr := v, justSet := s.justSet } = s
          ∧ (s.rst.powerOn = false → v.slot.toNat ≠ c → ∀ w, (t.clears 0 w).getLsbD 31 = false))
      ∧ (∀ c, 8 ≤ c → exec (.chainInBurst c) s = svr (fun v => { v with
            chainBad := true, slotBad := true, chainCnt := BitVec.ofNat 4 (min c 15) }))
      ∧ (∃ t : State, exec .chainSilence s = .next t ∧ t.svr = { v with
            slot := 0, slotBad := false, chainCnt := 0, chainMoved := v.chainMoved || (!s.rst.powerOn && v.slot != 0) }
          ∧ { t with svr := v, justSet := s.justSet } = s)
      ∧ (∀ w : W16, exec (.idoff w) s = svr (fun v => { v with idoff := BitVec.ofNat 12 w.toNat }))
      ∧ (∃ bs : List Byte, exec .idread s = answer bs (fun v => { v with idoff := v.idoff + 32 }) ∧ bs.length = 32
          ∧ ∀ k < 32, bs[k]? = some (let a := (v.idoff.toNat + k) % 4096; if a < 256 then v.idrom.read a else 0xFF))
      ∧ (∃ bs : List Byte, exec .status s = answer bs (fun v => v) ∧ bs.length = 8 ∧ bs[2]? = some s.bkp.start ∧ bs[7]? = some 0
          ∧ (s.rst.inReset = true → field bs 0 2 = 0 ∧ field bs 4 2 = 0 ∧ bs[3]? = some (BitVec.ofInt 8 s.rst.islandTemp))
          ∧ (s.rst.inReset = false → field bs 0 2 = s.rst.phase.toNat * 0x1000 + s.rst.kind.toNat * 0x400 + s.rst.nvblk.toNat
              ∧ bs[3]? = some s.pwr.tjmax ∧ field bs 4 2 = v.lValid.toNat * 0x8000 + v.lModid.toNat)
          ∧ ∃ b : Byte, bs[6]? = some b ∧ b.getLsbD 0 = !s.rst.resetNDrive ∧ b.getLsbD 1 = s.rst.resetNDrive
              ∧ b.getLsbD 2 = s.rst.tripDrive ∧ b.getLsbD 3 = s.rst.pwrgd ∧ b.getLsbD 4 = s.rst.powerOn ∧ b.toNat < 32)
      ∧ (v.smbAlert = true → exec .alertResponse s = answer
            [match v.smbAddr with | some a => BitVec.ofNat 8 a.toNat | none => BitVec.ofNat 8 (0x40 + v.slot.toNat)]
            (fun v => { v with smbAlert := false }))
      ∧ (v.smbAlert = false → exec .alertResponse s = .next s)
      ∧ ∀ a, exec (.arp a) s = svr (fun v => { v with smbAddr := some a }))
    -- without V3A nothing answers
    ∧ (s.rst.islandOn = false → exec .chainOutBurst s = .next s ∧ exec .chainSilence s = .next s ∧ exec .idread s = .next s
        ∧ exec .status s = .next s ∧ exec .alertResponse s = .next s
        ∧ ∀ c w a, exec (.chainInBurst c) s = .next s ∧ exec (.idoff w) s = .next s ∧ exec (.arp a) s = .next s)
    -- the carrier EEPROM, once after each release
    ∧ (s.rst.inReset = false → v.pairStopped = false → v.eepromDue = true →
        (∀ bs : List Byte,
          let good : Prop := bs.take 4 = [0x43, 0x48, 0x42, 0x31] ∧ field bs 0x18 4 = (crc32c (bs.take 0x18)).toNat
          (good → ∃ m : BitVec 15, m.toNat = (field bs 4 2 % 512) * 64 + v.lStraps.toNat * 8 + v.lSlot.toNat
            ∧ exec (.carrierEepromRead (some bs)) s = svr (fun v => { v with
                eepromDue := false, lRack := BitVec.ofNat 9 (field bs 4 2), lValid := !v.lSlotBad, lModid := m }))
          ∧ (¬ good → exec (.carrierEepromRead (some bs)) s = exec (.carrierEepromRead none) s))
        ∧ exec (.carrierEepromRead none) s = svr (fun v => { v with eepromDue := false, lEepromBad := true, lValid := false })))
  ∧ ∀ s : State,
    let v := s.svr
    let on : Prop := s.rst.inReset = false ∧ v.pairStopped = false ∧ 2 ≤ s.rst.phase.toNat
    let say (r : Response) : Host.Outcome State Fault Refusal := .next { s with responses := s.responses ++ [r] }
    let signed (i : Instr) (bs : List Byte) : Prop := exec i s = say (if v.spdmAlg then .spdm bs else .refused)
    -- control messages
    (on → exec .getEndpointId s = say (.mctp [v.eid.getD 0]) ∧ exec .getEndpointUuid s = say (.mctp Config.endpointUuid)
      ∧ exec .getMctpVersionSupport s = say (.mctp (Config.protocolAnswer 0))
      ∧ exec .getMessageTypeSupport s = say (.mctp (if v.romAgent then [1] else [1, 5, 0x7E]))
      ∧ ∀ e, exec (.setEndpointId e) s =
          .next { s with svr := { v with eid := some e }, responses := s.responses ++ [.mctp [e]] })
    -- nothing else without an EID, and nothing at all before phase IDENTITY
    ∧ (¬ on ∨ v.eid = none → exec .getVersion s = .next s ∧ exec .getCapabilities s = .next s ∧ exec .getDigests s = .next s
        ∧ exec .nonceRequest s = .next s ∧ ∀ k b o l n img t, exec (.pldmMonitoring k) s = .next s
            ∧ exec (.negotiateAlgorithms b) s = .next s ∧ exec (.getCertificate o l) s = .next s ∧ exec (.challenge n) s = .next s
            ∧ exec (.getMeasurements k) s = .next s ∧ exec (.pldmFirmwareUpdate img) s = .next s ∧ exec (.debugToken t) s = .next s)
    ∧ (¬ on → exec .getEndpointId s = .next s ∧ exec .getEndpointUuid s = .next s ∧ exec .getMctpVersionSupport s = .next s
        ∧ exec .getMessageTypeSupport s = .next s ∧ ∀ e, exec (.setEndpointId e) s = .next s)
    ∧ (on → v.eid.isSome = true →
      -- PLDM firmware update (R523), also by the recovery agent
      (∀ img, s.rst.nvblk = true → exec (.pldmFirmwareUpdate img) s = say .pldmBusy)
      ∧ (∀ img, s.rst.nvblk = false → s.rst.deferred = false → ∃ t : State, exec (.pldmFirmwareUpdate img) s = .next t
            ∧ t.responses = s.responses ++ [.pldm [0]] ∧ { t with rst := s.rst, responses := s.responses } = s
            ∧ { t.nvView with svnFused := 0 } = { s.nvView with imageA := some img, imageB := s.nvView.imageA, svnFused := 0 })
      ∧ (v.romAgent = true → exec .getVersion s = say .refused ∧ exec .getCapabilities s = say .refused
          ∧ exec .nonceRequest s = say .refused
          ∧ ∀ k b t, exec (.pldmMonitoring k) s = say .refused ∧ exec (.negotiateAlgorithms b) s = say .refused
              ∧ exec (.debugToken t) s = .next s)
      ∧ (v.romAgent = false →
        -- PLDM sensors (R520)
        exec (.pldmMonitoring 0) s = say (.pldm (leBytes 4 (s.pwr.tjmax.signExtend 32).toNat))
        ∧ exec (.pldmMonitoring 1) s = say (.pldm (leBytes 4 s.pwr.meas.toNat))
        ∧ exec (.pldmMonitoring 2) s = say (.pldm (leBytes 4 s.pwr.est.toNat))
        ∧ (∀ k, 3 ≤ k → k ≤ 24 → exec (.pldmMonitoring k) s = say (.pldm (leBytes 4 (BitVec.ofInt 32 (Config.sensor k s.now)).toNat)))
        ∧ (∀ k, 24 < k → exec (.pldmMonitoring k) s = say .refused)
        -- SPDM (R521)
        ∧ exec .getVersion s = say (.spdm [0x12]) ∧ exec .getCapabilities s = say (.spdm (Config.protocolAnswer 1))
        ∧ exec (.negotiateAlgorithms false) s = say .refused
        ∧ exec (.negotiateAlgorithms true) s =
            .next { s with svr := { v with spdmAlg := true }, responses := s.responses ++ [.spdm (Config.protocolAnswer 2)] }
        ∧ signed .getDigests (Config.sha384 Config.certChain)
        ∧ (∀ o l, signed (.getCertificate o l) ((Config.certChain.drop o).take l))
        ∧ (∀ n, signed (.challenge n) (Config.sign (n ++ Config.sha384 Config.certChain)))
        ∧ signed (.getMeasurements 1) (Config.sha384 Config.bootRom)
        ∧ (∀ img, v.booted = some img →
            signed (.getMeasurements 2) (Config.sha384 img.bytes ++ [if v.image then 0x42 else 0x41]))
        ∧ signed (.getMeasurements 3) [v.svn] ∧ signed (.getMeasurements 4) (Config.sha384 Config.fuseShadow)
        ∧ signed (.getMeasurements 5) (Config.sha384 (v.idrom.readBytes 0 256))
        ∧ signed (.getMeasurements 6) [BitVec.ofNat 8 v.dbgLevel.toNat]
        ∧ (∀ k, k = 0 ∨ 6 < k → exec (.getMeasurements k) s = say .refused)
        -- debug unlock (R525)
        ∧ exec .nonceRequest s = .next { s with svr := { v with nonceNo := v.nonceNo + 1, nonceOk := true }
                                                responses := s.responses ++ [.mctp (Config.nonce (v.nonceNo + 1))] }
        ∧ ∀ t : Token,
            let good : Prop := t.uid.toNat = v.idrom.readLE 0x30 8 ∧ v.nonceOk = true ∧ t.nonce = Config.nonce v.nonceNo
              ∧ (t.level = 1 ∨ t.level = 2 ∧ s.attached = false)
              ∧ Config.verifies (leBytes 8 t.uid.toNat ++ t.nonce ++ [BitVec.ofNat 8 t.level.toNat]) t.sig = true
            (good → exec (.debugToken t) s = .next { s with svr := { v with dbgLevel := t.level, nonceOk := false } })
            ∧ (¬ good → exec (.debugToken t) s = .next s)))

/-! ### Control space (spec/16) -/

/-- R537, R538: SVR_PART_p_CFG. A write is discarded, with no field changed, while a job is attached to p, for an empty rectangle with
EN 1, or for one that shares a sheet with another enabled partition; else it sets the rectangle and EN, and STEAL where the feature is
accepted. -/
def Obligations.PartitionRectangles : Prop :=
  ∀ (s : State) (p : Nat) (v : W64), s.rst.inReset = false → p < 16 →
    let bits (w : W32) (k n : Nat) : Nat := w.toNat / 2 ^ k % 2 ^ n
    -- the sheet in column x, row y lies in the enabled rectangle of w
    let holds (w : W32) (x y : Nat) : Prop := bits w 0 1 = 1 ∧ bits w 8 2 ≤ x ∧ x ≤ bits w 12 2 ∧ bits w 10 2 ≤ y ∧ y ≤ bits w 14 2
    let c : W32 := v.setWidth 32 &&& 0xFF03
    let refused : Prop := (s.part p).job.isSome = true
      ∨ bits c 0 1 = 1 ∧ (bits c 12 2 < bits c 8 2 ∨ bits c 14 2 < bits c 10 2
          ∨ ∃ q, q < 16 ∧ q ≠ p ∧ ∃ x y, x < 4 ∧ y < 4 ∧ holds c x y ∧ holds (s.part q).cfg x y)
    (refused → exec (.svrPartCfgWrite p v) s = .next s)
    ∧ (¬ refused → ∃ w : W32,
        let t := s.updPart p fun x => { x with cfg := w }
        exec (.svrPartCfgWrite p v) s = .next t ∧ w &&& 0xFF01 = c &&& 0xFF01 ∧ w &&& ~~~0xFF03 = 0
        ∧ w.getLsbD 1 = (if s.feature featSteal then c.getLsbD 1 else (s.part p).cfg.getLsbD 1)
        ∧ ∀ x y, x < 4 → y < 4 → (holds w x y ↔ (t.part p).hasSheet (4 * y + x) = true))

/-- R10, R11, R531 to R536 and the register index: a control-space write. A wrong size or alignment is an Unsupported Request
with no effect; an 8-byte write has the effect of the register at its offset, and of no register where none is listed; a 4-byte
write changes the half it addresses and is ignored by the five registers of R533; W1C and RW1S bits act where 1 is
written; job-guarded registers discard a write while a job is attached; a VF reaches its own page and queues only. -/
def Obligations.ControlSpaceWrites : Prop :=
  ∀ s : State, s.rst.inReset = false → s.host.linkUp = true →
    let write (off : Nat) (v : W64) : Host.Outcome State Fault Refusal := exec (.registerWrite 0 off 8 v) s
    let low (v : W64) : W64 := v &&& 0xFFFFFFFF
    let none_ (off : Nat) : Prop := ∀ v, write off v = .next s
    -- R533
    (∀ f off size v, (f = 0 ∨ s.vfOn f = true) → ¬ (size = 8 ∧ off % 8 = 0) → ¬ (size = 4 ∧ off % 4 = 0) →
        exec (.registerWrite f off size v) s = .next { s with responses := s.responses ++ [.bar f none] })
    ∧ (∀ off v, off ∈ [0x10018, 0x60008, 0x100040] ∨ (∃ p < 16, off = 0x11000 + 0x20 * p) ∨ (∃ q < 256, off = 0x104010 + 0x40 * q) →
        exec (.registerWrite 0 off 4 v) s = .next s ∧ exec (.registerWrite 0 (off + 4) 4 v) s = .next s)
    -- registers with a command of their own
    ∧ (∀ v, write 0x20000 v = exec (.pwrStepWrite v) s ∧ write 0x20008 v = exec (.pwrCapWrite v) s
        ∧ write 0x20018 v = exec (.pwrFixedWrite v) s ∧ write 0x10000 v = exec (.merCfgWrite v) s ∧ write 0x10018 v = exec (.merSet v) s
        ∧ write 0x1000000 v = exec (.memTileCfgWrite v) s
        ∧ write 8 v = exec (.sweepRequest ((v >>> 16).setWidth 16)) s
        ∧ write 0x100108 v = exec (.hqEvtCfgWrite 0 v) s ∧ write 0x100110 v = exec (.hqEvtHeadWrite 0 v) s)
    ∧ (∀ p < 16, ∀ v, write (0x1000 + 0x80 * p) v = exec (.svrPartCfgWrite p v) s
        ∧ write (0x11000 + 0x20 * p) v = exec (.merPartLaunchWrite p v) s
        ∧ ∀ n < 256, write (0x1010000 + 0x1000 * p + 0x10 * n) v = exec (.regionTableWrite p n false v) s
            ∧ write (0x1010008 + 0x1000 * p + 0x10 * n) v = exec (.regionTableWrite p n true v) s)
    ∧ (∀ q < 256, ∀ v, write (0x104020 + 0x40 * q) v = exec (.hqQTailWrite q v) s
        ∧ write (0x104028 + 0x40 * q) v = exec (.hqQJheadWrite q v) s)
    -- W1C
    ∧ (∀ v : W64, write 0 v = .next (s.updSvr fun k => { k with chainMoved := k.chainMoved && !(s.clears 0 v).getLsbD 31 })
        ∧ write 0x20010 v = .next (if (s.clears 0x20010 v).getLsbD 6 && s.pwr.sensflag then
            s.updPwr fun k => { k with sensflag := false, negDis := 0 } else s)
        ∧ write 0x10008 v = .next (s.updMer fun k => { k with stepped := k.stepped && !(s.clears 0x10008 v).getLsbD 9 })
        ∧ (∀ p < 16, write (0x11008 + 0x20 * p) v =
            .next (s.updPart p fun k => { k with wref := k.wref && !(s.clears (0x11008 + 0x20 * p) v).getLsbD 2 }))
        ∧ (∀ n < 12, write (0x41000 + 0x20 * n) v =
            .next (s.updPort n fun k => { k with lanefail := k.lanefail &&& ~~~((s.clears (0x41000 + 0x20 * n) v >>> 32).setWidth 4) }))
        ∧ ∀ q < 256, write (0x104030 + 0x40 * q) v = .next (s.updQueue q fun k =>
            { k with seqerr := k.seqerr && !(s.clears (0x104030 + 0x40 * q) v).getLsbD 8 }))
    -- what hardware has set in the same management cycle stays set, and what it has not is cleared (R12)
    ∧ (∀ a b v k, ((s.hwSet a b).clears a v).getLsbD k = ((s.clears a v).getLsbD k && !b.getLsbD k))
    ∧ (s.justSet = [] → ∀ a v, s.clears a v = v)
    -- registers that are written only while no job is attached
    ∧ (∀ p < 16, ∀ v : W64,
        let t := 0x42000 + 0x20 * p
        let k := 0x51000 + 0x80 * p
        ((s.part p).job.isSome = true → ∀ o, o < 0x18 → o % 8 = 0 → write (t + o) v = .next s)
        ∧ ((s.part p).job.isSome = true → ∀ o, o < 0x80 → o % 8 = 0 → write (k + o) v = .next s)
        ∧ ((s.part p).job = none →
            write t v = .next (s.updPart p fun x => { x with ctab := v &&& ~~~0x3F })
            ∧ write (t + 8) v = .next (s.updPart p fun x => { x with gtab := v &&& ~~~0x3F })
            ∧ write (t + 16) v = .next (s.updPart p fun x => { x with grec := v &&& ~~~0x3F })
            ∧ write k v = .next (s.updPart p fun x => { x with
                cwp := (v >>> 48).setWidth 16, smdelay := BitVec.ofNat 16 (max 100 (v.toNat / 2 ^ 32 % 65536))
                surveyRate := if s.feature featSurvey then v.setWidth 2 else x.surveyRate })
            ∧ (v.toNat % 8 = 0 → write (k + 0x10) v = .next (s.updPart p fun x => { x with ccell := v }))
            ∧ (v.toNat % 8 ≠ 0 → write (k + 0x10) v = .next s)
            ∧ (∀ n < 4, write (k + 0x18 + 8 * n) v = .next (s.updPart p fun x => { x with survey := Sparse.put 0 x.survey n v }))
            ∧ write (k + 0x38) v = .next (if s.feature featOverlay then s.updPart p fun x => { x with ovlCfg := v &&& 0x7FFF00F1 } else s)
            ∧ write (k + 0x40) v = .next (s.updPart p fun x => { x with ovlBuf := v &&& ~~~0xFFF })
            -- a 4-byte write changes one half
            ∧ (v.toNat % 8 = 0 → exec (.registerWrite 0 (k + 0x10) 4 v) s =
                .next (s.updPart p fun x => { x with ccell := ((x.ccell >>> 32) <<< 32) ||| low v }))
            ∧ exec (.registerWrite 0 (k + 0x44) 4 v) s =
                .next (s.updPart p fun x => { x with ovlBuf := (low x.ovlBuf ||| (v <<< 32)) &&& ~~~0xFFF })))
    -- registers that ignore writes, and offsets outside a listed register
    ∧ (∀ off, (off ∈ [0x10, 0x18, 0x10010, 0x20020, 0x20028, 0x20030, 0x40000, 0x60000, 0x60010, 0x60018, 0x60020, 0x60028, 0x60030, 0x60038,
          0x100000, 0x100008, 0x100010, 0x100018, 0x100118]
        ∨ 0x30000 ≤ off ∧ off < 0x40000 ∨ 0x60040 ≤ off ∧ off < 0x100000 ∨ 0x110000 ≤ off ∧ off < 0x1000000 ∨ 0x1020000 ≤ off
        ∨ ∃ n < 8, off = 0x1000100 + 8 * n) → off % 8 = 0 → none_ off)
    -- a VF
    ∧ ∀ f, s.vfOn f = true → f ≠ 0 → ∀ v : W64,
        (∀ q < 256, (s.queue q).func.toNat ≠ f → ∀ o < 0x40, o % 8 = 0 → exec (.registerWrite f (0x4000 + 0x40 * q + o) 8 v) s = .next s)
        ∧ (∀ q < 256, (s.queue q).func.toNat = f → exec (.registerWrite f (0x4020 + 0x40 * q) 8 v) s = exec (.hqQTailWrite q v) s)
        ∧ (∀ off, (0x120 ≤ off ∧ off < 0x4000 ∨ 0x8000 ≤ off) → off % 8 = 0 → exec (.registerWrite f off 8 v) s = .next s)
        ∧ (f < 17 → exec (.registerWrite f 0x108 8 v) s = exec (.hqEvtCfgWrite f v) s)

/-! ### Reset values and the whole machine -/

/-- R536, R537, Tables 8-5, 14-2, 14-4, 14-5, 11-7 and 16-11: the reset values of registers whose reset value the spec gives, in the state
right after reset, with its empty queue, empty core tables and memories in canonical form. -/
def Obligations.ResetValues : Prop :=
  let s := State.reset
  s.pending = [] ∧ s.cores = [] ∧ s.net = [] ∧ s.mem.bytes = [] ∧ s.mem.tileCfg = 0
  ∧ s.readReg 0 0x1000 = 0xF001 ∧ (∀ p, 1 ≤ p → p < 16 → s.readReg 0 (0x1000 + 0x80 * p) = 0)
  ∧ (s.part 0).cfg = 0xF003 ∧ (∀ p, 1 ≤ p → p < 16 → (s.part p).cfg = 2)
  ∧ s.pwr.req = 2 ∧ s.granted = 2 ∧ s.limitCode = 0 ∧ s.readReg 0 0x20000 = 0x202 ∧ s.readReg 0 0x20008 = 3600
  ∧ s.readReg 0 0x20010 = 0 ∧ s.readReg 0 0x20018 = 0x20 ∧ s.readReg 0 0x20020 = 0 ∧ s.readReg 0 0x20028 = 0
  ∧ (∀ n < 8, (s.stack n).selfref = true) ∧ (∀ p < 16, (s.part p).cwp = 0xFFFF ∧ (s.part p).smdelay = 500 ∧ (s.part p).ccell = 0)
  ∧ (∀ q < 256, s.queue q = {}) ∧ s.svr.idoff = 0 ∧ s.svr.smbAddr = none
  ∧ s.memoriesCanonical

/-- The model's choice (log 1), no rule of the spec: a step on an empty queue lets one meridian tick pass. In reset only time passes;
out of reset MER_COUNT grows by one (R397), and in a tick that neither ends the copy of a page nor refuses a packet nothing changes
but the clocks, the cores' counters and the ports' streams: no register, memory, waypoint or ink cell, and no packet of the mesh
is lost but those that a port takes or that route over a lost port. The bits that hardware has set in a management cycle, 10 ticks,
count as set in the same cycle until it ends (R12). -/
def Obligations.EmptyQueueLetsATickPass : Prop :=
  ∀ s : State, s.pending = [] →
    let set := if s.now % 10 = 9 then [] else s.justSet
    ∃ t : State, step s = .next t ∧ t.now = s.now + 1 ∧ t.pending = []
      ∧ (s.rst.inReset = true → t = { s with now := s.now + 1, justSet := set })
      ∧ (s.rst.inReset = false → (∀ x ∈ s.mem.copies, s.now + 1 < x.2) → (∀ p ∈ s.net, ∀ code, s.outgoing p ≠ some (.refuse code)) →
          { t with now := s.now, justSet := s.justSet, cores := s.cores, mer := s.mer, pwr := s.pwr, fab := s.fab, net := s.net } = s
          ∧ t.justSet = set ∧ t.net.Sublist s.net ∧ { t.fab with ports := s.fab.ports } = s.fab
          ∧ t.mer.count = s.mer.count + 1 ∧ { t.mer with count := s.mer.count, treqSent := s.mer.treqSent } = s.mer
          ∧ (∀ n < 12, (s.port n).streams = false → t.port n = s.port n)
          ∧ (s.pwr.stop ≠ 0 → t.cores = s.cores ∧ t.pwr = { s.pwr with stop := s.pwr.stop - 1 })
          ∧ (s.pwr.stop = 0 → { t.pwr with clkPhase := s.pwr.clkPhase, hold := s.pwr.hold } = s.pwr)
          ∧ ∀ c, let k := s.core c
              { t.core c with cycle := k.cycle, busy := k.busy, idle := k.idle, repeatLeft := k.repeatLeft } = k)

/-- The stacked memory and the host's memory keep their canonical form, so that equal memories are equal data, whichever command the
step takes. -/
def Obligations.StepKeepsMemoriesCanonical : Prop :=
  ∀ s t : State, s.memoriesCanonical → step s = .next t → t.memoriesCanonical

/-- R534 for the model's queue: every command is applied, in the order it stands. In every state, with every operand, each command of
the table answers a next state: none faults and none is refused. -/
def Obligations.EveryCommandAnswers : Prop :=
  ∀ (i : Instr) (s : State), ∃ t : State, exec i s = .next t
end

