-- ==== Sys2Proof/Laws/Sparse.lean ====
section
/-! SUPPORT. Sparse tables: what a read finds after a write, and that every operation keeps the canonical form. -/

namespace Sys2Proof.Sparse

variable {α : Type}

/-- The propositional canonical form: keys strictly rising, no default value. -/
def Wf (d : α) (m : Sparse α) : Prop := m.Pairwise (fun a b => a.1 < b.1) ∧ ∀ e ∈ m, e.2 ≠ d

theorem get_of_lt (d : α) : ∀ (m : Sparse α) (k : Nat), (∀ e ∈ m, k < e.1) → get d m k = d
  | [], _, _ => rfl
  | (j, a) :: r, k, h => by
    have hj : k < j := h (j, a) (by simp)
    simp only [get]
    rw [if_neg (by omega)]
    exact get_of_lt d r k fun e he => h e (by simp [he])

theorem get_of_ne (d : α) : ∀ (m : Sparse α) (k : Nat), (∀ e ∈ m, e.1 ≠ k) → get d m k = d
  | [], _, _ => rfl
  | (j, a) :: r, k, h => by
    simp only [get]
    rw [if_neg (h (j, a) (by simp))]
    exact get_of_ne d r k fun e he => h e (by simp [he])

theorem get_erase_same (d : α) (m : Sparse α) (k : Nat) : get d (erase m k) k = d :=
  get_of_ne d _ k fun e he => by
    simp only [erase, List.mem_filter, bne_iff_ne] at he
    exact he.2

theorem get_erase_other (d : α) : ∀ (m : Sparse α) (k j : Nat), j ≠ k → get d (erase m k) j = get d m j
  | [], _, _, _ => rfl
  | (i, a) :: r, k, j, h => by
    have ih := get_erase_other d r k j h
    simp only [erase] at ih ⊢
    by_cases hik : i = k
    · subst hik
      simp [get, ih, Ne.symm h]
    · simp [hik, get, ih]

theorem get_insertAt_same (d : α) : ∀ (m : Sparse α) (k : Nat) (v : α), (∀ e ∈ m, e.1 ≠ k) → get d (insertAt k v m) k = v
  | [], k, v, _ => by simp [insertAt, get]
  | (j, a) :: r, k, v, h => by
    simp only [insertAt]
    split
    · simp [get]
    · have hj : j ≠ k := h (j, a) (by simp)
      simp only [get, hj, if_false]
      exact get_insertAt_same d r k v fun e he => h e (by simp [he])

theorem get_insertAt_other (d : α) : ∀ (m : Sparse α) (k j : Nat) (v : α), j ≠ k → get d (insertAt k v m) j = get d m j
  | [], k, j, v, h => by simp [insertAt, get, Ne.symm h]
  | (i, a) :: r, k, j, v, h => by
    simp only [insertAt]
    split
    · simp [get, Ne.symm h]
    · simp only [get]
      rw [get_insertAt_other d r k j v h]

/-- A write is read back. -/
@[simp] theorem get_put_same [DecidableEq α] (d : α) (m : Sparse α) (k : Nat) (v : α) : get d (put d m k v) k = v := by
  unfold put
  split
  · next h => rw [h, get_erase_same]
  · exact get_insertAt_same d _ k v fun e he => by
      simp only [erase, List.mem_filter, bne_iff_ne] at he
      exact he.2

/-- A write leaves every other entry alone. -/
theorem get_put_other [DecidableEq α] (d : α) (m : Sparse α) (k j : Nat) (v : α) (h : j ≠ k) :
    get d (put d m k v) j = get d m j := by
  unfold put
  split
  · exact get_erase_other d m k j h
  · rw [get_insertAt_other d _ k j v h, get_erase_other d m k j h]

/-- An update is read back. -/
@[simp] theorem get_upd_same [DecidableEq α] (d : α) (m : Sparse α) (k : Nat) (f : α → α) :
    get d (upd d m k f) k = f (get d m k) := get_put_same d m k _

/-- An update leaves every other entry alone. -/
theorem get_upd_other [DecidableEq α] (d : α) (m : Sparse α) (k j : Nat) (f : α → α) (h : j ≠ k) :
    get d (upd d m k f) j = get d m j := get_put_other d m k j _ h

theorem erase_erase (m : Sparse α) (k : Nat) : erase (erase m k) k = erase m k := by
  simp [erase, List.filter_filter]

theorem erase_insertAt (k : Nat) (v : α) : ∀ m : Sparse α, erase (insertAt k v m) k = erase m k
  | [] => by simp [insertAt, erase]
  | (j, a) :: r => by
    have ih := erase_insertAt k v r
    simp only [insertAt]
    split
    · simp [erase]
    · simp only [erase, List.filter_cons] at ih ⊢
      rw [ih]

/-- The later of two writes to one key stands. -/
@[simp] theorem put_put [DecidableEq α] (d : α) (m : Sparse α) (k : Nat) (v w : α) : put d (put d m k v) k w = put d m k w := by
  have he : erase (put d m k v) k = erase m k := by
    unfold put
    split
    · exact erase_erase m k
    · rw [erase_insertAt, erase_erase]
  unfold put at he ⊢
  rw [he]

/-- Two changes of one entry are one change. -/
@[simp] theorem upd_upd [DecidableEq α] (d : α) (m : Sparse α) (k : Nat) (f g : α → α) :
    upd d (upd d m k f) k g = upd d m k (fun a => g (f a)) := by
  simp [upd]

/-! ### The canonical form -/

theorem Wf.nil (d : α) : Wf d [] := ⟨List.Pairwise.nil, by simp⟩

theorem Wf.tail {d : α} {e : Nat × α} {m : Sparse α} (h : Wf d (e :: m)) : Wf d m :=
  ⟨(List.pairwise_cons.mp h.1).2, fun x hx => h.2 x (by simp [hx])⟩

/-- The decidable form and the propositional one agree. -/
theorem wf_iff [DecidableEq α] (d : α) : ∀ m : Sparse α, wf d m = true ↔ Wf d m
  | [] => by simp [wf, Wf]
  | (j, a) :: [] => by simp [wf, Wf]
  | (j, a) :: (k, b) :: r => by
    have ih := wf_iff d ((k, b) :: r)
    simp only [wf, Bool.and_eq_true, decide_eq_true_eq]
    rw [ih]
    constructor
    · rintro ⟨⟨ha, hjk⟩, hp, hv⟩
      refine ⟨List.pairwise_cons.mpr ⟨?_, hp⟩, ?_⟩
      · intro e he
        rcases List.mem_cons.mp he with rfl | he'
        · exact hjk
        · exact Nat.lt_trans hjk ((List.pairwise_cons.mp hp).1 e he')
      · intro e he
        rcases List.mem_cons.mp he with rfl | he'
        · exact ha
        · exact hv e he'
    · rintro ⟨hp, hv⟩
      exact ⟨⟨hv (j, a) (by simp), (List.pairwise_cons.mp hp).1 (k, b) (by simp)⟩,
        (List.pairwise_cons.mp hp).2, fun e he => hv e (List.mem_cons_of_mem _ he)⟩

theorem Wf.filter {d : α} {m : Sparse α} (h : Wf d m) (p : Nat × α → Bool) : Wf d (m.filter p) :=
  ⟨h.1.filter p, fun e he => h.2 e (List.mem_filter.mp he).1⟩

theorem Wf.erase {d : α} {m : Sparse α} (h : Wf d m) (k : Nat) : Wf d (erase m k) := h.filter _

theorem mem_insertAt (k : Nat) (v : α) : ∀ (m : Sparse α) (e : Nat × α), e ∈ insertAt k v m → e = (k, v) ∨ e ∈ m
  | [], e, h => by simpa [insertAt] using h
  | (j, a) :: r, e, h => by
    simp only [insertAt] at h
    split at h
    · simpa using h
    · rcases List.mem_cons.mp h with rfl | h'
      · simp
      · rcases mem_insertAt k v r e h' with rfl | hr
        · simp
        · simp [hr]

theorem Wf.insertAt {d : α} {k : Nat} {v : α} (hv : v ≠ d) :
    ∀ {m : Sparse α}, Wf d m → (∀ e ∈ m, e.1 ≠ k) → Wf d (insertAt k v m)
  | [], _, _ => by
    simp only [Sparse.insertAt]
    exact ⟨by simp, by simpa using hv⟩
  | (j, a) :: r, h, hk => by
    have hp := List.pairwise_cons.mp h.1
    simp only [Sparse.insertAt]
    split
    · next hlt =>
      refine ⟨List.pairwise_cons.mpr ⟨?_, h.1⟩, ?_⟩
      · intro e he
        rcases List.mem_cons.mp he with rfl | he'
        · exact hlt
        · exact Nat.lt_trans hlt (hp.1 e he')
      · intro e he
        rcases List.mem_cons.mp he with rfl | he'
        · exact hv
        · exact h.2 e he'
    · next hge =>
      have hjk : j < k := by
        have := hk (j, a) (by simp)
        simp only [ne_eq] at this
        omega
      have ih := Wf.insertAt hv h.tail fun e he => hk e (List.mem_cons_of_mem _ he)
      refine ⟨List.pairwise_cons.mpr ⟨?_, ih.1⟩, ?_⟩
      · intro e he
        rcases mem_insertAt k v r e he with rfl | hr
        · exact hjk
        · exact hp.1 e hr
      · intro e he
        rcases List.mem_cons.mp he with rfl | he'
        · exact h.2 (j, a) (by simp)
        · exact ih.2 e he'

theorem Wf.put [DecidableEq α] {d : α} {m : Sparse α} (h : Wf d m) (k : Nat) (v : α) : Wf d (put d m k v) := by
  unfold Sparse.put
  split
  · exact h.erase k
  · next hv =>
    exact Wf.insertAt hv (h.erase k) fun e he => by
      simp only [Sparse.erase, List.mem_filter, bne_iff_ne] at he
      exact he.2

theorem Wf.upd [DecidableEq α] {d : α} {m : Sparse α} (h : Wf d m) (k : Nat) (f : α → α) : Wf d (upd d m k f) :=
  h.put k _

theorem Wf.updAll [DecidableEq α] {d : α} (f : Nat → α → α) :
    ∀ (ks : List Nat) {m : Sparse α}, Wf d m → Wf d (updAll d m ks f)
  | [], _, h => h
  | k :: ks, _, h => Wf.updAll f ks (h.upd k (f k))

theorem Wf.mapVals [DecidableEq α] (d : α) (f : Nat → α → α) : ∀ m : Sparse α, Wf d (mapVals d m f)
  | [] => Wf.nil d
  | (k, a) :: r => (Wf.mapVals d f r).put k (f k a)

/-- Every entry is changed, when the change leaves the default alone. -/
theorem get_mapVals [DecidableEq α] (d : α) (f : Nat → α → α) (k : Nat) (hd : f k d = d) :
    ∀ m : Sparse α, get d (mapVals d m f) k = f k (get d m k)
  | [] => hd.symm
  | (j, a) :: r => by
    simp only [mapVals, get]
    by_cases h : j = k
    · subst h; simp
    · rw [get_put_other _ _ _ _ _ (Ne.symm h), if_neg h]
      exact get_mapVals d f k hd r

theorem Wf.tabulate [DecidableEq α] (d : α) (n : Nat) (f : Nat → α) : Wf d (tabulate d n f) := by
  refine ⟨?_, fun e he => ?_⟩
  · unfold Sparse.tabulate
    refine List.pairwise_filterMap.mpr ((List.pairwise_lt_range (n := n)).imp ?_)
    intro a b hab x hx y hy
    split at hx
    · cases hx
    · split at hy
      · cases hy
      · cases hx; cases hy; exact hab
  · simp only [Sparse.tabulate, List.mem_filterMap] at he
    obtain ⟨k, -, hk⟩ := he
    split at hk
    · cases hk
    · next hne => cases hk; exact hne

/-- An entry of a table built from a function. -/
theorem get_tabulate [DecidableEq α] (d : α) (f : Nat → α) : ∀ (n k : Nat), k < n → get d (tabulate d n f) k = f k := by
  intro n
  induction n with
  | zero => intro k hk; omega
  | succ n ih =>
    intro k hk
    have app : ∀ (a b : Sparse α), (∀ e ∈ a, e.1 ≠ k) → get d (a ++ b) k = get d b k := by
      intro a
      induction a with
      | nil => intro b _; rfl
      | cons e a iha =>
        intro b hb
        obtain ⟨j, x⟩ := e
        have hj : j ≠ k := hb (j, x) (by simp)
        simp only [List.cons_append, get, hj, if_false]
        exact iha b fun e he => hb e (by simp [he])
    have appl : ∀ (a b : Sparse α), (∀ e ∈ b, e.1 ≠ k) → get d (a ++ b) k = get d a k := by
      intro a
      induction a with
      | nil => intro b hb; exact get_of_ne d b k hb
      | cons e a iha =>
        intro b hb
        obtain ⟨j, x⟩ := e
        simp only [List.cons_append, get]
        rw [iha b hb]
    have hs : tabulate d (n + 1) f = tabulate d n f ++ (if f n = d then [] else [(n, f n)]) := by
      unfold tabulate
      rw [List.range_succ, List.filterMap_append]
      by_cases h : f n = d <;> simp [h]
    have hlt : ∀ e ∈ tabulate d n f, e.1 < n := by
      intro e he
      simp only [tabulate, List.mem_filterMap, List.mem_range] at he
      obtain ⟨j, hj, hje⟩ := he
      split at hje
      · cases hje
      · cases hje; exact hj
    rw [hs]
    by_cases hkn : k = n
    · subst hkn
      rw [app _ _ fun e he => by have := hlt e he; omega]
      by_cases h : f k = d <;> simp [h, get]
    · rw [appl _ _ fun e he => by
        by_cases h : f n = d <;> simp [h] at he
        subst he; simpa using Ne.symm hkn]
      exact ih k (by omega)

end Sys2Proof.Sparse

namespace Sys2Proof.Memory

/-- A stored byte is read back. -/
@[simp] theorem read_write_same (m : Memory) (a : Nat) (b : Byte) : (Memory.write m a b).read a = b :=
  Sparse.get_put_same 0 m a b

/-- A store leaves every other byte alone. -/
theorem read_write_other (m : Memory) (a x : Nat) (b : Byte) (h : x ≠ a) : (Memory.write m a b).read x = Memory.read m x :=
  Sparse.get_put_other 0 m a x b h

/-- Stored bytes: a byte outside the range keeps its value. -/
theorem read_writeBytes_outside :
    ∀ (bs : List Byte) (m : Memory) (a x : Nat), (x < a ∨ a + bs.length ≤ x) →
      (Memory.writeBytes m a bs).read x = Memory.read m x
  | [], _, _, _, _ => rfl
  | b :: r, m, a, x, h => by
    simp only [Memory.writeBytes, List.length_cons] at h ⊢
    rw [read_writeBytes_outside r (Memory.write m a b) (a + 1) x (by omega)]
    exact read_write_other m a x b (by omega)

/-- Stored bytes: the byte at offset `i` of the range is the `i`-th. -/
theorem read_writeBytes_inside :
    ∀ (bs : List Byte) (m : Memory) (a i : Nat) (h : i < bs.length), (Memory.writeBytes m a bs).read (a + i) = bs[i]
  | b :: r, m, a, 0, _ => by
    simp only [Memory.writeBytes]
    rw [read_writeBytes_outside r (Memory.write m a b) (a + 1) (a + 0) (by omega)]
    exact read_write_same m a b
  | b :: r, m, a, i + 1, h => by
    simp only [Memory.writeBytes]
    have := read_writeBytes_inside r (Memory.write m a b) (a + 1) i (by simpa using h)
    rw [show a + (i + 1) = a + 1 + i by omega, this]
    rfl

/-- What is stored is what is read. -/
theorem readBytes_writeBytes (bs : List Byte) (m : Memory) (a : Nat) :
    (Memory.writeBytes m a bs).readBytes a bs.length = bs := by
  have key : ∀ (k : Nat) (n : Memory) (x : Nat) (cs : List Byte), cs.length = k →
      (∀ i (h : i < cs.length), n.read (x + i) = cs[i]) → n.readBytes x k = cs := by
    intro k
    induction k with
    | zero => intro n x cs hl _; simp [Memory.readBytes, List.length_eq_zero_iff.mp hl]
    | succ k ih =>
      intro n x cs hl h
      match cs, hl with
      | c :: r, hl =>
        simp only [Memory.readBytes]
        have h0 := h 0 (by simp)
        simp only [Nat.add_zero, List.getElem_cons_zero] at h0
        rw [h0, ih n (x + 1) r (by simpa using hl) fun i hi => by
          have := h (i + 1) (by simpa using hi)
          rw [show x + 1 + i = x + (i + 1) by omega, this]
          rfl]
  exact key bs.length _ a bs rfl fun i hi => read_writeBytes_inside bs m a i hi

theorem write_wf {m : Memory} (h : Sparse.Wf 0 m) (a : Nat) (b : Byte) : Sparse.Wf 0 (Memory.write m a b) := h.put a b

/-- A range store keeps the canonical form. -/
theorem writeBytes_wf : ∀ (bs : List Byte) {m : Memory} (a : Nat), Sparse.Wf 0 m → Sparse.Wf 0 (Memory.writeBytes m a bs)
  | [], _, _, h => h
  | b :: r, _, a, h => writeBytes_wf r (a + 1) (write_wf h a b)

end Sys2Proof.Memory
end

