-- ==== Sys2Proof/Laws/State.lean ====
section
/-! SUPPORT. One lemma per field and named update of State, true by unfolding: a proof reads a field of an updated state
without seeing the update. -/

namespace Sys2Proof.Machine.State

variable (s : State)

@[simp] theorem updCore_pending (c : CoreId) (f : Core → Core) : (s.updCore c f).pending = s.pending := rfl
@[simp] theorem updCore_now (c : CoreId) (f : Core → Core) : (s.updCore c f).now = s.now := rfl
@[simp] theorem updCore_justSet (c : CoreId) (f : Core → Core) : (s.updCore c f).justSet = s.justSet := rfl
@[simp] theorem updCore_net (c : CoreId) (f : Core → Core) : (s.updCore c f).net = s.net := rfl
@[simp] theorem updCore_notices (c : CoreId) (f : Core → Core) : (s.updCore c f).notices = s.notices := rfl
@[simp] theorem updCore_responses (c : CoreId) (f : Core → Core) : (s.updCore c f).responses = s.responses := rfl
@[simp] theorem updCore_cores (c : CoreId) (f : Core → Core) : (s.updCore c f).cores = Sparse.upd {} s.cores c f := rfl
@[simp] theorem updCore_wps (c : CoreId) (f : Core → Core) : (s.updCore c f).wps = s.wps := rfl
@[simp] theorem updCore_inks (c : CoreId) (f : Core → Core) : (s.updCore c f).inks = s.inks := rfl
@[simp] theorem updCore_subs (c : CoreId) (f : Core → Core) : (s.updCore c f).subs = s.subs := rfl
@[simp] theorem updCore_mem (c : CoreId) (f : Core → Core) : (s.updCore c f).mem = s.mem := rfl
@[simp] theorem updCore_parts (c : CoreId) (f : Core → Core) : (s.updCore c f).parts = s.parts := rfl
@[simp] theorem updCore_mer (c : CoreId) (f : Core → Core) : (s.updCore c f).mer = s.mer := rfl
@[simp] theorem updCore_pwr (c : CoreId) (f : Core → Core) : (s.updCore c f).pwr = s.pwr := rfl
@[simp] theorem updCore_fab (c : CoreId) (f : Core → Core) : (s.updCore c f).fab = s.fab := rfl
@[simp] theorem updCore_host (c : CoreId) (f : Core → Core) : (s.updCore c f).host = s.host := rfl
@[simp] theorem updCore_rst (c : CoreId) (f : Core → Core) : (s.updCore c f).rst = s.rst := rfl
@[simp] theorem updCore_bkp (c : CoreId) (f : Core → Core) : (s.updCore c f).bkp = s.bkp := rfl
@[simp] theorem updCore_mram (c : CoreId) (f : Core → Core) : (s.updCore c f).mram = s.mram := rfl
@[simp] theorem updCore_svr (c : CoreId) (f : Core → Core) : (s.updCore c f).svr = s.svr := rfl

@[simp] theorem updPart_pending (p : Nat) (f : Part → Part) : (s.updPart p f).pending = s.pending := rfl
@[simp] theorem updPart_now (p : Nat) (f : Part → Part) : (s.updPart p f).now = s.now := rfl
@[simp] theorem updPart_justSet (p : Nat) (f : Part → Part) : (s.updPart p f).justSet = s.justSet := rfl
@[simp] theorem updPart_net (p : Nat) (f : Part → Part) : (s.updPart p f).net = s.net := rfl
@[simp] theorem updPart_notices (p : Nat) (f : Part → Part) : (s.updPart p f).notices = s.notices := rfl
@[simp] theorem updPart_responses (p : Nat) (f : Part → Part) : (s.updPart p f).responses = s.responses := rfl
@[simp] theorem updPart_cores (p : Nat) (f : Part → Part) : (s.updPart p f).cores = s.cores := rfl
@[simp] theorem updPart_wps (p : Nat) (f : Part → Part) : (s.updPart p f).wps = s.wps := rfl
@[simp] theorem updPart_inks (p : Nat) (f : Part → Part) : (s.updPart p f).inks = s.inks := rfl
@[simp] theorem updPart_subs (p : Nat) (f : Part → Part) : (s.updPart p f).subs = s.subs := rfl
@[simp] theorem updPart_mem (p : Nat) (f : Part → Part) : (s.updPart p f).mem = s.mem := rfl
@[simp] theorem updPart_parts (p : Nat) (f : Part → Part) : (s.updPart p f).parts = Sparse.upd {} s.parts p f := rfl
@[simp] theorem updPart_mer (p : Nat) (f : Part → Part) : (s.updPart p f).mer = s.mer := rfl
@[simp] theorem updPart_pwr (p : Nat) (f : Part → Part) : (s.updPart p f).pwr = s.pwr := rfl
@[simp] theorem updPart_fab (p : Nat) (f : Part → Part) : (s.updPart p f).fab = s.fab := rfl
@[simp] theorem updPart_host (p : Nat) (f : Part → Part) : (s.updPart p f).host = s.host := rfl
@[simp] theorem updPart_rst (p : Nat) (f : Part → Part) : (s.updPart p f).rst = s.rst := rfl
@[simp] theorem updPart_bkp (p : Nat) (f : Part → Part) : (s.updPart p f).bkp = s.bkp := rfl
@[simp] theorem updPart_mram (p : Nat) (f : Part → Part) : (s.updPart p f).mram = s.mram := rfl
@[simp] theorem updPart_svr (p : Nat) (f : Part → Part) : (s.updPart p f).svr = s.svr := rfl

@[simp] theorem updWp_pending (w : Nat) (f : Waypoint → Waypoint) : (s.updWp w f).pending = s.pending := rfl
@[simp] theorem updWp_now (w : Nat) (f : Waypoint → Waypoint) : (s.updWp w f).now = s.now := rfl
@[simp] theorem updWp_justSet (w : Nat) (f : Waypoint → Waypoint) : (s.updWp w f).justSet = s.justSet := rfl
@[simp] theorem updWp_net (w : Nat) (f : Waypoint → Waypoint) : (s.updWp w f).net = s.net := rfl
@[simp] theorem updWp_notices (w : Nat) (f : Waypoint → Waypoint) : (s.updWp w f).notices = s.notices := rfl
@[simp] theorem updWp_responses (w : Nat) (f : Waypoint → Waypoint) : (s.updWp w f).responses = s.responses := rfl
@[simp] theorem updWp_cores (w : Nat) (f : Waypoint → Waypoint) : (s.updWp w f).cores = s.cores := rfl
@[simp] theorem updWp_wps (w : Nat) (f : Waypoint → Waypoint) : (s.updWp w f).wps = Sparse.upd {} s.wps w f := rfl
@[simp] theorem updWp_inks (w : Nat) (f : Waypoint → Waypoint) : (s.updWp w f).inks = s.inks := rfl
@[simp] theorem updWp_subs (w : Nat) (f : Waypoint → Waypoint) : (s.updWp w f).subs = s.subs := rfl
@[simp] theorem updWp_mem (w : Nat) (f : Waypoint → Waypoint) : (s.updWp w f).mem = s.mem := rfl
@[simp] theorem updWp_parts (w : Nat) (f : Waypoint → Waypoint) : (s.updWp w f).parts = s.parts := rfl
@[simp] theorem updWp_mer (w : Nat) (f : Waypoint → Waypoint) : (s.updWp w f).mer = s.mer := rfl
@[simp] theorem updWp_pwr (w : Nat) (f : Waypoint → Waypoint) : (s.updWp w f).pwr = s.pwr := rfl
@[simp] theorem updWp_fab (w : Nat) (f : Waypoint → Waypoint) : (s.updWp w f).fab = s.fab := rfl
@[simp] theorem updWp_host (w : Nat) (f : Waypoint → Waypoint) : (s.updWp w f).host = s.host := rfl
@[simp] theorem updWp_rst (w : Nat) (f : Waypoint → Waypoint) : (s.updWp w f).rst = s.rst := rfl
@[simp] theorem updWp_bkp (w : Nat) (f : Waypoint → Waypoint) : (s.updWp w f).bkp = s.bkp := rfl
@[simp] theorem updWp_mram (w : Nat) (f : Waypoint → Waypoint) : (s.updWp w f).mram = s.mram := rfl
@[simp] theorem updWp_svr (w : Nat) (f : Waypoint → Waypoint) : (s.updWp w f).svr = s.svr := rfl

@[simp] theorem updInk_pending (c : CoreId) (f : InkCore → InkCore) : (s.updInk c f).pending = s.pending := rfl
@[simp] theorem updInk_now (c : CoreId) (f : InkCore → InkCore) : (s.updInk c f).now = s.now := rfl
@[simp] theorem updInk_justSet (c : CoreId) (f : InkCore → InkCore) : (s.updInk c f).justSet = s.justSet := rfl
@[simp] theorem updInk_net (c : CoreId) (f : InkCore → InkCore) : (s.updInk c f).net = s.net := rfl
@[simp] theorem updInk_notices (c : CoreId) (f : InkCore → InkCore) : (s.updInk c f).notices = s.notices := rfl
@[simp] theorem updInk_responses (c : CoreId) (f : InkCore → InkCore) : (s.updInk c f).responses = s.responses := rfl
@[simp] theorem updInk_cores (c : CoreId) (f : InkCore → InkCore) : (s.updInk c f).cores = s.cores := rfl
@[simp] theorem updInk_wps (c : CoreId) (f : InkCore → InkCore) : (s.updInk c f).wps = s.wps := rfl
@[simp] theorem updInk_inks (c : CoreId) (f : InkCore → InkCore) : (s.updInk c f).inks = Sparse.upd {} s.inks c f := rfl
@[simp] theorem updInk_subs (c : CoreId) (f : InkCore → InkCore) : (s.updInk c f).subs = s.subs := rfl
@[simp] theorem updInk_mem (c : CoreId) (f : InkCore → InkCore) : (s.updInk c f).mem = s.mem := rfl
@[simp] theorem updInk_parts (c : CoreId) (f : InkCore → InkCore) : (s.updInk c f).parts = s.parts := rfl
@[simp] theorem updInk_mer (c : CoreId) (f : InkCore → InkCore) : (s.updInk c f).mer = s.mer := rfl
@[simp] theorem updInk_pwr (c : CoreId) (f : InkCore → InkCore) : (s.updInk c f).pwr = s.pwr := rfl
@[simp] theorem updInk_fab (c : CoreId) (f : InkCore → InkCore) : (s.updInk c f).fab = s.fab := rfl
@[simp] theorem updInk_host (c : CoreId) (f : InkCore → InkCore) : (s.updInk c f).host = s.host := rfl
@[simp] theorem updInk_rst (c : CoreId) (f : InkCore → InkCore) : (s.updInk c f).rst = s.rst := rfl
@[simp] theorem updInk_bkp (c : CoreId) (f : InkCore → InkCore) : (s.updInk c f).bkp = s.bkp := rfl
@[simp] theorem updInk_mram (c : CoreId) (f : InkCore → InkCore) : (s.updInk c f).mram = s.mram := rfl
@[simp] theorem updInk_svr (c : CoreId) (f : InkCore → InkCore) : (s.updInk c f).svr = s.svr := rfl

@[simp] theorem updHost_pending (f : HostIf → HostIf) : (s.updHost f).pending = s.pending := rfl
@[simp] theorem updHost_now (f : HostIf → HostIf) : (s.updHost f).now = s.now := rfl
@[simp] theorem updHost_justSet (f : HostIf → HostIf) : (s.updHost f).justSet = s.justSet := rfl
@[simp] theorem updHost_net (f : HostIf → HostIf) : (s.updHost f).net = s.net := rfl
@[simp] theorem updHost_notices (f : HostIf → HostIf) : (s.updHost f).notices = s.notices := rfl
@[simp] theorem updHost_responses (f : HostIf → HostIf) : (s.updHost f).responses = s.responses := rfl
@[simp] theorem updHost_cores (f : HostIf → HostIf) : (s.updHost f).cores = s.cores := rfl
@[simp] theorem updHost_wps (f : HostIf → HostIf) : (s.updHost f).wps = s.wps := rfl
@[simp] theorem updHost_inks (f : HostIf → HostIf) : (s.updHost f).inks = s.inks := rfl
@[simp] theorem updHost_subs (f : HostIf → HostIf) : (s.updHost f).subs = s.subs := rfl
@[simp] theorem updHost_mem (f : HostIf → HostIf) : (s.updHost f).mem = s.mem := rfl
@[simp] theorem updHost_parts (f : HostIf → HostIf) : (s.updHost f).parts = s.parts := rfl
@[simp] theorem updHost_mer (f : HostIf → HostIf) : (s.updHost f).mer = s.mer := rfl
@[simp] theorem updHost_pwr (f : HostIf → HostIf) : (s.updHost f).pwr = s.pwr := rfl
@[simp] theorem updHost_fab (f : HostIf → HostIf) : (s.updHost f).fab = s.fab := rfl
@[simp] theorem updHost_host (f : HostIf → HostIf) : (s.updHost f).host = f s.host := rfl
@[simp] theorem updHost_rst (f : HostIf → HostIf) : (s.updHost f).rst = s.rst := rfl
@[simp] theorem updHost_bkp (f : HostIf → HostIf) : (s.updHost f).bkp = s.bkp := rfl
@[simp] theorem updHost_mram (f : HostIf → HostIf) : (s.updHost f).mram = s.mram := rfl
@[simp] theorem updHost_svr (f : HostIf → HostIf) : (s.updHost f).svr = s.svr := rfl

@[simp] theorem updQueue_pending (q : Nat) (f : Queue → Queue) : (s.updQueue q f).pending = s.pending := rfl
@[simp] theorem updQueue_now (q : Nat) (f : Queue → Queue) : (s.updQueue q f).now = s.now := rfl
@[simp] theorem updQueue_justSet (q : Nat) (f : Queue → Queue) : (s.updQueue q f).justSet = s.justSet := rfl
@[simp] theorem updQueue_net (q : Nat) (f : Queue → Queue) : (s.updQueue q f).net = s.net := rfl
@[simp] theorem updQueue_notices (q : Nat) (f : Queue → Queue) : (s.updQueue q f).notices = s.notices := rfl
@[simp] theorem updQueue_responses (q : Nat) (f : Queue → Queue) : (s.updQueue q f).responses = s.responses := rfl
@[simp] theorem updQueue_cores (q : Nat) (f : Queue → Queue) : (s.updQueue q f).cores = s.cores := rfl
@[simp] theorem updQueue_wps (q : Nat) (f : Queue → Queue) : (s.updQueue q f).wps = s.wps := rfl
@[simp] theorem updQueue_inks (q : Nat) (f : Queue → Queue) : (s.updQueue q f).inks = s.inks := rfl
@[simp] theorem updQueue_subs (q : Nat) (f : Queue → Queue) : (s.updQueue q f).subs = s.subs := rfl
@[simp] theorem updQueue_mem (q : Nat) (f : Queue → Queue) : (s.updQueue q f).mem = s.mem := rfl
@[simp] theorem updQueue_parts (q : Nat) (f : Queue → Queue) : (s.updQueue q f).parts = s.parts := rfl
@[simp] theorem updQueue_mer (q : Nat) (f : Queue → Queue) : (s.updQueue q f).mer = s.mer := rfl
@[simp] theorem updQueue_pwr (q : Nat) (f : Queue → Queue) : (s.updQueue q f).pwr = s.pwr := rfl
@[simp] theorem updQueue_fab (q : Nat) (f : Queue → Queue) : (s.updQueue q f).fab = s.fab := rfl
@[simp] theorem updQueue_rst (q : Nat) (f : Queue → Queue) : (s.updQueue q f).rst = s.rst := rfl
@[simp] theorem updQueue_bkp (q : Nat) (f : Queue → Queue) : (s.updQueue q f).bkp = s.bkp := rfl
@[simp] theorem updQueue_mram (q : Nat) (f : Queue → Queue) : (s.updQueue q f).mram = s.mram := rfl
@[simp] theorem updQueue_svr (q : Nat) (f : Queue → Queue) : (s.updQueue q f).svr = s.svr := rfl

@[simp] theorem updFunc_pending (k : Nat) (f : Func → Func) : (s.updFunc k f).pending = s.pending := rfl
@[simp] theorem updFunc_now (k : Nat) (f : Func → Func) : (s.updFunc k f).now = s.now := rfl
@[simp] theorem updFunc_justSet (k : Nat) (f : Func → Func) : (s.updFunc k f).justSet = s.justSet := rfl
@[simp] theorem updFunc_net (k : Nat) (f : Func → Func) : (s.updFunc k f).net = s.net := rfl
@[simp] theorem updFunc_notices (k : Nat) (f : Func → Func) : (s.updFunc k f).notices = s.notices := rfl
@[simp] theorem updFunc_responses (k : Nat) (f : Func → Func) : (s.updFunc k f).responses = s.responses := rfl
@[simp] theorem updFunc_cores (k : Nat) (f : Func → Func) : (s.updFunc k f).cores = s.cores := rfl
@[simp] theorem updFunc_wps (k : Nat) (f : Func → Func) : (s.updFunc k f).wps = s.wps := rfl
@[simp] theorem updFunc_inks (k : Nat) (f : Func → Func) : (s.updFunc k f).inks = s.inks := rfl
@[simp] theorem updFunc_subs (k : Nat) (f : Func → Func) : (s.updFunc k f).subs = s.subs := rfl
@[simp] theorem updFunc_mem (k : Nat) (f : Func → Func) : (s.updFunc k f).mem = s.mem := rfl
@[simp] theorem updFunc_parts (k : Nat) (f : Func → Func) : (s.updFunc k f).parts = s.parts := rfl
@[simp] theorem updFunc_mer (k : Nat) (f : Func → Func) : (s.updFunc k f).mer = s.mer := rfl
@[simp] theorem updFunc_pwr (k : Nat) (f : Func → Func) : (s.updFunc k f).pwr = s.pwr := rfl
@[simp] theorem updFunc_fab (k : Nat) (f : Func → Func) : (s.updFunc k f).fab = s.fab := rfl
@[simp] theorem updFunc_rst (k : Nat) (f : Func → Func) : (s.updFunc k f).rst = s.rst := rfl
@[simp] theorem updFunc_bkp (k : Nat) (f : Func → Func) : (s.updFunc k f).bkp = s.bkp := rfl
@[simp] theorem updFunc_mram (k : Nat) (f : Func → Func) : (s.updFunc k f).mram = s.mram := rfl
@[simp] theorem updFunc_svr (k : Nat) (f : Func → Func) : (s.updFunc k f).svr = s.svr := rfl

@[simp] theorem updFab_pending (f : Fabric → Fabric) : (s.updFab f).pending = s.pending := rfl
@[simp] theorem updFab_now (f : Fabric → Fabric) : (s.updFab f).now = s.now := rfl
@[simp] theorem updFab_justSet (f : Fabric → Fabric) : (s.updFab f).justSet = s.justSet := rfl
@[simp] theorem updFab_net (f : Fabric → Fabric) : (s.updFab f).net = s.net := rfl
@[simp] theorem updFab_notices (f : Fabric → Fabric) : (s.updFab f).notices = s.notices := rfl
@[simp] theorem updFab_responses (f : Fabric → Fabric) : (s.updFab f).responses = s.responses := rfl
@[simp] theorem updFab_cores (f : Fabric → Fabric) : (s.updFab f).cores = s.cores := rfl
@[simp] theorem updFab_wps (f : Fabric → Fabric) : (s.updFab f).wps = s.wps := rfl
@[simp] theorem updFab_inks (f : Fabric → Fabric) : (s.updFab f).inks = s.inks := rfl
@[simp] theorem updFab_subs (f : Fabric → Fabric) : (s.updFab f).subs = s.subs := rfl
@[simp] theorem updFab_mem (f : Fabric → Fabric) : (s.updFab f).mem = s.mem := rfl
@[simp] theorem updFab_parts (f : Fabric → Fabric) : (s.updFab f).parts = s.parts := rfl
@[simp] theorem updFab_mer (f : Fabric → Fabric) : (s.updFab f).mer = s.mer := rfl
@[simp] theorem updFab_pwr (f : Fabric → Fabric) : (s.updFab f).pwr = s.pwr := rfl
@[simp] theorem updFab_fab (f : Fabric → Fabric) : (s.updFab f).fab = f s.fab := rfl
@[simp] theorem updFab_host (f : Fabric → Fabric) : (s.updFab f).host = s.host := rfl
@[simp] theorem updFab_rst (f : Fabric → Fabric) : (s.updFab f).rst = s.rst := rfl
@[simp] theorem updFab_bkp (f : Fabric → Fabric) : (s.updFab f).bkp = s.bkp := rfl
@[simp] theorem updFab_mram (f : Fabric → Fabric) : (s.updFab f).mram = s.mram := rfl
@[simp] theorem updFab_svr (f : Fabric → Fabric) : (s.updFab f).svr = s.svr := rfl

@[simp] theorem updPort_pending (n : Nat) (f : Port → Port) : (s.updPort n f).pending = s.pending := rfl
@[simp] theorem updPort_now (n : Nat) (f : Port → Port) : (s.updPort n f).now = s.now := rfl
@[simp] theorem updPort_justSet (n : Nat) (f : Port → Port) : (s.updPort n f).justSet = s.justSet := rfl
@[simp] theorem updPort_net (n : Nat) (f : Port → Port) : (s.updPort n f).net = s.net := rfl
@[simp] theorem updPort_notices (n : Nat) (f : Port → Port) : (s.updPort n f).notices = s.notices := rfl
@[simp] theorem updPort_responses (n : Nat) (f : Port → Port) : (s.updPort n f).responses = s.responses := rfl
@[simp] theorem updPort_cores (n : Nat) (f : Port → Port) : (s.updPort n f).cores = s.cores := rfl
@[simp] theorem updPort_wps (n : Nat) (f : Port → Port) : (s.updPort n f).wps = s.wps := rfl
@[simp] theorem updPort_inks (n : Nat) (f : Port → Port) : (s.updPort n f).inks = s.inks := rfl
@[simp] theorem updPort_subs (n : Nat) (f : Port → Port) : (s.updPort n f).subs = s.subs := rfl
@[simp] theorem updPort_mem (n : Nat) (f : Port → Port) : (s.updPort n f).mem = s.mem := rfl
@[simp] theorem updPort_parts (n : Nat) (f : Port → Port) : (s.updPort n f).parts = s.parts := rfl
@[simp] theorem updPort_mer (n : Nat) (f : Port → Port) : (s.updPort n f).mer = s.mer := rfl
@[simp] theorem updPort_pwr (n : Nat) (f : Port → Port) : (s.updPort n f).pwr = s.pwr := rfl
@[simp] theorem updPort_host (n : Nat) (f : Port → Port) : (s.updPort n f).host = s.host := rfl
@[simp] theorem updPort_rst (n : Nat) (f : Port → Port) : (s.updPort n f).rst = s.rst := rfl
@[simp] theorem updPort_bkp (n : Nat) (f : Port → Port) : (s.updPort n f).bkp = s.bkp := rfl
@[simp] theorem updPort_mram (n : Nat) (f : Port → Port) : (s.updPort n f).mram = s.mram := rfl
@[simp] theorem updPort_svr (n : Nat) (f : Port → Port) : (s.updPort n f).svr = s.svr := rfl

@[simp] theorem updColl_pending (p x : Nat) (f : Coll → Coll) : (s.updColl p x f).pending = s.pending := rfl
@[simp] theorem updColl_now (p x : Nat) (f : Coll → Coll) : (s.updColl p x f).now = s.now := rfl
@[simp] theorem updColl_justSet (p x : Nat) (f : Coll → Coll) : (s.updColl p x f).justSet = s.justSet := rfl
@[simp] theorem updColl_net (p x : Nat) (f : Coll → Coll) : (s.updColl p x f).net = s.net := rfl
@[simp] theorem updColl_notices (p x : Nat) (f : Coll → Coll) : (s.updColl p x f).notices = s.notices := rfl
@[simp] theorem updColl_responses (p x : Nat) (f : Coll → Coll) : (s.updColl p x f).responses = s.responses := rfl
@[simp] theorem updColl_cores (p x : Nat) (f : Coll → Coll) : (s.updColl p x f).cores = s.cores := rfl
@[simp] theorem updColl_wps (p x : Nat) (f : Coll → Coll) : (s.updColl p x f).wps = s.wps := rfl
@[simp] theorem updColl_inks (p x : Nat) (f : Coll → Coll) : (s.updColl p x f).inks = s.inks := rfl
@[simp] theorem updColl_subs (p x : Nat) (f : Coll → Coll) : (s.updColl p x f).subs = s.subs := rfl
@[simp] theorem updColl_mem (p x : Nat) (f : Coll → Coll) : (s.updColl p x f).mem = s.mem := rfl
@[simp] theorem updColl_parts (p x : Nat) (f : Coll → Coll) : (s.updColl p x f).parts = s.parts := rfl
@[simp] theorem updColl_mer (p x : Nat) (f : Coll → Coll) : (s.updColl p x f).mer = s.mer := rfl
@[simp] theorem updColl_pwr (p x : Nat) (f : Coll → Coll) : (s.updColl p x f).pwr = s.pwr := rfl
@[simp] theorem updColl_host (p x : Nat) (f : Coll → Coll) : (s.updColl p x f).host = s.host := rfl
@[simp] theorem updColl_rst (p x : Nat) (f : Coll → Coll) : (s.updColl p x f).rst = s.rst := rfl
@[simp] theorem updColl_bkp (p x : Nat) (f : Coll → Coll) : (s.updColl p x f).bkp = s.bkp := rfl
@[simp] theorem updColl_mram (p x : Nat) (f : Coll → Coll) : (s.updColl p x f).mram = s.mram := rfl
@[simp] theorem updColl_svr (p x : Nat) (f : Coll → Coll) : (s.updColl p x f).svr = s.svr := rfl

@[simp] theorem updMem_pending (f : Mem → Mem) : (s.updMem f).pending = s.pending := rfl
@[simp] theorem updMem_now (f : Mem → Mem) : (s.updMem f).now = s.now := rfl
@[simp] theorem updMem_justSet (f : Mem → Mem) : (s.updMem f).justSet = s.justSet := rfl
@[simp] theorem updMem_net (f : Mem → Mem) : (s.updMem f).net = s.net := rfl
@[simp] theorem updMem_notices (f : Mem → Mem) : (s.updMem f).notices = s.notices := rfl
@[simp] theorem updMem_responses (f : Mem → Mem) : (s.updMem f).responses = s.responses := rfl
@[simp] theorem updMem_cores (f : Mem → Mem) : (s.updMem f).cores = s.cores := rfl
@[simp] theorem updMem_wps (f : Mem → Mem) : (s.updMem f).wps = s.wps := rfl
@[simp] theorem updMem_inks (f : Mem → Mem) : (s.updMem f).inks = s.inks := rfl
@[simp] theorem updMem_subs (f : Mem → Mem) : (s.updMem f).subs = s.subs := rfl
@[simp] theorem updMem_mem (f : Mem → Mem) : (s.updMem f).mem = f s.mem := rfl
@[simp] theorem updMem_parts (f : Mem → Mem) : (s.updMem f).parts = s.parts := rfl
@[simp] theorem updMem_mer (f : Mem → Mem) : (s.updMem f).mer = s.mer := rfl
@[simp] theorem updMem_pwr (f : Mem → Mem) : (s.updMem f).pwr = s.pwr := rfl
@[simp] theorem updMem_fab (f : Mem → Mem) : (s.updMem f).fab = s.fab := rfl
@[simp] theorem updMem_host (f : Mem → Mem) : (s.updMem f).host = s.host := rfl
@[simp] theorem updMem_rst (f : Mem → Mem) : (s.updMem f).rst = s.rst := rfl
@[simp] theorem updMem_bkp (f : Mem → Mem) : (s.updMem f).bkp = s.bkp := rfl
@[simp] theorem updMem_mram (f : Mem → Mem) : (s.updMem f).mram = s.mram := rfl
@[simp] theorem updMem_svr (f : Mem → Mem) : (s.updMem f).svr = s.svr := rfl

@[simp] theorem updStack_pending (n : Nat) (f : StackStat → StackStat) : (s.updStack n f).pending = s.pending := rfl
@[simp] theorem updStack_now (n : Nat) (f : StackStat → StackStat) : (s.updStack n f).now = s.now := rfl
@[simp] theorem updStack_justSet (n : Nat) (f : StackStat → StackStat) : (s.updStack n f).justSet = s.justSet := rfl
@[simp] theorem updStack_net (n : Nat) (f : StackStat → StackStat) : (s.updStack n f).net = s.net := rfl
@[simp] theorem updStack_notices (n : Nat) (f : StackStat → StackStat) : (s.updStack n f).notices = s.notices := rfl
@[simp] theorem updStack_responses (n : Nat) (f : StackStat → StackStat) : (s.updStack n f).responses = s.responses := rfl
@[simp] theorem updStack_cores (n : Nat) (f : StackStat → StackStat) : (s.updStack n f).cores = s.cores := rfl
@[simp] theorem updStack_wps (n : Nat) (f : StackStat → StackStat) : (s.updStack n f).wps = s.wps := rfl
@[simp] theorem updStack_inks (n : Nat) (f : StackStat → StackStat) : (s.updStack n f).inks = s.inks := rfl
@[simp] theorem updStack_subs (n : Nat) (f : StackStat → StackStat) : (s.updStack n f).subs = s.subs := rfl
@[simp] theorem updStack_parts (n : Nat) (f : StackStat → StackStat) : (s.updStack n f).parts = s.parts := rfl
@[simp] theorem updStack_mer (n : Nat) (f : StackStat → StackStat) : (s.updStack n f).mer = s.mer := rfl
@[simp] theorem updStack_pwr (n : Nat) (f : StackStat → StackStat) : (s.updStack n f).pwr = s.pwr := rfl
@[simp] theorem updStack_fab (n : Nat) (f : StackStat → StackStat) : (s.updStack n f).fab = s.fab := rfl
@[simp] theorem updStack_host (n : Nat) (f : StackStat → StackStat) : (s.updStack n f).host = s.host := rfl
@[simp] theorem updStack_rst (n : Nat) (f : StackStat → StackStat) : (s.updStack n f).rst = s.rst := rfl
@[simp] theorem updStack_bkp (n : Nat) (f : StackStat → StackStat) : (s.updStack n f).bkp = s.bkp := rfl
@[simp] theorem updStack_mram (n : Nat) (f : StackStat → StackStat) : (s.updStack n f).mram = s.mram := rfl
@[simp] theorem updStack_svr (n : Nat) (f : StackStat → StackStat) : (s.updStack n f).svr = s.svr := rfl

@[simp] theorem updMer_pending (f : Meridian → Meridian) : (s.updMer f).pending = s.pending := rfl
@[simp] theorem updMer_now (f : Meridian → Meridian) : (s.updMer f).now = s.now := rfl
@[simp] theorem updMer_justSet (f : Meridian → Meridian) : (s.updMer f).justSet = s.justSet := rfl
@[simp] theorem updMer_net (f : Meridian → Meridian) : (s.updMer f).net = s.net := rfl
@[simp] theorem updMer_notices (f : Meridian → Meridian) : (s.updMer f).notices = s.notices := rfl
@[simp] theorem updMer_responses (f : Meridian → Meridian) : (s.updMer f).responses = s.responses := rfl
@[simp] theorem updMer_cores (f : Meridian → Meridian) : (s.updMer f).cores = s.cores := rfl
@[simp] theorem updMer_wps (f : Meridian → Meridian) : (s.updMer f).wps = s.wps := rfl
@[simp] theorem updMer_inks (f : Meridian → Meridian) : (s.updMer f).inks = s.inks := rfl
@[simp] theorem updMer_subs (f : Meridian → Meridian) : (s.updMer f).subs = s.subs := rfl
@[simp] theorem updMer_mem (f : Meridian → Meridian) : (s.updMer f).mem = s.mem := rfl
@[simp] theorem updMer_parts (f : Meridian → Meridian) : (s.updMer f).parts = s.parts := rfl
@[simp] theorem updMer_mer (f : Meridian → Meridian) : (s.updMer f).mer = f s.mer := rfl
@[simp] theorem updMer_pwr (f : Meridian → Meridian) : (s.updMer f).pwr = s.pwr := rfl
@[simp] theorem updMer_fab (f : Meridian → Meridian) : (s.updMer f).fab = s.fab := rfl
@[simp] theorem updMer_host (f : Meridian → Meridian) : (s.updMer f).host = s.host := rfl
@[simp] theorem updMer_rst (f : Meridian → Meridian) : (s.updMer f).rst = s.rst := rfl
@[simp] theorem updMer_bkp (f : Meridian → Meridian) : (s.updMer f).bkp = s.bkp := rfl
@[simp] theorem updMer_mram (f : Meridian → Meridian) : (s.updMer f).mram = s.mram := rfl
@[simp] theorem updMer_svr (f : Meridian → Meridian) : (s.updMer f).svr = s.svr := rfl

@[simp] theorem updPwr_pending (f : Power → Power) : (s.updPwr f).pending = s.pending := rfl
@[simp] theorem updPwr_now (f : Power → Power) : (s.updPwr f).now = s.now := rfl
@[simp] theorem updPwr_justSet (f : Power → Power) : (s.updPwr f).justSet = s.justSet := rfl
@[simp] theorem updPwr_net (f : Power → Power) : (s.updPwr f).net = s.net := rfl
@[simp] theorem updPwr_notices (f : Power → Power) : (s.updPwr f).notices = s.notices := rfl
@[simp] theorem updPwr_responses (f : Power → Power) : (s.updPwr f).responses = s.responses := rfl
@[simp] theorem updPwr_cores (f : Power → Power) : (s.updPwr f).cores = s.cores := rfl
@[simp] theorem updPwr_wps (f : Power → Power) : (s.updPwr f).wps = s.wps := rfl
@[simp] theorem updPwr_inks (f : Power → Power) : (s.updPwr f).inks = s.inks := rfl
@[simp] theorem updPwr_subs (f : Power → Power) : (s.updPwr f).subs = s.subs := rfl
@[simp] theorem updPwr_mem (f : Power → Power) : (s.updPwr f).mem = s.mem := rfl
@[simp] theorem updPwr_parts (f : Power → Power) : (s.updPwr f).parts = s.parts := rfl
@[simp] theorem updPwr_mer (f : Power → Power) : (s.updPwr f).mer = s.mer := rfl
@[simp] theorem updPwr_pwr (f : Power → Power) : (s.updPwr f).pwr = f s.pwr := rfl
@[simp] theorem updPwr_fab (f : Power → Power) : (s.updPwr f).fab = s.fab := rfl
@[simp] theorem updPwr_host (f : Power → Power) : (s.updPwr f).host = s.host := rfl
@[simp] theorem updPwr_rst (f : Power → Power) : (s.updPwr f).rst = s.rst := rfl
@[simp] theorem updPwr_bkp (f : Power → Power) : (s.updPwr f).bkp = s.bkp := rfl
@[simp] theorem updPwr_mram (f : Power → Power) : (s.updPwr f).mram = s.mram := rfl
@[simp] theorem updPwr_svr (f : Power → Power) : (s.updPwr f).svr = s.svr := rfl

@[simp] theorem updRst_pending (f : Rst → Rst) : (s.updRst f).pending = s.pending := rfl
@[simp] theorem updRst_now (f : Rst → Rst) : (s.updRst f).now = s.now := rfl
@[simp] theorem updRst_justSet (f : Rst → Rst) : (s.updRst f).justSet = s.justSet := rfl
@[simp] theorem updRst_net (f : Rst → Rst) : (s.updRst f).net = s.net := rfl
@[simp] theorem updRst_notices (f : Rst → Rst) : (s.updRst f).notices = s.notices := rfl
@[simp] theorem updRst_responses (f : Rst → Rst) : (s.updRst f).responses = s.responses := rfl
@[simp] theorem updRst_cores (f : Rst → Rst) : (s.updRst f).cores = s.cores := rfl
@[simp] theorem updRst_wps (f : Rst → Rst) : (s.updRst f).wps = s.wps := rfl
@[simp] theorem updRst_inks (f : Rst → Rst) : (s.updRst f).inks = s.inks := rfl
@[simp] theorem updRst_subs (f : Rst → Rst) : (s.updRst f).subs = s.subs := rfl
@[simp] theorem updRst_mem (f : Rst → Rst) : (s.updRst f).mem = s.mem := rfl
@[simp] theorem updRst_parts (f : Rst → Rst) : (s.updRst f).parts = s.parts := rfl
@[simp] theorem updRst_mer (f : Rst → Rst) : (s.updRst f).mer = s.mer := rfl
@[simp] theorem updRst_pwr (f : Rst → Rst) : (s.updRst f).pwr = s.pwr := rfl
@[simp] theorem updRst_fab (f : Rst → Rst) : (s.updRst f).fab = s.fab := rfl
@[simp] theorem updRst_host (f : Rst → Rst) : (s.updRst f).host = s.host := rfl
@[simp] theorem updRst_rst (f : Rst → Rst) : (s.updRst f).rst = f s.rst := rfl
@[simp] theorem updRst_bkp (f : Rst → Rst) : (s.updRst f).bkp = s.bkp := rfl
@[simp] theorem updRst_mram (f : Rst → Rst) : (s.updRst f).mram = s.mram := rfl
@[simp] theorem updRst_svr (f : Rst → Rst) : (s.updRst f).svr = s.svr := rfl

@[simp] theorem updBkp_pending (f : Backup → Backup) : (s.updBkp f).pending = s.pending := rfl
@[simp] theorem updBkp_now (f : Backup → Backup) : (s.updBkp f).now = s.now := rfl
@[simp] theorem updBkp_justSet (f : Backup → Backup) : (s.updBkp f).justSet = s.justSet := rfl
@[simp] theorem updBkp_net (f : Backup → Backup) : (s.updBkp f).net = s.net := rfl
@[simp] theorem updBkp_notices (f : Backup → Backup) : (s.updBkp f).notices = s.notices := rfl
@[simp] theorem updBkp_responses (f : Backup → Backup) : (s.updBkp f).responses = s.responses := rfl
@[simp] theorem updBkp_cores (f : Backup → Backup) : (s.updBkp f).cores = s.cores := rfl
@[simp] theorem updBkp_wps (f : Backup → Backup) : (s.updBkp f).wps = s.wps := rfl
@[simp] theorem updBkp_inks (f : Backup → Backup) : (s.updBkp f).inks = s.inks := rfl
@[simp] theorem updBkp_subs (f : Backup → Backup) : (s.updBkp f).subs = s.subs := rfl
@[simp] theorem updBkp_mem (f : Backup → Backup) : (s.updBkp f).mem = s.mem := rfl
@[simp] theorem updBkp_parts (f : Backup → Backup) : (s.updBkp f).parts = s.parts := rfl
@[simp] theorem updBkp_mer (f : Backup → Backup) : (s.updBkp f).mer = s.mer := rfl
@[simp] theorem updBkp_pwr (f : Backup → Backup) : (s.updBkp f).pwr = s.pwr := rfl
@[simp] theorem updBkp_fab (f : Backup → Backup) : (s.updBkp f).fab = s.fab := rfl
@[simp] theorem updBkp_host (f : Backup → Backup) : (s.updBkp f).host = s.host := rfl
@[simp] theorem updBkp_rst (f : Backup → Backup) : (s.updBkp f).rst = s.rst := rfl
@[simp] theorem updBkp_bkp (f : Backup → Backup) : (s.updBkp f).bkp = f s.bkp := rfl
@[simp] theorem updBkp_mram (f : Backup → Backup) : (s.updBkp f).mram = s.mram := rfl
@[simp] theorem updBkp_svr (f : Backup → Backup) : (s.updBkp f).svr = s.svr := rfl

@[simp] theorem updSvr_pending (f : Surveyor → Surveyor) : (s.updSvr f).pending = s.pending := rfl
@[simp] theorem updSvr_now (f : Surveyor → Surveyor) : (s.updSvr f).now = s.now := rfl
@[simp] theorem updSvr_justSet (f : Surveyor → Surveyor) : (s.updSvr f).justSet = s.justSet := rfl
@[simp] theorem updSvr_net (f : Surveyor → Surveyor) : (s.updSvr f).net = s.net := rfl
@[simp] theorem updSvr_notices (f : Surveyor → Surveyor) : (s.updSvr f).notices = s.notices := rfl
@[simp] theorem updSvr_responses (f : Surveyor → Surveyor) : (s.updSvr f).responses = s.responses := rfl
@[simp] theorem updSvr_cores (f : Surveyor → Surveyor) : (s.updSvr f).cores = s.cores := rfl
@[simp] theorem updSvr_wps (f : Surveyor → Surveyor) : (s.updSvr f).wps = s.wps := rfl
@[simp] theorem updSvr_inks (f : Surveyor → Surveyor) : (s.updSvr f).inks = s.inks := rfl
@[simp] theorem updSvr_subs (f : Surveyor → Surveyor) : (s.updSvr f).subs = s.subs := rfl
@[simp] theorem updSvr_mem (f : Surveyor → Surveyor) : (s.updSvr f).mem = s.mem := rfl
@[simp] theorem updSvr_parts (f : Surveyor → Surveyor) : (s.updSvr f).parts = s.parts := rfl
@[simp] theorem updSvr_mer (f : Surveyor → Surveyor) : (s.updSvr f).mer = s.mer := rfl
@[simp] theorem updSvr_pwr (f : Surveyor → Surveyor) : (s.updSvr f).pwr = s.pwr := rfl
@[simp] theorem updSvr_fab (f : Surveyor → Surveyor) : (s.updSvr f).fab = s.fab := rfl
@[simp] theorem updSvr_host (f : Surveyor → Surveyor) : (s.updSvr f).host = s.host := rfl
@[simp] theorem updSvr_rst (f : Surveyor → Surveyor) : (s.updSvr f).rst = s.rst := rfl
@[simp] theorem updSvr_bkp (f : Surveyor → Surveyor) : (s.updSvr f).bkp = s.bkp := rfl
@[simp] theorem updSvr_mram (f : Surveyor → Surveyor) : (s.updSvr f).mram = s.mram := rfl
@[simp] theorem updSvr_svr (f : Surveyor → Surveyor) : (s.updSvr f).svr = f s.svr := rfl

@[simp] theorem respond_pending (r : Response) : (s.respond r).pending = s.pending := rfl
@[simp] theorem respond_now (r : Response) : (s.respond r).now = s.now := rfl
@[simp] theorem respond_justSet (r : Response) : (s.respond r).justSet = s.justSet := rfl
@[simp] theorem respond_net (r : Response) : (s.respond r).net = s.net := rfl
@[simp] theorem respond_notices (r : Response) : (s.respond r).notices = s.notices := rfl
@[simp] theorem respond_responses (r : Response) : (s.respond r).responses = s.responses ++ [r] := rfl
@[simp] theorem respond_cores (r : Response) : (s.respond r).cores = s.cores := rfl
@[simp] theorem respond_wps (r : Response) : (s.respond r).wps = s.wps := rfl
@[simp] theorem respond_inks (r : Response) : (s.respond r).inks = s.inks := rfl
@[simp] theorem respond_subs (r : Response) : (s.respond r).subs = s.subs := rfl
@[simp] theorem respond_mem (r : Response) : (s.respond r).mem = s.mem := rfl
@[simp] theorem respond_parts (r : Response) : (s.respond r).parts = s.parts := rfl
@[simp] theorem respond_mer (r : Response) : (s.respond r).mer = s.mer := rfl
@[simp] theorem respond_pwr (r : Response) : (s.respond r).pwr = s.pwr := rfl
@[simp] theorem respond_fab (r : Response) : (s.respond r).fab = s.fab := rfl
@[simp] theorem respond_host (r : Response) : (s.respond r).host = s.host := rfl
@[simp] theorem respond_rst (r : Response) : (s.respond r).rst = s.rst := rfl
@[simp] theorem respond_bkp (r : Response) : (s.respond r).bkp = s.bkp := rfl
@[simp] theorem respond_mram (r : Response) : (s.respond r).mram = s.mram := rfl
@[simp] theorem respond_svr (r : Response) : (s.respond r).svr = s.svr := rfl

@[simp] theorem send_pending (p : Packet) : (s.send p).pending = s.pending := rfl
@[simp] theorem send_now (p : Packet) : (s.send p).now = s.now := rfl
@[simp] theorem send_justSet (p : Packet) : (s.send p).justSet = s.justSet := rfl
@[simp] theorem send_net (p : Packet) : (s.send p).net = s.net ++ [p] := rfl
@[simp] theorem send_notices (p : Packet) : (s.send p).notices = s.notices := rfl
@[simp] theorem send_responses (p : Packet) : (s.send p).responses = s.responses := rfl
@[simp] theorem send_cores (p : Packet) : (s.send p).cores = s.cores := rfl
@[simp] theorem send_wps (p : Packet) : (s.send p).wps = s.wps := rfl
@[simp] theorem send_inks (p : Packet) : (s.send p).inks = s.inks := rfl
@[simp] theorem send_subs (p : Packet) : (s.send p).subs = s.subs := rfl
@[simp] theorem send_mem (p : Packet) : (s.send p).mem = s.mem := rfl
@[simp] theorem send_parts (p : Packet) : (s.send p).parts = s.parts := rfl
@[simp] theorem send_mer (p : Packet) : (s.send p).mer = s.mer := rfl
@[simp] theorem send_pwr (p : Packet) : (s.send p).pwr = s.pwr := rfl
@[simp] theorem send_fab (p : Packet) : (s.send p).fab = s.fab := rfl
@[simp] theorem send_host (p : Packet) : (s.send p).host = s.host := rfl
@[simp] theorem send_rst (p : Packet) : (s.send p).rst = s.rst := rfl
@[simp] theorem send_bkp (p : Packet) : (s.send p).bkp = s.bkp := rfl
@[simp] theorem send_mram (p : Packet) : (s.send p).mram = s.mram := rfl
@[simp] theorem send_svr (p : Packet) : (s.send p).svr = s.svr := rfl

@[simp] theorem sendAll_pending (ps : List Packet) : (s.sendAll ps).pending = s.pending := rfl
@[simp] theorem sendAll_now (ps : List Packet) : (s.sendAll ps).now = s.now := rfl
@[simp] theorem sendAll_justSet (ps : List Packet) : (s.sendAll ps).justSet = s.justSet := rfl
@[simp] theorem sendAll_net (ps : List Packet) : (s.sendAll ps).net = s.net ++ ps := rfl
@[simp] theorem sendAll_notices (ps : List Packet) : (s.sendAll ps).notices = s.notices := rfl
@[simp] theorem sendAll_responses (ps : List Packet) : (s.sendAll ps).responses = s.responses := rfl
@[simp] theorem sendAll_cores (ps : List Packet) : (s.sendAll ps).cores = s.cores := rfl
@[simp] theorem sendAll_wps (ps : List Packet) : (s.sendAll ps).wps = s.wps := rfl
@[simp] theorem sendAll_inks (ps : List Packet) : (s.sendAll ps).inks = s.inks := rfl
@[simp] theorem sendAll_subs (ps : List Packet) : (s.sendAll ps).subs = s.subs := rfl
@[simp] theorem sendAll_mem (ps : List Packet) : (s.sendAll ps).mem = s.mem := rfl
@[simp] theorem sendAll_parts (ps : List Packet) : (s.sendAll ps).parts = s.parts := rfl
@[simp] theorem sendAll_mer (ps : List Packet) : (s.sendAll ps).mer = s.mer := rfl
@[simp] theorem sendAll_pwr (ps : List Packet) : (s.sendAll ps).pwr = s.pwr := rfl
@[simp] theorem sendAll_fab (ps : List Packet) : (s.sendAll ps).fab = s.fab := rfl
@[simp] theorem sendAll_host (ps : List Packet) : (s.sendAll ps).host = s.host := rfl
@[simp] theorem sendAll_rst (ps : List Packet) : (s.sendAll ps).rst = s.rst := rfl
@[simp] theorem sendAll_bkp (ps : List Packet) : (s.sendAll ps).bkp = s.bkp := rfl
@[simp] theorem sendAll_mram (ps : List Packet) : (s.sendAll ps).mram = s.mram := rfl
@[simp] theorem sendAll_svr (ps : List Packet) : (s.sendAll ps).svr = s.svr := rfl

@[simp] theorem withPending_pending (q : List Instr) : (s.withPending q).pending = q := rfl
@[simp] theorem withPending_now (q : List Instr) : (s.withPending q).now = s.now := rfl
@[simp] theorem withPending_justSet (q : List Instr) : (s.withPending q).justSet = s.justSet := rfl
@[simp] theorem withPending_net (q : List Instr) : (s.withPending q).net = s.net := rfl
@[simp] theorem withPending_notices (q : List Instr) : (s.withPending q).notices = s.notices := rfl
@[simp] theorem withPending_responses (q : List Instr) : (s.withPending q).responses = s.responses := rfl
@[simp] theorem withPending_cores (q : List Instr) : (s.withPending q).cores = s.cores := rfl
@[simp] theorem withPending_wps (q : List Instr) : (s.withPending q).wps = s.wps := rfl
@[simp] theorem withPending_inks (q : List Instr) : (s.withPending q).inks = s.inks := rfl
@[simp] theorem withPending_subs (q : List Instr) : (s.withPending q).subs = s.subs := rfl
@[simp] theorem withPending_mem (q : List Instr) : (s.withPending q).mem = s.mem := rfl
@[simp] theorem withPending_parts (q : List Instr) : (s.withPending q).parts = s.parts := rfl
@[simp] theorem withPending_mer (q : List Instr) : (s.withPending q).mer = s.mer := rfl
@[simp] theorem withPending_pwr (q : List Instr) : (s.withPending q).pwr = s.pwr := rfl
@[simp] theorem withPending_fab (q : List Instr) : (s.withPending q).fab = s.fab := rfl
@[simp] theorem withPending_host (q : List Instr) : (s.withPending q).host = s.host := rfl
@[simp] theorem withPending_rst (q : List Instr) : (s.withPending q).rst = s.rst := rfl
@[simp] theorem withPending_bkp (q : List Instr) : (s.withPending q).bkp = s.bkp := rfl
@[simp] theorem withPending_mram (q : List Instr) : (s.withPending q).mram = s.mram := rfl
@[simp] theorem withPending_svr (q : List Instr) : (s.withPending q).svr = s.svr := rfl

@[simp] theorem hwSet_pending (a : Nat) (b : W64) : (s.hwSet a b).pending = s.pending := rfl
@[simp] theorem hwSet_now (a : Nat) (b : W64) : (s.hwSet a b).now = s.now := rfl
@[simp] theorem hwSet_justSet (a : Nat) (b : W64) : (s.hwSet a b).justSet = Sparse.upd 0 s.justSet a fun v => v ||| b := rfl
@[simp] theorem hwSet_net (a : Nat) (b : W64) : (s.hwSet a b).net = s.net := rfl
@[simp] theorem hwSet_notices (a : Nat) (b : W64) : (s.hwSet a b).notices = s.notices := rfl
@[simp] theorem hwSet_responses (a : Nat) (b : W64) : (s.hwSet a b).responses = s.responses := rfl
@[simp] theorem hwSet_cores (a : Nat) (b : W64) : (s.hwSet a b).cores = s.cores := rfl
@[simp] theorem hwSet_wps (a : Nat) (b : W64) : (s.hwSet a b).wps = s.wps := rfl
@[simp] theorem hwSet_inks (a : Nat) (b : W64) : (s.hwSet a b).inks = s.inks := rfl
@[simp] theorem hwSet_subs (a : Nat) (b : W64) : (s.hwSet a b).subs = s.subs := rfl
@[simp] theorem hwSet_mem (a : Nat) (b : W64) : (s.hwSet a b).mem = s.mem := rfl
@[simp] theorem hwSet_parts (a : Nat) (b : W64) : (s.hwSet a b).parts = s.parts := rfl
@[simp] theorem hwSet_mer (a : Nat) (b : W64) : (s.hwSet a b).mer = s.mer := rfl
@[simp] theorem hwSet_pwr (a : Nat) (b : W64) : (s.hwSet a b).pwr = s.pwr := rfl
@[simp] theorem hwSet_fab (a : Nat) (b : W64) : (s.hwSet a b).fab = s.fab := rfl
@[simp] theorem hwSet_host (a : Nat) (b : W64) : (s.hwSet a b).host = s.host := rfl
@[simp] theorem hwSet_rst (a : Nat) (b : W64) : (s.hwSet a b).rst = s.rst := rfl
@[simp] theorem hwSet_bkp (a : Nat) (b : W64) : (s.hwSet a b).bkp = s.bkp := rfl
@[simp] theorem hwSet_mram (a : Nat) (b : W64) : (s.hwSet a b).mram = s.mram := rfl
@[simp] theorem hwSet_svr (a : Nat) (b : W64) : (s.hwSet a b).svr = s.svr := rfl

@[simp] theorem updQueue_host_linkOn (q : Nat) (f : Queue → Queue) : (s.updQueue q f).host.linkOn = s.host.linkOn := rfl
@[simp] theorem updQueue_host_linkUp (q : Nat) (f : Queue → Queue) : (s.updQueue q f).host.linkUp = s.host.linkUp := rfl
@[simp] theorem updQueue_host_ero (q : Nat) (f : Queue → Queue) : (s.updQueue q f).host.ero = s.host.ero := rfl
@[simp] theorem updQueue_host_relaxedAt (q : Nat) (f : Queue → Queue) : (s.updQueue q f).host.relaxedAt = s.host.relaxedAt := rfl
@[simp] theorem updQueue_host_heldWrites (q : Nat) (f : Queue → Queue) : (s.updQueue q f).host.heldWrites = s.host.heldWrites := rfl
@[simp] theorem updQueue_host_queues (q : Nat) (f : Queue → Queue) : (s.updQueue q f).host.queues = Sparse.upd {} s.host.queues q f := rfl
@[simp] theorem updQueue_host_funcs (q : Nat) (f : Queue → Queue) : (s.updQueue q f).host.funcs = s.host.funcs := rfl
@[simp] theorem updQueue_host_wlog (q : Nat) (f : Queue → Queue) : (s.updQueue q f).host.wlog = s.host.wlog := rfl
@[simp] theorem updQueue_host_numVfs (q : Nat) (f : Queue → Queue) : (s.updQueue q f).host.numVfs = s.host.numVfs := rfl
@[simp] theorem updQueue_host_msix (q : Nat) (f : Queue → Queue) : (s.updQueue q f).host.msix = s.host.msix := rfl
@[simp] theorem updQueue_host_mem (q : Nat) (f : Queue → Queue) : (s.updQueue q f).host.mem = s.host.mem := rfl
@[simp] theorem updFunc_host_linkOn (k : Nat) (f : Func → Func) : (s.updFunc k f).host.linkOn = s.host.linkOn := rfl
@[simp] theorem updFunc_host_linkUp (k : Nat) (f : Func → Func) : (s.updFunc k f).host.linkUp = s.host.linkUp := rfl
@[simp] theorem updFunc_host_ero (k : Nat) (f : Func → Func) : (s.updFunc k f).host.ero = s.host.ero := rfl
@[simp] theorem updFunc_host_relaxedAt (k : Nat) (f : Func → Func) : (s.updFunc k f).host.relaxedAt = s.host.relaxedAt := rfl
@[simp] theorem updFunc_host_heldWrites (k : Nat) (f : Func → Func) : (s.updFunc k f).host.heldWrites = s.host.heldWrites := rfl
@[simp] theorem updFunc_host_queues (k : Nat) (f : Func → Func) : (s.updFunc k f).host.queues = s.host.queues := rfl
@[simp] theorem updFunc_host_funcs (k : Nat) (f : Func → Func) : (s.updFunc k f).host.funcs = Sparse.upd {} s.host.funcs k f := rfl
@[simp] theorem updFunc_host_wlog (k : Nat) (f : Func → Func) : (s.updFunc k f).host.wlog = s.host.wlog := rfl
@[simp] theorem updFunc_host_numVfs (k : Nat) (f : Func → Func) : (s.updFunc k f).host.numVfs = s.host.numVfs := rfl
@[simp] theorem updFunc_host_msix (k : Nat) (f : Func → Func) : (s.updFunc k f).host.msix = s.host.msix := rfl
@[simp] theorem updFunc_host_mem (k : Nat) (f : Func → Func) : (s.updFunc k f).host.mem = s.host.mem := rfl

/-! ### Reading a table after an update -/

@[simp] theorem core_updCore_same (c : CoreId) (f : Core → Core) : (s.updCore c f).core c = f (s.core c) :=
  Sparse.get_upd_same _ _ _ _
theorem core_updCore_other (c i : CoreId) (f : Core → Core) (h : i ≠ c) : (s.updCore c f).core i = s.core i :=
  Sparse.get_upd_other _ _ _ _ _ h
@[simp] theorem part_updPart_same (p : Nat) (f : Part → Part) : (s.updPart p f).part p = f (s.part p) :=
  Sparse.get_upd_same _ _ _ _
theorem part_updPart_other (p i : Nat) (f : Part → Part) (h : i ≠ p) : (s.updPart p f).part i = s.part i :=
  Sparse.get_upd_other _ _ _ _ _ h
@[simp] theorem wp_updWp_same (w : Nat) (f : Waypoint → Waypoint) : (s.updWp w f).wp w = f (s.wp w) :=
  Sparse.get_upd_same _ _ _ _
theorem wp_updWp_other (w i : Nat) (f : Waypoint → Waypoint) (h : i ≠ w) : (s.updWp w f).wp i = s.wp i :=
  Sparse.get_upd_other _ _ _ _ _ h
@[simp] theorem ink_updInk_same (c : CoreId) (f : InkCore → InkCore) : (s.updInk c f).ink c = f (s.ink c) :=
  Sparse.get_upd_same _ _ _ _
theorem ink_updInk_other (c i : CoreId) (f : InkCore → InkCore) (h : i ≠ c) : (s.updInk c f).ink i = s.ink i :=
  Sparse.get_upd_other _ _ _ _ _ h
@[simp] theorem queue_updQueue_same (q : Nat) (f : Queue → Queue) : (s.updQueue q f).queue q = f (s.queue q) :=
  Sparse.get_upd_same _ _ _ _
theorem queue_updQueue_other (q i : Nat) (f : Queue → Queue) (h : i ≠ q) : (s.updQueue q f).queue i = s.queue i :=
  Sparse.get_upd_other _ _ _ _ _ h
@[simp] theorem func_updFunc_same (k : Nat) (f : Func → Func) : (s.updFunc k f).func k = f (s.func k) :=
  Sparse.get_upd_same _ _ _ _
theorem func_updFunc_other (k i : Nat) (f : Func → Func) (h : i ≠ k) : (s.updFunc k f).func i = s.func i :=
  Sparse.get_upd_other _ _ _ _ _ h
@[simp] theorem port_updPort_same (n : Nat) (f : Port → Port) : (s.updPort n f).port n = f (s.port n) :=
  Sparse.get_upd_same _ _ _ _
theorem port_updPort_other (n i : Nat) (f : Port → Port) (h : i ≠ n) : (s.updPort n f).port i = s.port i :=
  Sparse.get_upd_other _ _ _ _ _ h
@[simp] theorem stack_updStack_same (n : Nat) (f : StackStat → StackStat) : (s.updStack n f).stack n = f (s.stack n) :=
  Sparse.get_upd_same _ _ _ _
theorem stack_updStack_other (n i : Nat) (f : StackStat → StackStat) (h : i ≠ n) : (s.updStack n f).stack i = s.stack i :=
  Sparse.get_upd_other _ _ _ _ _ h

@[simp] theorem part_updCore (c : CoreId) (f : Core → Core) (i : Nat) : (s.updCore c f).part i = s.part i := rfl
@[simp] theorem wp_updCore (c : CoreId) (f : Core → Core) (i : Nat) : (s.updCore c f).wp i = s.wp i := rfl
@[simp] theorem ink_updCore (c : CoreId) (f : Core → Core) (i : CoreId) : (s.updCore c f).ink i = s.ink i := rfl
@[simp] theorem queue_updCore (c : CoreId) (f : Core → Core) (i : Nat) : (s.updCore c f).queue i = s.queue i := rfl
@[simp] theorem func_updCore (c : CoreId) (f : Core → Core) (i : Nat) : (s.updCore c f).func i = s.func i := rfl
@[simp] theorem port_updCore (c : CoreId) (f : Core → Core) (i : Nat) : (s.updCore c f).port i = s.port i := rfl
@[simp] theorem stack_updCore (c : CoreId) (f : Core → Core) (i : Nat) : (s.updCore c f).stack i = s.stack i := rfl
@[simp] theorem core_updPart (p : Nat) (f : Part → Part) (i : CoreId) : (s.updPart p f).core i = s.core i := rfl
@[simp] theorem wp_updPart (p : Nat) (f : Part → Part) (i : Nat) : (s.updPart p f).wp i = s.wp i := rfl
@[simp] theorem ink_updPart (p : Nat) (f : Part → Part) (i : CoreId) : (s.updPart p f).ink i = s.ink i := rfl
@[simp] theorem queue_updPart (p : Nat) (f : Part → Part) (i : Nat) : (s.updPart p f).queue i = s.queue i := rfl
@[simp] theorem func_updPart (p : Nat) (f : Part → Part) (i : Nat) : (s.updPart p f).func i = s.func i := rfl
@[simp] theorem port_updPart (p : Nat) (f : Part → Part) (i : Nat) : (s.updPart p f).port i = s.port i := rfl
@[simp] theorem stack_updPart (p : Nat) (f : Part → Part) (i : Nat) : (s.updPart p f).stack i = s.stack i := rfl
@[simp] theorem core_updWp (w : Nat) (f : Waypoint → Waypoint) (i : CoreId) : (s.updWp w f).core i = s.core i := rfl
@[simp] theorem part_updWp (w : Nat) (f : Waypoint → Waypoint) (i : Nat) : (s.updWp w f).part i = s.part i := rfl
@[simp] theorem ink_updWp (w : Nat) (f : Waypoint → Waypoint) (i : CoreId) : (s.updWp w f).ink i = s.ink i := rfl
@[simp] theorem queue_updWp (w : Nat) (f : Waypoint → Waypoint) (i : Nat) : (s.updWp w f).queue i = s.queue i := rfl
@[simp] theorem func_updWp (w : Nat) (f : Waypoint → Waypoint) (i : Nat) : (s.updWp w f).func i = s.func i := rfl
@[simp] theorem port_updWp (w : Nat) (f : Waypoint → Waypoint) (i : Nat) : (s.updWp w f).port i = s.port i := rfl
@[simp] theorem stack_updWp (w : Nat) (f : Waypoint → Waypoint) (i : Nat) : (s.updWp w f).stack i = s.stack i := rfl
@[simp] theorem core_updInk (c : CoreId) (f : InkCore → InkCore) (i : CoreId) : (s.updInk c f).core i = s.core i := rfl
@[simp] theorem part_updInk (c : CoreId) (f : InkCore → InkCore) (i : Nat) : (s.updInk c f).part i = s.part i := rfl
@[simp] theorem wp_updInk (c : CoreId) (f : InkCore → InkCore) (i : Nat) : (s.updInk c f).wp i = s.wp i := rfl
@[simp] theorem queue_updInk (c : CoreId) (f : InkCore → InkCore) (i : Nat) : (s.updInk c f).queue i = s.queue i := rfl
@[simp] theorem func_updInk (c : CoreId) (f : InkCore → InkCore) (i : Nat) : (s.updInk c f).func i = s.func i := rfl
@[simp] theorem port_updInk (c : CoreId) (f : InkCore → InkCore) (i : Nat) : (s.updInk c f).port i = s.port i := rfl
@[simp] theorem stack_updInk (c : CoreId) (f : InkCore → InkCore) (i : Nat) : (s.updInk c f).stack i = s.stack i := rfl
@[simp] theorem core_updHost (f : HostIf → HostIf) (i : CoreId) : (s.updHost f).core i = s.core i := rfl
@[simp] theorem part_updHost (f : HostIf → HostIf) (i : Nat) : (s.updHost f).part i = s.part i := rfl
@[simp] theorem wp_updHost (f : HostIf → HostIf) (i : Nat) : (s.updHost f).wp i = s.wp i := rfl
@[simp] theorem ink_updHost (f : HostIf → HostIf) (i : CoreId) : (s.updHost f).ink i = s.ink i := rfl
@[simp] theorem port_updHost (f : HostIf → HostIf) (i : Nat) : (s.updHost f).port i = s.port i := rfl
@[simp] theorem stack_updHost (f : HostIf → HostIf) (i : Nat) : (s.updHost f).stack i = s.stack i := rfl
@[simp] theorem core_updQueue (q : Nat) (f : Queue → Queue) (i : CoreId) : (s.updQueue q f).core i = s.core i := rfl
@[simp] theorem part_updQueue (q : Nat) (f : Queue → Queue) (i : Nat) : (s.updQueue q f).part i = s.part i := rfl
@[simp] theorem wp_updQueue (q : Nat) (f : Queue → Queue) (i : Nat) : (s.updQueue q f).wp i = s.wp i := rfl
@[simp] theorem ink_updQueue (q : Nat) (f : Queue → Queue) (i : CoreId) : (s.updQueue q f).ink i = s.ink i := rfl
@[simp] theorem func_updQueue (q : Nat) (f : Queue → Queue) (i : Nat) : (s.updQueue q f).func i = s.func i := rfl
@[simp] theorem port_updQueue (q : Nat) (f : Queue → Queue) (i : Nat) : (s.updQueue q f).port i = s.port i := rfl
@[simp] theorem stack_updQueue (q : Nat) (f : Queue → Queue) (i : Nat) : (s.updQueue q f).stack i = s.stack i := rfl
@[simp] theorem core_updFunc (k : Nat) (f : Func → Func) (i : CoreId) : (s.updFunc k f).core i = s.core i := rfl
@[simp] theorem part_updFunc (k : Nat) (f : Func → Func) (i : Nat) : (s.updFunc k f).part i = s.part i := rfl
@[simp] theorem wp_updFunc (k : Nat) (f : Func → Func) (i : Nat) : (s.updFunc k f).wp i = s.wp i := rfl
@[simp] theorem ink_updFunc (k : Nat) (f : Func → Func) (i : CoreId) : (s.updFunc k f).ink i = s.ink i := rfl
@[simp] theorem queue_updFunc (k : Nat) (f : Func → Func) (i : Nat) : (s.updFunc k f).queue i = s.queue i := rfl
@[simp] theorem port_updFunc (k : Nat) (f : Func → Func) (i : Nat) : (s.updFunc k f).port i = s.port i := rfl
@[simp] theorem stack_updFunc (k : Nat) (f : Func → Func) (i : Nat) : (s.updFunc k f).stack i = s.stack i := rfl
@[simp] theorem core_updFab (f : Fabric → Fabric) (i : CoreId) : (s.updFab f).core i = s.core i := rfl
@[simp] theorem part_updFab (f : Fabric → Fabric) (i : Nat) : (s.updFab f).part i = s.part i := rfl
@[simp] theorem wp_updFab (f : Fabric → Fabric) (i : Nat) : (s.updFab f).wp i = s.wp i := rfl
@[simp] theorem ink_updFab (f : Fabric → Fabric) (i : CoreId) : (s.updFab f).ink i = s.ink i := rfl
@[simp] theorem queue_updFab (f : Fabric → Fabric) (i : Nat) : (s.updFab f).queue i = s.queue i := rfl
@[simp] theorem func_updFab (f : Fabric → Fabric) (i : Nat) : (s.updFab f).func i = s.func i := rfl
@[simp] theorem stack_updFab (f : Fabric → Fabric) (i : Nat) : (s.updFab f).stack i = s.stack i := rfl
@[simp] theorem core_updPort (n : Nat) (f : Port → Port) (i : CoreId) : (s.updPort n f).core i = s.core i := rfl
@[simp] theorem part_updPort (n : Nat) (f : Port → Port) (i : Nat) : (s.updPort n f).part i = s.part i := rfl
@[simp] theorem wp_updPort (n : Nat) (f : Port → Port) (i : Nat) : (s.updPort n f).wp i = s.wp i := rfl
@[simp] theorem ink_updPort (n : Nat) (f : Port → Port) (i : CoreId) : (s.updPort n f).ink i = s.ink i := rfl
@[simp] theorem queue_updPort (n : Nat) (f : Port → Port) (i : Nat) : (s.updPort n f).queue i = s.queue i := rfl
@[simp] theorem func_updPort (n : Nat) (f : Port → Port) (i : Nat) : (s.updPort n f).func i = s.func i := rfl
@[simp] theorem stack_updPort (n : Nat) (f : Port → Port) (i : Nat) : (s.updPort n f).stack i = s.stack i := rfl
@[simp] theorem core_updColl (p x : Nat) (f : Coll → Coll) (i : CoreId) : (s.updColl p x f).core i = s.core i := rfl
@[simp] theorem part_updColl (p x : Nat) (f : Coll → Coll) (i : Nat) : (s.updColl p x f).part i = s.part i := rfl
@[simp] theorem wp_updColl (p x : Nat) (f : Coll → Coll) (i : Nat) : (s.updColl p x f).wp i = s.wp i := rfl
@[simp] theorem ink_updColl (p x : Nat) (f : Coll → Coll) (i : CoreId) : (s.updColl p x f).ink i = s.ink i := rfl
@[simp] theorem queue_updColl (p x : Nat) (f : Coll → Coll) (i : Nat) : (s.updColl p x f).queue i = s.queue i := rfl
@[simp] theorem func_updColl (p x : Nat) (f : Coll → Coll) (i : Nat) : (s.updColl p x f).func i = s.func i := rfl
@[simp] theorem stack_updColl (p x : Nat) (f : Coll → Coll) (i : Nat) : (s.updColl p x f).stack i = s.stack i := rfl
@[simp] theorem core_updMem (f : Mem → Mem) (i : CoreId) : (s.updMem f).core i = s.core i := rfl
@[simp] theorem part_updMem (f : Mem → Mem) (i : Nat) : (s.updMem f).part i = s.part i := rfl
@[simp] theorem wp_updMem (f : Mem → Mem) (i : Nat) : (s.updMem f).wp i = s.wp i := rfl
@[simp] theorem ink_updMem (f : Mem → Mem) (i : CoreId) : (s.updMem f).ink i = s.ink i := rfl
@[simp] theorem queue_updMem (f : Mem → Mem) (i : Nat) : (s.updMem f).queue i = s.queue i := rfl
@[simp] theorem func_updMem (f : Mem → Mem) (i : Nat) : (s.updMem f).func i = s.func i := rfl
@[simp] theorem port_updMem (f : Mem → Mem) (i : Nat) : (s.updMem f).port i = s.port i := rfl
@[simp] theorem core_updStack (n : Nat) (f : StackStat → StackStat) (i : CoreId) : (s.updStack n f).core i = s.core i := rfl
@[simp] theorem part_updStack (n : Nat) (f : StackStat → StackStat) (i : Nat) : (s.updStack n f).part i = s.part i := rfl
@[simp] theorem wp_updStack (n : Nat) (f : StackStat → StackStat) (i : Nat) : (s.updStack n f).wp i = s.wp i := rfl
@[simp] theorem ink_updStack (n : Nat) (f : StackStat → StackStat) (i : CoreId) : (s.updStack n f).ink i = s.ink i := rfl
@[simp] theorem queue_updStack (n : Nat) (f : StackStat → StackStat) (i : Nat) : (s.updStack n f).queue i = s.queue i := rfl
@[simp] theorem func_updStack (n : Nat) (f : StackStat → StackStat) (i : Nat) : (s.updStack n f).func i = s.func i := rfl
@[simp] theorem port_updStack (n : Nat) (f : StackStat → StackStat) (i : Nat) : (s.updStack n f).port i = s.port i := rfl
@[simp] theorem core_updMer (f : Meridian → Meridian) (i : CoreId) : (s.updMer f).core i = s.core i := rfl
@[simp] theorem part_updMer (f : Meridian → Meridian) (i : Nat) : (s.updMer f).part i = s.part i := rfl
@[simp] theorem wp_updMer (f : Meridian → Meridian) (i : Nat) : (s.updMer f).wp i = s.wp i := rfl
@[simp] theorem ink_updMer (f : Meridian → Meridian) (i : CoreId) : (s.updMer f).ink i = s.ink i := rfl
@[simp] theorem queue_updMer (f : Meridian → Meridian) (i : Nat) : (s.updMer f).queue i = s.queue i := rfl
@[simp] theorem func_updMer (f : Meridian → Meridian) (i : Nat) : (s.updMer f).func i = s.func i := rfl
@[simp] theorem port_updMer (f : Meridian → Meridian) (i : Nat) : (s.updMer f).port i = s.port i := rfl
@[simp] theorem stack_updMer (f : Meridian → Meridian) (i : Nat) : (s.updMer f).stack i = s.stack i := rfl
@[simp] theorem core_updPwr (f : Power → Power) (i : CoreId) : (s.updPwr f).core i = s.core i := rfl
@[simp] theorem part_updPwr (f : Power → Power) (i : Nat) : (s.updPwr f).part i = s.part i := rfl
@[simp] theorem wp_updPwr (f : Power → Power) (i : Nat) : (s.updPwr f).wp i = s.wp i := rfl
@[simp] theorem ink_updPwr (f : Power → Power) (i : CoreId) : (s.updPwr f).ink i = s.ink i := rfl
@[simp] theorem queue_updPwr (f : Power → Power) (i : Nat) : (s.updPwr f).queue i = s.queue i := rfl
@[simp] theorem func_updPwr (f : Power → Power) (i : Nat) : (s.updPwr f).func i = s.func i := rfl
@[simp] theorem port_updPwr (f : Power → Power) (i : Nat) : (s.updPwr f).port i = s.port i := rfl
@[simp] theorem stack_updPwr (f : Power → Power) (i : Nat) : (s.updPwr f).stack i = s.stack i := rfl
@[simp] theorem core_updRst (f : Rst → Rst) (i : CoreId) : (s.updRst f).core i = s.core i := rfl
@[simp] theorem part_updRst (f : Rst → Rst) (i : Nat) : (s.updRst f).part i = s.part i := rfl
@[simp] theorem wp_updRst (f : Rst → Rst) (i : Nat) : (s.updRst f).wp i = s.wp i := rfl
@[simp] theorem ink_updRst (f : Rst → Rst) (i : CoreId) : (s.updRst f).ink i = s.ink i := rfl
@[simp] theorem queue_updRst (f : Rst → Rst) (i : Nat) : (s.updRst f).queue i = s.queue i := rfl
@[simp] theorem func_updRst (f : Rst → Rst) (i : Nat) : (s.updRst f).func i = s.func i := rfl
@[simp] theorem port_updRst (f : Rst → Rst) (i : Nat) : (s.updRst f).port i = s.port i := rfl
@[simp] theorem stack_updRst (f : Rst → Rst) (i : Nat) : (s.updRst f).stack i = s.stack i := rfl
@[simp] theorem core_updBkp (f : Backup → Backup) (i : CoreId) : (s.updBkp f).core i = s.core i := rfl
@[simp] theorem part_updBkp (f : Backup → Backup) (i : Nat) : (s.updBkp f).part i = s.part i := rfl
@[simp] theorem wp_updBkp (f : Backup → Backup) (i : Nat) : (s.updBkp f).wp i = s.wp i := rfl
@[simp] theorem ink_updBkp (f : Backup → Backup) (i : CoreId) : (s.updBkp f).ink i = s.ink i := rfl
@[simp] theorem queue_updBkp (f : Backup → Backup) (i : Nat) : (s.updBkp f).queue i = s.queue i := rfl
@[simp] theorem func_updBkp (f : Backup → Backup) (i : Nat) : (s.updBkp f).func i = s.func i := rfl
@[simp] theorem port_updBkp (f : Backup → Backup) (i : Nat) : (s.updBkp f).port i = s.port i := rfl
@[simp] theorem stack_updBkp (f : Backup → Backup) (i : Nat) : (s.updBkp f).stack i = s.stack i := rfl
@[simp] theorem core_updSvr (f : Surveyor → Surveyor) (i : CoreId) : (s.updSvr f).core i = s.core i := rfl
@[simp] theorem part_updSvr (f : Surveyor → Surveyor) (i : Nat) : (s.updSvr f).part i = s.part i := rfl
@[simp] theorem wp_updSvr (f : Surveyor → Surveyor) (i : Nat) : (s.updSvr f).wp i = s.wp i := rfl
@[simp] theorem ink_updSvr (f : Surveyor → Surveyor) (i : CoreId) : (s.updSvr f).ink i = s.ink i := rfl
@[simp] theorem queue_updSvr (f : Surveyor → Surveyor) (i : Nat) : (s.updSvr f).queue i = s.queue i := rfl
@[simp] theorem func_updSvr (f : Surveyor → Surveyor) (i : Nat) : (s.updSvr f).func i = s.func i := rfl
@[simp] theorem port_updSvr (f : Surveyor → Surveyor) (i : Nat) : (s.updSvr f).port i = s.port i := rfl
@[simp] theorem stack_updSvr (f : Surveyor → Surveyor) (i : Nat) : (s.updSvr f).stack i = s.stack i := rfl
@[simp] theorem core_respond (r : Response) (i : CoreId) : (s.respond r).core i = s.core i := rfl
@[simp] theorem part_respond (r : Response) (i : Nat) : (s.respond r).part i = s.part i := rfl
@[simp] theorem wp_respond (r : Response) (i : Nat) : (s.respond r).wp i = s.wp i := rfl
@[simp] theorem ink_respond (r : Response) (i : CoreId) : (s.respond r).ink i = s.ink i := rfl
@[simp] theorem queue_respond (r : Response) (i : Nat) : (s.respond r).queue i = s.queue i := rfl
@[simp] theorem func_respond (r : Response) (i : Nat) : (s.respond r).func i = s.func i := rfl
@[simp] theorem port_respond (r : Response) (i : Nat) : (s.respond r).port i = s.port i := rfl
@[simp] theorem stack_respond (r : Response) (i : Nat) : (s.respond r).stack i = s.stack i := rfl
@[simp] theorem core_send (p : Packet) (i : CoreId) : (s.send p).core i = s.core i := rfl
@[simp] theorem part_send (p : Packet) (i : Nat) : (s.send p).part i = s.part i := rfl
@[simp] theorem wp_send (p : Packet) (i : Nat) : (s.send p).wp i = s.wp i := rfl
@[simp] theorem ink_send (p : Packet) (i : CoreId) : (s.send p).ink i = s.ink i := rfl
@[simp] theorem queue_send (p : Packet) (i : Nat) : (s.send p).queue i = s.queue i := rfl
@[simp] theorem func_send (p : Packet) (i : Nat) : (s.send p).func i = s.func i := rfl
@[simp] theorem port_send (p : Packet) (i : Nat) : (s.send p).port i = s.port i := rfl
@[simp] theorem stack_send (p : Packet) (i : Nat) : (s.send p).stack i = s.stack i := rfl
@[simp] theorem core_sendAll (ps : List Packet) (i : CoreId) : (s.sendAll ps).core i = s.core i := rfl
@[simp] theorem part_sendAll (ps : List Packet) (i : Nat) : (s.sendAll ps).part i = s.part i := rfl
@[simp] theorem wp_sendAll (ps : List Packet) (i : Nat) : (s.sendAll ps).wp i = s.wp i := rfl
@[simp] theorem ink_sendAll (ps : List Packet) (i : CoreId) : (s.sendAll ps).ink i = s.ink i := rfl
@[simp] theorem queue_sendAll (ps : List Packet) (i : Nat) : (s.sendAll ps).queue i = s.queue i := rfl
@[simp] theorem func_sendAll (ps : List Packet) (i : Nat) : (s.sendAll ps).func i = s.func i := rfl
@[simp] theorem port_sendAll (ps : List Packet) (i : Nat) : (s.sendAll ps).port i = s.port i := rfl
@[simp] theorem stack_sendAll (ps : List Packet) (i : Nat) : (s.sendAll ps).stack i = s.stack i := rfl
@[simp] theorem core_withPending (q : List Instr) (i : CoreId) : (s.withPending q).core i = s.core i := rfl
@[simp] theorem part_withPending (q : List Instr) (i : Nat) : (s.withPending q).part i = s.part i := rfl
@[simp] theorem wp_withPending (q : List Instr) (i : Nat) : (s.withPending q).wp i = s.wp i := rfl
@[simp] theorem ink_withPending (q : List Instr) (i : CoreId) : (s.withPending q).ink i = s.ink i := rfl
@[simp] theorem queue_withPending (q : List Instr) (i : Nat) : (s.withPending q).queue i = s.queue i := rfl
@[simp] theorem func_withPending (q : List Instr) (i : Nat) : (s.withPending q).func i = s.func i := rfl
@[simp] theorem port_withPending (q : List Instr) (i : Nat) : (s.withPending q).port i = s.port i := rfl
@[simp] theorem stack_withPending (q : List Instr) (i : Nat) : (s.withPending q).stack i = s.stack i := rfl
@[simp] theorem core_hwSet (a : Nat) (b : W64) (i : CoreId) : (s.hwSet a b).core i = s.core i := rfl
@[simp] theorem part_hwSet (a : Nat) (b : W64) (i : Nat) : (s.hwSet a b).part i = s.part i := rfl
@[simp] theorem wp_hwSet (a : Nat) (b : W64) (i : Nat) : (s.hwSet a b).wp i = s.wp i := rfl
@[simp] theorem ink_hwSet (a : Nat) (b : W64) (i : CoreId) : (s.hwSet a b).ink i = s.ink i := rfl
@[simp] theorem queue_hwSet (a : Nat) (b : W64) (i : Nat) : (s.hwSet a b).queue i = s.queue i := rfl
@[simp] theorem func_hwSet (a : Nat) (b : W64) (i : Nat) : (s.hwSet a b).func i = s.func i := rfl
@[simp] theorem port_hwSet (a : Nat) (b : W64) (i : Nat) : (s.hwSet a b).port i = s.port i := rfl
@[simp] theorem stack_hwSet (a : Nat) (b : W64) (i : Nat) : (s.hwSet a b).stack i = s.stack i := rfl

/-! ### W1C bits (spec/00 R12) -/

/-- A bit that hardware has just set is not cleared by a write of the same cycle. -/
theorem clears_hwSet_same (a : Nat) (b v : W64) : (s.hwSet a b).clears a v = v &&& ~~~(Sparse.get 0 s.justSet a ||| b) := by
  unfold State.clears; rw [hwSet_justSet, Sparse.get_upd_same]
theorem clears_hwSet_other (a o : Nat) (b v : W64) (h : o ≠ a) : (s.hwSet a b).clears o v = s.clears o v := by
  unfold State.clears; rw [hwSet_justSet, Sparse.get_upd_other _ _ _ _ _ h]
/-- Where hardware has set nothing, a write clears what it names. -/
theorem clears_nothing (a : Nat) (v : W64) (h : Sparse.get 0 s.justSet a = 0) : s.clears a v = v := by
  unfold State.clears; rw [h]; exact BitVec.and_allOnes

end Sys2Proof.Machine.State
end

