-- ==== Sys2Proof/Laws/Ops.lean ====
section
/-! SUPPORT. What the shared operations do, each said once: one core's registers and state, issue. -/

namespace Sys2Proof.Machine

/-! ### One core of the table -/

@[simp] theorem State.updCore_updCore (s : State) (c : CoreId) (f g : Core → Core) :
    (s.updCore c f).updCore c g = s.updCore c fun k => g (f k) := by
  simp [State.updCore]

/-- A change that gives the core the same value changes the state the same way. -/
theorem State.updCore_congr (s : State) (c : CoreId) (f g : Core → Core) (h : f (s.core c) = g (s.core c)) :
    s.updCore c f = s.updCore c g := by
  exact congrArg (fun v => { s with cores := Sparse.put {} s.cores c v }) h

@[simp] theorem State.partOf_updCore (s : State) (c d : CoreId) (f : Core → Core) : (s.updCore c f).partOf d = s.partOf d := rfl
@[simp] theorem State.issueBar_updCore (s : State) (c : CoreId) (f : Core → Core) (k : Core) (regs : List Reg) :
    (s.updCore c f).issueBar k regs = s.issueBar k regs := rfl

/-! ### Core registers -/

theorem Core.gr_zero (k : Core) : k.gr 0 = 0 := rfl

theorem Core.gr_setG_same (k : Core) (r : Reg) (v : W64) (h : r ≠ 0) : (k.setG r v).gr r = v := by
  rw [Core.gr, if_neg h, Core.setG, if_neg h]
  exact Sparse.get_put_same 0 k.g r.toNat v

theorem Core.gr_setG_other (k : Core) (r q : Reg) (v : W64) (h : q ≠ r) : (k.setG r v).gr q = k.gr q := by
  unfold Core.gr Core.setG
  by_cases hr : r = 0
  · rw [if_pos hr]
  · have hn : q.toNat ≠ r.toNat := fun e => h (BitVec.eq_of_toNat_eq e)
    rw [if_neg hr]
    show (if q = 0 then 0 else Sparse.get 0 (Sparse.put 0 k.g r.toNat v) q.toNat) = _
    rw [Sparse.get_put_other _ _ _ _ _ hn]

@[simp] theorem Core.setG_pc (k : Core) (r : Reg) (v : W64) : (k.setG r v).pc = k.pc := by
  unfold Core.setG; split <;> rfl
@[simp] theorem Core.setG_store (k : Core) (r : Reg) (v : W64) : (k.setG r v).store = k.store := by
  unfold Core.setG; split <;> rfl

/-! ### Arrival (spec/06 R234; log 22) -/

/-- A packet for this module that it did not send arrives at once and changes nothing by arriving. -/
theorem State.arrive_external {s : State} {p : Packet} (h : s.forUs p = true) (hr : s.rst.inReset = false)
    (hn : s.net.contains p = false) : s.arrive p = some s := by
  unfold State.arrive
  rw [h, hr, hn]; rfl

/-- Nothing arrives at a module in reset, nor a packet for another module. -/
theorem State.arrive_none {s : State} {p : Packet} (h : s.forUs p = false ∨ s.rst.inReset = true) : s.arrive p = none := by
  unfold State.arrive
  rcases h with h | h <;> simp [h]

/-- A packet that has landed is out of its sender's list, and nothing else has changed. -/
theorem State.settled_cases (s : State) (p : Packet) :
    s.settled p = s ∨ ∃ f : Core → Core, s.settled p = s.updCore p.src.toNat f := by
  unfold State.settled
  split
  · exact .inr ⟨_, rfl⟩
  · exact .inl rfl

/-- What an arrival leaves: the packet out of the mesh when this module sent it, and out of its sender's list (spec/06 R232). -/
theorem State.arrive_some {s t : State} {p : Packet} (h : s.arrive p = some t) :
    s.forUs p = true ∧ s.rst.inReset = false ∧ (t = s ∨ t = { s with net := s.net.erase p }.settled p) := by
  unfold State.arrive at h
  split at h
  · cases h
  · next hb =>
    simp only [Bool.or_eq_true, Bool.not_eq_true'] at hb
    refine ⟨by simpa using fun e => hb (.inl e), by simpa using fun e => hb (.inr e), ?_⟩
    split at h
    · split at h
      · cases h
      · cases h; exact .inr rfl
    · cases h; exact .inl rfl

/-! ### Issue (spec/04 R166, R174) -/

theorem State.canIssue_issues {s : State} {c : CoreId} {regs : List Reg} (h : s.canIssue c regs = true) :
    s.issues c = true ∧ s.issueBar (s.core c) regs = none := by
  simpa [State.canIssue] using h

/-- A core that does not issue is left as it is. -/
theorem issue_off {c : CoreId} {len : Nat} {regs : List Reg} {f : Core → Res} {s : State} (h : s.issues c = false) :
    issue c len regs f s = .next s := by
  simp [issue, h]

/-- A core that waits for a register notes its idle cause and does nothing else. -/
theorem issue_held {c : CoreId} {len : Nat} {regs : List Reg} {f : Core → Res} {s : State} {cause : Nat}
    (h : s.issues c = true) (hb : s.issueBar (s.core c) regs = some cause) (hc : ¬(cause = 5 ∨ cause = 7 ∨ cause = 6)) :
    issue c len regs f s = .next (s.updCore c fun k => { k with stall := some cause }) := by
  simp [issue, h, hb, hc]

/-- A core that a hold of POWER, CHECK or DATUM keeps from issuing is left as it is. -/
theorem issue_hold {c : CoreId} {len : Nat} {regs : List Reg} {f : Core → Res} {s : State} {cause : Nat}
    (hb : s.issueBar (s.core c) regs = some cause) (hc : cause = 5 ∨ cause = 7 ∨ cause = 6) :
    issue c len regs f s = .next s := by
  unfold issue
  cases h : s.issues c <;> simp [hb, hc]

/-- An instruction that issues: the core moves past it. -/
theorem issue_ok {c : CoreId} {len : Nat} {regs : List Reg} {f : Core → Res} {s t : State}
    (h : s.canIssue c regs = true) (hf : f (s.core c) = .ok t) :
    issue c len regs f s = .next (t.updCore c fun j => j.retire ((s.core c).pc.toNat + len)) := by
  obtain ⟨h1, h2⟩ := State.canIssue_issues h
  simp [issue, h1, h2, hf]

/-- An instruction that changes its own core only. -/
theorem issue_passing {c : CoreId} {len : Nat} {regs : List Reg} {f : Core → Res} {s : State} (g : Core → Core)
    (h : s.canIssue c regs = true) (hf : f (s.core c) = .ok (s.updCore c g)) :
    issue c len regs f s = .next (s.passing c len g) := by
  rw [issue_ok h hf, State.updCore_updCore]
  exact congrArg _ (State.updCore_congr s c _ _ rfl)

theorem issue_jump {c : CoreId} {len : Nat} {regs : List Reg} {f : Core → Res} {s t : State} {pc : Nat}
    (h : s.canIssue c regs = true) (hf : f (s.core c) = .jump t pc) :
    issue c len regs f s = .next (t.updCore c fun j => j.retire pc) := by
  obtain ⟨h1, h2⟩ := State.canIssue_issues h
  simp [issue, h1, h2, hf]

theorem issue_stall {c : CoreId} {len : Nat} {regs : List Reg} {f : Core → Res} {s t : State} {cause : Nat}
    (h : s.canIssue c regs = true) (hf : f (s.core c) = .stall t cause) :
    issue c len regs f s = .next (t.updCore c fun j => { j with stall := some cause }) := by
  obtain ⟨h1, h2⟩ := State.canIssue_issues h
  simp [issue, h1, h2, hf]

theorem issue_fault {c : CoreId} {len : Nat} {regs : List Reg} {f : Core → Res} {s t : State} {code : FCode} {detail : Byte}
    (h : s.canIssue c regs = true) (hf : f (s.core c) = .fault t code detail) :
    issue c len regs f s = .next (t.raise c (s.core c).pc (s.core c).seq detail code code.cls) := by
  obtain ⟨h1, h2⟩ := State.canIssue_issues h
  simp [issue, h1, h2, hf]

/-- An attempt to issue always answers a next state. -/
theorem issue_answers (c : CoreId) (len : Nat) (regs : List Reg) (f : Core → Res) (s : State) :
    answers (issue c len regs f s) := by
  unfold issue
  simp only
  split
  · exact ⟨_, rfl⟩
  · split
    · exact ⟨_, rfl⟩
    · split <;> exact ⟨_, rfl⟩

/-! ### Flits -/

/-- The check of a flit does not cover the FCRC field itself. -/
@[simp] theorem flitBytes_fcrc (f : Flit) (x : W32) : flitBytes { f with fcrc := x } = flitBytes f := rfl

@[simp] theorem flitCrcOk_sealed (f : Flit) : flitCrcOk (flitSealed f) = true := by
  simp [flitCrcOk, flitSealed]

@[simp] theorem flitCrcOk_flit (o : Port) (k : FlitKind) (c : Nat) (x : W16) (bs : List Byte) :
    flitCrcOk (o.flit k c x bs) = true := flitCrcOk_sealed _

end Sys2Proof.Machine
end

