-- ==== Sys2Proof/Laws/Frames.lean ====
section
/-! SUPPORT. What the shared operations over stacked memory, the host, the journals and the event rings can do, each
said once: which part of the state they may change, and that memories stay canonical. -/

namespace Sys2Proof.Machine

/-! ### Stacked memory (spec/07 R277) -/

theorem foldl_write_wf (keep : Nat → Bool) (a : Nat) : ∀ (ps : List (Byte × Nat)) {m : Memory}, Sparse.Wf 0 m →
    Sparse.Wf 0 (ps.foldl (fun (m : Memory) p => if keep p.2 then m else m.write (a + p.2) p.1) m)
  | [], _, h => h
  | p :: r, m, h => by
    simp only [List.foldl_cons]
    refine foldl_write_wf keep a r ?_
    split
    · exact h
    · exact Memory.write_wf h _ _

/-- A write to stacked memory changes the bytes of the stacks and nothing else. -/
theorem State.memWrite_frame (s : State) (a : Nat) (bs : List Byte) :
    s.memWrite a bs = s.updMem fun m => { m with bytes := (s.memWrite a bs).mem.bytes } := rfl

theorem State.memWrite_wf {s : State} (h : s.mem.bytes.wf = true) (a : Nat) (bs : List Byte) :
    (s.memWrite a bs).mem.bytes.wf = true := by
  have h' := (Sparse.wf_iff 0 _).1 h
  refine (Sparse.wf_iff 0 _).2 ?_
  simp only [State.memWrite]
  show Sparse.Wf 0 (ite _ _ _)
  split
  · exact Memory.writeBytes_wf bs a h'
  · exact foldl_write_wf (fun i => s.mem.poisoned.contains ((a + i) / 4096)) a _ h'

theorem State.memWrite_keeps {s : State} (h : s.memoriesCanonical) (a : Nat) (bs : List Byte) :
    (s.memWrite a bs).memoriesCanonical := ⟨State.memWrite_wf h.1 a bs, h.2⟩

theorem foldl_write_outside (keep : Nat → Bool) (a x : Nat) : ∀ (ps : List (Byte × Nat)) (m : Memory),
    (∀ p ∈ ps, x ≠ a + p.2) →
    Memory.read (ps.foldl (fun m p => if keep p.2 then m else m.write (a + p.2) p.1) m) x = m.read x
  | [], _, _ => rfl
  | p :: r, m, h => by
    simp only [List.foldl_cons]
    rw [foldl_write_outside keep a x r _ fun q hq => h q (List.mem_cons_of_mem _ hq)]
    split
    · rfl
    · exact Memory.read_write_other m _ x _ (h p (List.mem_cons_self ..))

/-- A byte outside the range written reads as before. -/
theorem State.memWrite_outside (s : State) (a : Nat) (bs : List Byte) (x : Nat) (h : x < a ∨ a + bs.length ≤ x) :
    (s.memWrite a bs).mem.bytes.read x = s.mem.bytes.read x := by
  show Memory.read (ite _ _ _) x = _
  split
  · exact Memory.read_writeBytes_outside bs _ a x h
  · refine foldl_write_outside (fun i => s.mem.poisoned.contains ((a + i) / 4096)) a x _ _ ?_
    rintro ⟨b, i⟩ hp
    have := (List.mem_zipIdx hp).2.1
    simp only at this ⊢
    omega

/-- The bytes written to a range with no poisoned page are read back. -/
theorem State.memWrite_reads {s : State} {a : Nat} {bs : List Byte} (h : s.poisonIn a bs.length = none) :
    (s.memWrite a bs).mem.bytes.readBytes a bs.length = bs := by
  show Memory.readBytes (ite _ _ _) a _ = _
  rw [if_pos (by simp [h])]
  exact Memory.readBytes_writeBytes bs _ a

/-- All that a write of a unit that makes no mesh requests can do: it writes a local range that is not isolated. -/
theorem State.unitPut_some {s t : State} {a : Nat} {bs : List Byte} (h : s.unitPut a bs = some t) :
    spaceOf a = .memory ∧ s.memIsolated a bs.length = false ∧ t = s.memWrite a bs := by
  unfold State.unitPut at h
  split at h
  · next hm =>
    split at h
    · cases h
    · next hi => cases h; exact ⟨hm, by simpa using hi, rfl⟩
  · cases h

/-- Such a write keeps the memories canonical. -/
theorem State.unitWrite_keeps {s : State} (hs : s.memoriesCanonical) (a : Nat) (bs : List Byte) :
    (s.unitWrite a bs).memoriesCanonical := by
  unfold State.unitWrite
  cases h : s.unitPut a bs with
  | none => exact hs
  | some t => obtain ⟨-, -, rfl⟩ := State.unitPut_some h; exact State.memWrite_keeps hs a bs

/-! ### What changes the host interface only (spec/12 R432, R439) -/

/-- `t` is `s` with another host interface, whose memory is canonical when it was. -/
def OnlyHost (s t : State) : Prop := t = { s with host := t.host } ∧ (s.host.mem.wf = true → t.host.mem.wf = true)

theorem OnlyHost.refl (s : State) : OnlyHost s s := ⟨rfl, id⟩

theorem OnlyHost.trans {s t u : State} (h : OnlyHost s t) (k : OnlyHost t u) : OnlyHost s u :=
  ⟨by rw [k.1, h.1], fun w => k.2 (h.2 w)⟩

theorem OnlyHost.keeps {s t : State} (h : OnlyHost s t) (hs : s.memoriesCanonical) : t.memoriesCanonical :=
  ⟨by rw [h.1]; exact hs.1, h.2 hs.2⟩

theorem OnlyHost.foldl {α : Type} (f : State → α → State) (hf : ∀ s a, OnlyHost s (f s a)) :
    ∀ (l : List α) (s : State), OnlyHost s (l.foldl f s)
  | [], s => OnlyHost.refl s
  | a :: r, s => (hf s a).trans (OnlyHost.foldl f hf r (f s a))

theorem State.updQueue_onlyHost (s : State) (q : Nat) (f : Queue → Queue) : OnlyHost s (s.updQueue q f) := ⟨rfl, id⟩
theorem State.updFunc_onlyHost (s : State) (k : Nat) (f : Func → Func) : OnlyHost s (s.updFunc k f) := ⟨rfl, id⟩

theorem State.hostSend_onlyHost (s : State) (w : HostWrite) : OnlyHost s (s.hostSend w) := by
  unfold State.hostSend
  split
  · split
    · next a bs _ =>
      exact ⟨rfl, fun h => (Sparse.wf_iff 0 _).2 (Memory.writeBytes_wf bs a ((Sparse.wf_iff 0 _).1 h))⟩
    · exact ⟨rfl, id⟩
  · exact ⟨rfl, id⟩

theorem State.hostWrite_onlyHost (s : State) (a : Nat) (bs : List Byte) : OnlyHost s (s.hostWrite a bs) :=
  s.hostSend_onlyHost _

/-- Bytes sent to a host whose link is up stand in its memory. -/
theorem State.hostWrite_reads {s : State} (h : s.host.linkUp = true) (a : Nat) (bs : List Byte) :
    (s.hostWrite a bs).host.mem.readBytes a bs.length = bs := by
  unfold State.hostWrite State.hostSend
  rw [if_pos h]
  exact Memory.readBytes_writeBytes bs _ a

theorem State.msix_onlyHost (s : State) (f v : Nat) : OnlyHost s (s.msix f v) := s.hostSend_onlyHost _

theorem State.ringPut_onlyHost (s : State) (k typ : Nat) (rest : List Byte) : OnlyHost s (s.ringPut k typ rest) :=
  ((s.hostWrite_onlyHost _ _).trans (State.updFunc_onlyHost _ _ _)).trans (State.msix_onlyHost _ _ _)

theorem State.ringLost_onlyHost (s : State) (k : Nat) : OnlyHost s (s.ringLost k) := by
  unfold State.ringLost
  extract_lets f
  split
  · exact (s.ringPut_onlyHost _ _ _).trans (State.updFunc_onlyHost _ _ _)
  · exact OnlyHost.refl s

theorem State.recordOut_onlyHost (s : State) (q : Nat) (rec : List Byte) : OnlyHost s (s.recordOut q rec) := by
  unfold State.recordOut
  simp only
  split
  · exact ((s.hostWrite_onlyHost _ _).trans (State.updQueue_onlyHost _ _ _)).trans (State.msix_onlyHost _ _ _)
  · exact (s.hostWrite_onlyHost _ _).trans (State.updQueue_onlyHost _ _ _)

theorem State.flushRecords_onlyHost (s : State) (q : Nat) : OnlyHost s (s.flushRecords q) :=
  (s.updQueue_onlyHost q _).trans (OnlyHost.foldl _ (fun t r => t.recordOut_onlyHost q r) _ _)

theorem State.record_onlyHost (s : State) (q : Nat) (rec : List Byte) : OnlyHost s (s.record q rec) :=
  (s.updQueue_onlyHost q _).trans (State.flushRecords_onlyHost _ q)

theorem State.complete_onlyHost (s : State) (q : Nat) (c : Cmd) (st : Status) (n : Nat) (d : W64) :
    OnlyHost s (s.complete q c st n d) := s.record_onlyHost q _

theorem State.cancelAll_onlyHost (s : State) (q : Nat) (cs : List Cmd) : OnlyHost s (s.cancelAll q cs) :=
  OnlyHost.foldl _ (fun t c => t.complete_onlyHost q c _ _ _) cs s

theorem settleList_onlyHost (q : Nat) : ∀ (cs : List Cmd) (s : State), OnlyHost s (settleList q cs s)
  | [], s => OnlyHost.refl s
  | c :: rest, s => by
    unfold settleList
    split
    · exact OnlyHost.refl s
    · exact ((s.updQueue_onlyHost q _).trans (State.complete_onlyHost _ _ _ _ _ _)).trans (settleList_onlyHost q rest _)

theorem State.settle_onlyHost (s : State) (q : Nat) : OnlyHost s (s.settle q) := settleList_onlyHost q _ s

theorem State.finishFront_onlyHost (s : State) (q : Nat) (st : Status) (n : Nat) (d : W64) (stop : Bool) :
    OnlyHost s (s.finishFront q st n d stop) := by
  unfold State.finishFront
  split
  · exact OnlyHost.refl s
  · simp only
    have h := fun c => (s.updQueue_onlyHost q fun u => { u with accepted := ‹List Cmd› }).trans
      (State.complete_onlyHost _ q c st n d)
    split
    · exact ((h _).trans (State.updQueue_onlyHost _ _ _)).trans (State.cancelAll_onlyHost _ _ _)
    · exact (h _).trans (State.settle_onlyHost _ _)

/-! ### Reports (spec/12 R449, spec/15 R518): the host interface and SMB_ALERT_N -/

/-- `t` is `s` with another host interface and another SMB_ALERT_N. -/
def OnlyReport (s t : State) : Prop :=
  t = { s with host := t.host, svr := { s.svr with smbAlert := t.svr.smbAlert } } ∧
  (s.host.mem.wf = true → t.host.mem.wf = true)

theorem OnlyHost.report {s t : State} (h : OnlyHost s t) : OnlyReport s t :=
  ⟨by rw [h.1], h.2⟩

theorem OnlyReport.trans {s t u : State} (h : OnlyReport s t) (k : OnlyReport t u) : OnlyReport s u :=
  ⟨by rw [k.1, h.1], fun w => k.2 (h.2 w)⟩

theorem OnlyReport.mem {s t : State} (h : OnlyReport s t) : t.mem = s.mem := by rw [h.1]
theorem OnlyReport.mram {s t : State} (h : OnlyReport s t) : t.mram = s.mram := by rw [h.1]

theorem OnlyReport.keeps {s t : State} (h : OnlyReport s t) (hs : s.memoriesCanonical) : t.memoriesCanonical :=
  ⟨by rw [h.1]; exact hs.1, h.2 hs.2⟩

theorem State.ringFault_onlyReport (s : State) (k : Nat) (e : Event) : OnlyReport s (s.ringFault k e) := by
  unfold State.ringFault
  simp only
  split
  · split
    · exact (State.ringPut_onlyHost _ _ _ _).report.trans ⟨rfl, id⟩
    · exact (State.ringPut_onlyHost _ _ _ _).report
  · exact (State.updFunc_onlyHost _ _ _).report

theorem State.ringEvent_onlyReport (s : State) (k : Nat) (e : Event) : OnlyReport s (s.ringEvent k e) :=
  (s.ringLost_onlyHost k).report.trans (State.ringFault_onlyReport _ k e)

theorem State.eventAt_onlyReport (s : State) (e : Event) : OnlyReport s (s.eventAt e) := by
  unfold State.eventAt
  simp only
  split
  · split
    · exact (s.ringEvent_onlyReport 0 e).trans (State.ringEvent_onlyReport _ _ e)
    · exact s.ringEvent_onlyReport 0 e
  · exact s.ringEvent_onlyReport 0 e

theorem State.event_onlyReport (s : State) (e : Event) : OnlyReport s (s.event e) := s.eventAt_onlyReport _

/-! ### The end of a STEP (spec/12 R443, R446): the host interface and the partitions -/

/-- `t` is `s` with another host interface and other partitions, and W1C bits just set. -/
def OnlyStep (s t : State) : Prop :=
  t = { s with host := t.host, parts := t.parts, justSet := t.justSet } ∧ (s.host.mem.wf = true → t.host.mem.wf = true)

theorem OnlyHost.step {s t : State} (h : OnlyHost s t) : OnlyStep s t := ⟨by rw [h.1], h.2⟩

theorem OnlyStep.trans {s t u : State} (h : OnlyStep s t) (k : OnlyStep t u) : OnlyStep s u :=
  ⟨by rw [k.1, h.1], fun w => k.2 (h.2 w)⟩

theorem OnlyStep.keeps {s t : State} (h : OnlyStep s t) (hs : s.memoriesCanonical) : t.memoriesCanonical :=
  ⟨by rw [h.1]; exact hs.1, h.2 hs.2⟩

theorem State.updPart_onlyStep (s : State) (p : Nat) (f : Part → Part) : OnlyStep s (s.updPart p f) := ⟨rfl, id⟩

theorem State.launchWrite_onlyStep (s : State) (p : Nat) (w : W64) (e : W32) : OnlyStep s (s.launchWrite p w e) := by
  unfold State.launchWrite
  split
  · exact s.updPart_onlyStep p _
  · split
    · exact ⟨rfl, id⟩
    · exact s.updPart_onlyStep p _

theorem State.stepBegin_onlyStep (s : State) (p : Nat) (r : StepRun) : OnlyStep s (s.stepBegin p r).2 := by
  unfold State.stepBegin
  simp only
  split
  · exact (s.launchWrite_onlyStep p _ _).trans (State.updPart_onlyStep _ _ _)
  · simp only
    split
    · exact (s.launchWrite_onlyStep p _ _).trans (State.finishFront_onlyHost _ _ _ _ _ _).step
    · exact (State.finishFront_onlyHost _ _ _ _ _ _).step

theorem stepsProceed_onlyStep (p : Nat) : ∀ (rs : List StepRun) (s : State), OnlyStep s (stepsProceed p rs s)
  | [], s => s.updPart_onlyStep p _
  | r :: rest, s => by
    unfold stepsProceed
    simp only
    split
    · exact (s.stepBegin_onlyStep p r).trans (State.updPart_onlyStep _ _ _)
    · exact (s.stepBegin_onlyStep p r).trans (stepsProceed_onlyStep p rest _)

theorem State.stepsGo_onlyStep (s : State) (p : Nat) : OnlyStep s (s.stepsGo p) := by
  unfold State.stepsGo
  split
  · split
    · exact (s.updPart_onlyStep p _).trans (stepsProceed_onlyStep p _ _)
    · exact ⟨rfl, id⟩
  · exact ⟨rfl, id⟩

theorem State.finishStep_onlyStep (s : State) (p : Nat) (st : Status) (stop : Bool) :
    OnlyStep s (s.finishStep p st stop) := by
  unfold State.finishStep
  split
  · exact ⟨rfl, id⟩
  · exact ((s.updPart_onlyStep p _).trans (State.finishFront_onlyHost _ _ _ _ _ _).step).trans
      (State.stepsGo_onlyStep _ p)

/-! ### Faults, episodes and issue keep the memories canonical (spec/04 R175, spec/13 R456, R459) -/

theorem State.smudgeSend_keeps {s : State} (h : s.memoriesCanonical) (p : Nat) : (s.smudgeSend p).memoriesCanonical := by
  unfold State.smudgeSend
  simp only
  split <;> exact h

theorem State.raise_keeps {s : State} (h : s.memoriesCanonical) (c : CoreId) (pc : BitVec 18) (seq : Nat)
    (detail : Byte) (code : FCode) (cls : FClass) (count : W32) (ev : Option W64) :
    (s.raise c pc seq detail code cls count ev).memoriesCanonical := by
  have hk : ∀ (t : State) e, t.memoriesCanonical → (t.event e).memoriesCanonical :=
    fun t e => (t.event_onlyReport e).keeps
  unfold State.raise
  extract_lets p s1 s2 s3 s4
  have h1 : s1.memoriesCanonical := h
  have h2 : s2.memoriesCanonical := hk s1 _ h1
  have h3 : s3.memoriesCanonical := h2
  have h4 : s4.memoriesCanonical := h2
  clear_value s4 s3 s2 p
  split
  · exact h2
  · split
    · exact State.smudgeSend_keeps h3 _
    · exact h3
  · split
    · exact (State.finishStep_onlyStep _ _ _ _).keeps h4
    · exact h4

theorem State.raiseJob_keeps {s : State} (h : s.memoriesCanonical) (p : Nat) (core : Option CoreId) (code : FCode)
    (cls : FClass) (count : W32) (ev : Option W64) : (s.raiseJob p core code cls count ev).memoriesCanonical := by
  unfold State.raiseJob
  extract_lets s1
  have h1 : s1.memoriesCanonical := (s.event_onlyReport _).keeps h
  clear_value s1
  split
  · exact h1
  · exact State.smudgeSend_keeps h1 _
  · exact (State.finishStep_onlyStep _ _ _ _).keeps h1

theorem State.stopJob_keeps {s : State} (h : s.memoriesCanonical) (p : Nat) (code : FCode) (ev : Option W64) :
    (s.stopJob p code ev).memoriesCanonical := by
  unfold State.stopJob
  extract_lets s1
  have h0 : s1.memoriesCanonical := ⟨h.1, h.2⟩
  clear_value s1
  have h1 : (s1.updPart p fun x => { x with stopped := true }).memoriesCanonical := h0
  exact State.raiseJob_keeps h1 _ _ _ _ _ _

theorem State.enterReset_keeps {s : State} (h : s.memoriesCanonical) (pon : Bool) : (s.enterReset pon).memoriesCanonical := by
  refine ⟨?_, h.2⟩
  cases pon
  · exact h.1
  · rfl

theorem State.pinEntry_keeps {s : State} (h : s.memoriesCanonical) : s.pinEntry.memoriesCanonical := by
  unfold State.pinEntry
  split
  · exact h
  · split
    · exact h
    · exact State.enterReset_keeps h _

theorem State.recognise_keeps {s : State} (h : s.memoriesCanonical) (bits : BitVec 5) :
    (s.recognise bits).memoriesCanonical := by
  have h1 : (s.addCause bits).memoriesCanonical := by
    unfold State.addCause
    split
    · exact ⟨h.1, h.2⟩
    · exact h
  unfold State.recognise
  extract_lets pon s1
  have h2 : s1.memoriesCanonical := by
    unfold s1
    split
    · exact ⟨h1.1, h1.2⟩
    · exact ⟨h.1, h.2⟩
  clear_value s1
  exact ⟨h2.1, h2.2⟩

theorem State.internalCause_keeps {s : State} (h : s.memoriesCanonical) (code : Byte) (bits : BitVec 5)
    (core : Option CoreId) (part : Option Nat) (detail : W64) :
    (s.internalCause code bits core part detail).memoriesCanonical := by
  unfold State.internalCause
  extract_lets s1
  have h1 : s1.memoriesCanonical := h
  clear_value s1
  split
  · exact h1
  · exact State.pinEntry_keeps (State.recognise_keeps h1 bits)

theorem State.uncorrectable_keeps {s : State} (h : s.memoriesCanonical) (page : Nat) (core : Option CoreId)
    (part : Option Nat) : (s.uncorrectable page core part).memoriesCanonical := by
  unfold State.uncorrectable
  extract_lets s1 s2 addr
  have h1 : s1.memoriesCanonical := by
    unfold s1
    split <;> exact h
  have h2 : s2.memoriesCanonical := h1
  clear_value s2 s1
  exact State.internalCause_keeps h2 _ _ _ _ _

/-- `t` is `s` with another Rst and a report. -/
def OnlyNv (s t : State) : Prop := t.mem = s.mem ∧ t.mram = s.mram ∧ (s.memoriesCanonical → t.memoriesCanonical)

theorem OnlyReport.onlyNv {s t : State} (h : OnlyReport s t) : OnlyNv s t := ⟨h.mem, h.mram, h.keeps⟩

theorem OnlyNv.trans {s t u : State} (h : OnlyNv s t) (k : OnlyNv t u) : OnlyNv s u :=
  ⟨k.1.trans h.1, k.2.1.trans h.2.1, fun w => k.2.2 (h.2.2 w)⟩

theorem State.updRst_onlyNv (s : State) (f : Rst → Rst) : OnlyNv s (s.updRst f) := ⟨rfl, rfl, id⟩

theorem State.nvRefused_onlyNv (s : State) : OnlyNv s s.nvRefused := by
  unfold State.nvRefused
  split
  · exact ⟨rfl, rfl, id⟩
  · exact (s.updRst_onlyNv _).trans (State.event_onlyReport _ _).onlyNv

theorem State.nvStart_onlyNv (s : State) : OnlyNv s s.nvStart := by
  unfold State.nvStart
  split
  · exact ⟨rfl, rfl, id⟩
  · split
    · exact s.nvRefused_onlyNv
    · exact ⟨rfl, rfl, id⟩

/-- An NV record that is asked for changes neither the MRAM nor a memory until its commit pulse (R463). -/
theorem State.nvWrite_onlyNv (s : State) (f : Mram → Mram) : OnlyNv s (s.nvWrite f) := by
  unfold State.nvWrite
  split
  · exact ⟨rfl, rfl, id⟩
  · extract_lets s1
    have h1 : OnlyNv s s1 := ⟨rfl, rfl, id⟩
    clear_value s1
    split
    · exact h1
    · have k := s1.nvStart_onlyNv
      exact ⟨k.1.trans h1.1, k.2.1.trans h1.2.1, fun h => k.2.2 (h1.2.2 h)⟩

theorem State.nvWrite_keeps {s : State} (h : s.memoriesCanonical) (f : Mram → Mram) : (s.nvWrite f).memoriesCanonical :=
  (s.nvWrite_onlyNv f).2.2 h

/-- The states that a result carries have canonical memories. -/
def Res.canonical : Res → Prop
  | .ok s | .jump s _ | .stall s _ | .fault s _ _ | .faultAs s _ _ _ | .park s => s.memoriesCanonical

/-- An attempt to issue keeps the memories canonical when what it attempts does. -/
theorem issue_keeps {c : CoreId} {len : Nat} {regs : List Reg} {f : Core → Res} {s t : State} (h : s.memoriesCanonical)
    (hf : (f (s.core c)).canonical) (ht : issue c len regs f s = .next t) : t.memoriesCanonical := by
  unfold issue at ht
  extract_lets k at ht
  split at ht
  · cases ht; exact h
  · split at ht
    · cases ht
      split <;> exact h
    · have hk : (f k).canonical := hf
      generalize f k = r at hk ht
      cases r with
      | fault u code d => cases ht; exact State.raise_keeps hk _ _ _ _ _ _ _ _
      | faultAs u code cls d => cases ht; exact State.raise_keeps hk _ _ _ _ _ _ _ _
      | ok u => cases ht; exact hk
      | jump u pc => cases ht; exact hk
      | stall u n => cases ht; exact hk
      | park u => cases ht; exact hk

end Sys2Proof.Machine
end

