-- ==== Sys2Proof/Laws/PerInstr.lean ====
section
/-! SUPPORT. The family Sited, made per instruction: a well-formed command of a core belongs to a core that the T4 has. -/

namespace Sys2Proof.Laws.Sited

/-- The first of two conditions. -/
theorem left {a b : Bool} (h : (a && b) = true) : a = true := by cases a <;> simp_all

/-- What the family says of one command. -/
def Statement (i : Instr) : Prop := ∀ c, i.core? = some c → i.wf = true → coreOk c = true

theorem add (c : CoreId) (rd : Reg) (ra : Reg) (rb : Reg) : Statement (.add c rd ra rb) :=
  fun _ h w => Option.some.inj h ▸ w
theorem sub (c : CoreId) (rd : Reg) (ra : Reg) (rb : Reg) : Statement (.sub c rd ra rb) :=
  fun _ h w => Option.some.inj h ▸ w
theorem and (c : CoreId) (rd : Reg) (ra : Reg) (rb : Reg) : Statement (.and c rd ra rb) :=
  fun _ h w => Option.some.inj h ▸ w
theorem or (c : CoreId) (rd : Reg) (ra : Reg) (rb : Reg) : Statement (.or c rd ra rb) :=
  fun _ h w => Option.some.inj h ▸ w
theorem xor (c : CoreId) (rd : Reg) (ra : Reg) (rb : Reg) : Statement (.xor c rd ra rb) :=
  fun _ h w => Option.some.inj h ▸ w
theorem sll (c : CoreId) (rd : Reg) (ra : Reg) (rb : Reg) : Statement (.sll c rd ra rb) :=
  fun _ h w => Option.some.inj h ▸ w
theorem srl (c : CoreId) (rd : Reg) (ra : Reg) (rb : Reg) : Statement (.srl c rd ra rb) :=
  fun _ h w => Option.some.inj h ▸ w
theorem sra (c : CoreId) (rd : Reg) (ra : Reg) (rb : Reg) : Statement (.sra c rd ra rb) :=
  fun _ h w => Option.some.inj h ▸ w
theorem slt (c : CoreId) (rd : Reg) (ra : Reg) (rb : Reg) : Statement (.slt c rd ra rb) :=
  fun _ h w => Option.some.inj h ▸ w
theorem sltu (c : CoreId) (rd : Reg) (ra : Reg) (rb : Reg) : Statement (.sltu c rd ra rb) :=
  fun _ h w => Option.some.inj h ▸ w
theorem min (c : CoreId) (rd : Reg) (ra : Reg) (rb : Reg) : Statement (.min c rd ra rb) :=
  fun _ h w => Option.some.inj h ▸ w
theorem max (c : CoreId) (rd : Reg) (ra : Reg) (rb : Reg) : Statement (.max c rd ra rb) :=
  fun _ h w => Option.some.inj h ▸ w
theorem minu (c : CoreId) (rd : Reg) (ra : Reg) (rb : Reg) : Statement (.minu c rd ra rb) :=
  fun _ h w => Option.some.inj h ▸ w
theorem maxu (c : CoreId) (rd : Reg) (ra : Reg) (rb : Reg) : Statement (.maxu c rd ra rb) :=
  fun _ h w => Option.some.inj h ▸ w
theorem mul (c : CoreId) (rd : Reg) (ra : Reg) (rb : Reg) : Statement (.mul c rd ra rb) :=
  fun _ h w => Option.some.inj h ▸ w
theorem mulh (c : CoreId) (rd : Reg) (ra : Reg) (rb : Reg) : Statement (.mulh c rd ra rb) :=
  fun _ h w => Option.some.inj h ▸ w
theorem mulhu (c : CoreId) (rd : Reg) (ra : Reg) (rb : Reg) : Statement (.mulhu c rd ra rb) :=
  fun _ h w => Option.some.inj h ▸ w
theorem div (c : CoreId) (rd : Reg) (ra : Reg) (rb : Reg) : Statement (.div c rd ra rb) :=
  fun _ h w => Option.some.inj h ▸ w
theorem divu (c : CoreId) (rd : Reg) (ra : Reg) (rb : Reg) : Statement (.divu c rd ra rb) :=
  fun _ h w => Option.some.inj h ▸ w
theorem rem (c : CoreId) (rd : Reg) (ra : Reg) (rb : Reg) : Statement (.rem c rd ra rb) :=
  fun _ h w => Option.some.inj h ▸ w
theorem remu (c : CoreId) (rd : Reg) (ra : Reg) (rb : Reg) : Statement (.remu c rd ra rb) :=
  fun _ h w => Option.some.inj h ▸ w
theorem clz (c : CoreId) (rd : Reg) (ra : Reg) (rb : Reg) : Statement (.clz c rd ra rb) :=
  fun _ h w => Option.some.inj h ▸ w
theorem popc (c : CoreId) (rd : Reg) (ra : Reg) (rb : Reg) : Statement (.popc c rd ra rb) :=
  fun _ h w => Option.some.inj h ▸ w
theorem addi (c : CoreId) (rd : Reg) (ra : Reg) (imm : BitVec 11) : Statement (.addi c rd ra imm) :=
  fun _ h w => Option.some.inj h ▸ w
theorem andi (c : CoreId) (rd : Reg) (ra : Reg) (imm : BitVec 11) : Statement (.andi c rd ra imm) :=
  fun _ h w => Option.some.inj h ▸ w
theorem ori (c : CoreId) (rd : Reg) (ra : Reg) (imm : BitVec 11) : Statement (.ori c rd ra imm) :=
  fun _ h w => Option.some.inj h ▸ w
theorem xori (c : CoreId) (rd : Reg) (ra : Reg) (imm : BitVec 11) : Statement (.xori c rd ra imm) :=
  fun _ h w => Option.some.inj h ▸ w
theorem slli (c : CoreId) (rd : Reg) (ra : Reg) (imm : BitVec 11) : Statement (.slli c rd ra imm) :=
  fun _ h w => Option.some.inj h ▸ w
theorem srli (c : CoreId) (rd : Reg) (ra : Reg) (imm : BitVec 11) : Statement (.srli c rd ra imm) :=
  fun _ h w => Option.some.inj h ▸ w
theorem srai (c : CoreId) (rd : Reg) (ra : Reg) (imm : BitVec 11) : Statement (.srai c rd ra imm) :=
  fun _ h w => Option.some.inj h ▸ w
theorem slti (c : CoreId) (rd : Reg) (ra : Reg) (imm : BitVec 11) : Statement (.slti c rd ra imm) :=
  fun _ h w => Option.some.inj h ▸ w
theorem sltiu (c : CoreId) (rd : Reg) (ra : Reg) (imm : BitVec 11) : Statement (.sltiu c rd ra imm) :=
  fun _ h w => Option.some.inj h ▸ w
theorem li (c : CoreId) (rd : Reg) (ext : W32) : Statement (.li c rd ext) :=
  fun _ h w => Option.some.inj h ▸ w
theorem lih (c : CoreId) (rd : Reg) (ra : Reg) (ext : W32) : Statement (.lih c rd ra ext) :=
  fun _ h w => Option.some.inj h ▸ w
theorem localLoad (c : CoreId) (op : LoadOp) (rd : Reg) (ra : Reg) (imm : BitVec 11) : Statement (.localLoad c op rd ra imm) :=
  fun _ h w => Option.some.inj h ▸ w
theorem deviceLoad (c : CoreId) (op : LoadOp) (rd : Reg) (ra : Reg) (ext : W32) : Statement (.deviceLoad c op rd ra ext) :=
  fun _ h w => Option.some.inj h ▸ w
theorem localStore (c : CoreId) (op : StoreOp) (rd : Reg) (ra : Reg) (imm : BitVec 11) : Statement (.localStore c op rd ra imm) :=
  fun _ h w => Option.some.inj h ▸ w
theorem deviceStore (c : CoreId) (op : StoreOp) (rd : Reg) (ra : Reg) (ext : W32) : Statement (.deviceStore c op rd ra ext) :=
  fun _ h w => Option.some.inj h ▸ w
theorem conditionalBranch (c : CoreId) (cond : Cond) (ra : Reg) (rb : Reg) (off : BitVec 11) : Statement (.conditionalBranch c cond ra rb off) :=
  fun _ h w => Option.some.inj h ▸ w
theorem jal (c : CoreId) (rd : Reg) (ext : W32) : Statement (.jal c rd ext) :=
  fun _ h w => Option.some.inj h ▸ w
theorem jalr (c : CoreId) (rd : Reg) (ra : Reg) (imm : BitVec 11) : Statement (.jalr c rd ra imm) :=
  fun _ h w => Option.some.inj h ▸ w
theorem tld (c : CoreId) (td : Reg) (ts : Reg) : Statement (.tld c td ts) :=
  fun _ h w => Option.some.inj h ▸ w
theorem tst (c : CoreId) (td : Reg) (ts : Reg) : Statement (.tst c td ts) :=
  fun _ h w => Option.some.inj h ▸ w
theorem tdl (c : CoreId) (td : Reg) (ra : Reg) (imm : BitVec 11) : Statement (.tdl c td ra imm) :=
  fun _ h w => Option.some.inj h ▸ w
theorem tds (c : CoreId) (td : Reg) (ra : Reg) (imm : BitVec 11) : Statement (.tds c td ra imm) :=
  fun _ h w => Option.some.inj h ▸ w
theorem tset (c : CoreId) (td : Reg) (rb : Reg) (sel : BitVec 6) : Statement (.tset c td rb sel) :=
  fun _ h w => Option.some.inj h ▸ w
theorem tget (c : CoreId) (rd : Reg) (ta : Reg) (sel : BitVec 6) : Statement (.tget c rd ta sel) :=
  fun _ h w => Option.some.inj h ▸ w
theorem tadd (c : CoreId) (td : Reg) (rb : Reg) (sel : BitVec 6) : Statement (.tadd c td rb sel) :=
  fun _ h w => Option.some.inj h ▸ w
theorem tcopy (c : CoreId) (td : Reg) (ta : Reg) : Statement (.tcopy c td ta) :=
  fun _ h w => Option.some.inj h ▸ w
theorem transferDone (c : CoreId) (id : Nat) : Statement (.transferDone c id) :=
  fun _ h w => Option.some.inj h ▸ w
theorem xsend (c : CoreId) (ra : Reg) (ts : Reg) (ch : BitVec 4) (warr : Bool) (wp : W16) : Statement (.xsend c ra ts ch warr wp) :=
  fun _ h w => Option.some.inj h ▸ w
theorem xrecv (c : CoreId) (td : Reg) (ch : BitVec 4) : Statement (.xrecv c td ch) :=
  fun _ h w => Option.some.inj h ▸ w
theorem xacc (c : CoreId) (ra : Reg) (src : Reg) (bank : BitVec 2) (tile : Bool) (warr : Bool) (wp : W16) : Statement (.xacc c ra src bank tile warr wp) :=
  fun _ h w => Option.some.inj h ▸ w
theorem mrts (p : Packet) : Statement (.mrts p) :=
  fun _ h => nomatch h
theorem mgnt (p : Packet) : Statement (.mgnt p) :=
  fun _ h => nomatch h
theorem mrtsRetry (c : CoreId) (msgid : W32) : Statement (.mrtsRetry c msgid) :=
  fun _ h w => Option.some.inj h ▸ w
theorem mdata (p : Packet) : Statement (.mdata p) :=
  fun _ h => nomatch h
theorem cancel (p : Packet) : Statement (.cancel p) :=
  fun _ h => nomatch h
theorem acc (p : Packet) : Statement (.acc p) :=
  fun _ h => nomatch h
theorem accrsp (p : Packet) : Statement (.accrsp p) :=
  fun _ h => nomatch h
theorem accRetry (c : CoreId) (msgid : W32) : Statement (.accRetry c msgid) :=
  fun _ h w => Option.some.inj h ▸ w
theorem xaccApply (c : CoreId) (slot : Nat) : Statement (.xaccApply c slot) :=
  fun _ h w => Option.some.inj h ▸ w
theorem warm (c : CoreId) (ra : Reg) (rb : Reg) (inkreq : Bool) (ext : W32) : Statement (.warm c ra rb inkreq ext) :=
  fun _ h w => Option.some.inj h ▸ w
theorem warr (c : CoreId) (ra : Reg) : Statement (.warr c ra) :=
  fun _ h w => Option.some.inj h ▸ w
theorem wwait (c : CoreId) (ra : Reg) : Statement (.wwait c ra) :=
  fun _ h w => Option.some.inj h ▸ w
theorem wtest (c : CoreId) (rd : Reg) (ra : Reg) : Statement (.wtest c rd ra) :=
  fun _ h w => Option.some.inj h ▸ w
theorem inkw (c : CoreId) (ra : Reg) : Statement (.inkw c ra) :=
  fun _ h w => Option.some.inj h ▸ w
theorem waypointTick (sheet : Nat) (pkts : List Packet) : Statement (.waypointTick sheet pkts) :=
  fun _ h => nomatch h
theorem waypointExpiry (w : W16) : Statement (.waypointExpiry w) :=
  fun _ h => nomatch h
theorem wrsp (p : Packet) : Statement (.wrsp p) :=
  fun _ h => nomatch h
theorem wdone (p : Packet) : Statement (.wdone p) :=
  fun _ h => nomatch h
theorem inkholdResend (c : CoreId) (k : Nat) : Statement (.inkholdResend c k) :=
  fun _ h w => Option.some.inj h ▸ w
theorem crr (c : CoreId) (rd : Reg) (idx : BitVec 11) : Statement (.crr c rd idx) :=
  fun _ h w => Option.some.inj h ▸ w
theorem crw (c : CoreId) (ra : Reg) (idx : BitVec 11) : Statement (.crw c ra idx) :=
  fun _ h w => Option.some.inj h ▸ w
theorem crs (c : CoreId) (ra : Reg) (idx : BitVec 11) : Statement (.crs c ra idx) :=
  fun _ h w => Option.some.inj h ▸ w
theorem crc (c : CoreId) (ra : Reg) (idx : BitVec 11) : Statement (.crc c ra idx) :=
  fun _ h w => Option.some.inj h ▸ w
theorem fence (c : CoreId) : Statement (.fence c) :=
  fun _ h w => Option.some.inj h ▸ w
theorem ifence (c : CoreId) : Statement (.ifence c) :=
  fun _ h w => Option.some.inj h ▸ w
theorem halt (c : CoreId) : Statement (.halt c) :=
  fun _ h w => Option.some.inj h ▸ w
theorem prefetchFill (c : CoreId) (slot : Nat) : Statement (.prefetchFill c slot) :=
  fun _ h w => Option.some.inj h ▸ w
theorem mclr (c : CoreId) (ab : Reg) : Statement (.mclr c ab) :=
  fun _ h w => Option.some.inj h ▸ w
theorem mdat (c : CoreId) (ab : Reg) (ra : Reg) (mask : BitVec 5) : Statement (.mdat c ab ra mask) :=
  fun _ h w => Option.some.inj h ▸ w
theorem mmac (c : CoreId) (ab : Reg) (ta : Reg) (tb : Reg) (lp : Bool) (n1 : BitVec 4) : Statement (.mmac c ab ta tb lp n1) :=
  fun _ h w => Option.some.inj h ▸ w
theorem mseg (c : CoreId) (ab : Reg) (ta : Reg) (tb : Reg) (gs : Reg) (n1 : BitVec 4) : Statement (.mseg c ab ta tb gs n1) :=
  fun _ h w => Option.some.inj h ▸ w
theorem adapterLoadDone (c : CoreId) (buf : Nat) : Statement (.adapterLoadDone c buf) :=
  fun _ h w => Option.some.inj h ▸ (left w)
theorem mcvt (c : CoreId) (td : Reg) (ab : Reg) (rmsel : BitVec 2) (hslot : Bool) (clr : Bool) (nb : BitVec 2) (bound : W16) (rstep : Bool) : Statement (.mcvt c td ab rmsel hslot clr nb bound rstep) :=
  fun _ h w => Option.some.inj h ▸ w
theorem mdefer (c : CoreId) (ab : Reg) (ta : Reg) (tb : Reg) (lp : Bool) (nosteal : Bool) (wp : W16) (n1 : BitVec 4) : Statement (.mdefer c ab ta tb lp nosteal wp n1) :=
  fun _ h w => Option.some.inj h ▸ w
theorem deferEntryStart (c : CoreId) : Statement (.deferEntryStart c) :=
  fun _ h w => Option.some.inj h ▸ w
theorem deferYield (c : CoreId) (cycles : Nat) : Statement (.deferYield c cycles) :=
  fun _ h w => Option.some.inj h ▸ w
theorem operandStageFrees (c : CoreId) : Statement (.operandStageFrees c) :=
  fun _ h w => Option.some.inj h ▸ w
theorem steal (thief : CoreId) (victim : CoreId) : Statement (.steal thief victim) :=
  fun _ h w => Option.some.inj h ▸ (left w)
theorem stealMerge (thief : CoreId) : Statement (.stealMerge thief) :=
  fun _ h w => Option.some.inj h ▸ w
theorem mrd (c : CoreId) (vd : Reg) (ab : Reg) (rmsel : BitVec 2) (hslot : Bool) (clr : Bool) : Statement (.mrd c vd ab rmsel hslot clr) :=
  fun _ h w => Option.some.inj h ▸ w
theorem mhd (c : CoreId) (ra : Reg) (rb : Reg) (slot : Bool) : Statement (.mhd c ra rb slot) :=
  fun _ h w => Option.some.inj h ▸ w
theorem fadd (c : CoreId) (vd : Reg) (va : Reg) (vb : Reg) : Statement (.fadd c vd va vb) :=
  fun _ h w => Option.some.inj h ▸ w
theorem fsub (c : CoreId) (vd : Reg) (va : Reg) (vb : Reg) : Statement (.fsub c vd va vb) :=
  fun _ h w => Option.some.inj h ▸ w
theorem fmul (c : CoreId) (vd : Reg) (va : Reg) (vb : Reg) : Statement (.fmul c vd va vb) :=
  fun _ h w => Option.some.inj h ▸ w
theorem ffma (c : CoreId) (vd : Reg) (va : Reg) (vb : Reg) : Statement (.ffma c vd va vb) :=
  fun _ h w => Option.some.inj h ▸ w
theorem fmax (c : CoreId) (vd : Reg) (va : Reg) (vb : Reg) : Statement (.fmax c vd va vb) :=
  fun _ h w => Option.some.inj h ▸ w
theorem fmin (c : CoreId) (vd : Reg) (va : Reg) (vb : Reg) : Statement (.fmin c vd va vb) :=
  fun _ h w => Option.some.inj h ▸ w
theorem fhmax (c : CoreId) (vd : Reg) (va : Reg) (vb : Reg) : Statement (.fhmax c vd va vb) :=
  fun _ h w => Option.some.inj h ▸ w
theorem fcmplt (c : CoreId) (vd : Reg) (va : Reg) (vb : Reg) : Statement (.fcmplt c vd va vb) :=
  fun _ h w => Option.some.inj h ▸ w
theorem fabs (c : CoreId) (vd : Reg) (va : Reg) (vb : Reg) : Statement (.fabs c vd va vb) :=
  fun _ h w => Option.some.inj h ▸ w
theorem fneg (c : CoreId) (vd : Reg) (va : Reg) (vb : Reg) : Statement (.fneg c vd va vb) :=
  fun _ h w => Option.some.inj h ▸ w
theorem fsel (c : CoreId) (vd : Reg) (va : Reg) (vb : Reg) : Statement (.fsel c vd va vb) :=
  fun _ h w => Option.some.inj h ▸ w
theorem iadd (c : CoreId) (vd : Reg) (va : Reg) (vb : Reg) : Statement (.iadd c vd va vb) :=
  fun _ h w => Option.some.inj h ▸ w
theorem isub (c : CoreId) (vd : Reg) (va : Reg) (vb : Reg) : Statement (.isub c vd va vb) :=
  fun _ h w => Option.some.inj h ▸ w
theorem imul (c : CoreId) (vd : Reg) (va : Reg) (vb : Reg) : Statement (.imul c vd va vb) :=
  fun _ h w => Option.some.inj h ▸ w
theorem iand (c : CoreId) (vd : Reg) (va : Reg) (vb : Reg) : Statement (.iand c vd va vb) :=
  fun _ h w => Option.some.inj h ▸ w
theorem ior (c : CoreId) (vd : Reg) (va : Reg) (vb : Reg) : Statement (.ior c vd va vb) :=
  fun _ h w => Option.some.inj h ▸ w
theorem ixor (c : CoreId) (vd : Reg) (va : Reg) (vb : Reg) : Statement (.ixor c vd va vb) :=
  fun _ h w => Option.some.inj h ▸ w
theorem isll (c : CoreId) (vd : Reg) (va : Reg) (vb : Reg) : Statement (.isll c vd va vb) :=
  fun _ h w => Option.some.inj h ▸ w
theorem isra (c : CoreId) (vd : Reg) (va : Reg) (vb : Reg) : Statement (.isra c vd va vb) :=
  fun _ h w => Option.some.inj h ▸ w
theorem cvtif (c : CoreId) (vd : Reg) (va : Reg) (vb : Reg) : Statement (.cvtif c vd va vb) :=
  fun _ h w => Option.some.inj h ▸ w
theorem cvtfi (c : CoreId) (vd : Reg) (va : Reg) (vb : Reg) : Statement (.cvtfi c vd va vb) :=
  fun _ h w => Option.some.inj h ▸ w
theorem exp (c : CoreId) (vd : Reg) (va : Reg) : Statement (.exp c vd va) :=
  fun _ h w => Option.some.inj h ▸ w
theorem log (c : CoreId) (vd : Reg) (va : Reg) : Statement (.log c vd va) :=
  fun _ h w => Option.some.inj h ▸ w
theorem rsqrt (c : CoreId) (vd : Reg) (va : Reg) : Statement (.rsqrt c vd va) :=
  fun _ h w => Option.some.inj h ▸ w
theorem rcp (c : CoreId) (vd : Reg) (va : Reg) : Statement (.rcp c vd va) :=
  fun _ h w => Option.some.inj h ▸ w
theorem vld (c : CoreId) (vd : Reg) (ra : Reg) (imm : BitVec 11) : Statement (.vld c vd ra imm) :=
  fun _ h w => Option.some.inj h ▸ w
theorem vst (c : CoreId) (vd : Reg) (ra : Reg) (imm : BitVec 11) : Statement (.vst c vd ra imm) :=
  fun _ h w => Option.some.inj h ▸ w
theorem vbc (c : CoreId) (vd : Reg) (ra : Reg) : Statement (.vbc c vd ra) :=
  fun _ h w => Option.some.inj h ▸ w
theorem vext (c : CoreId) (rd : Reg) (va : Reg) (imm : BitVec 11) : Statement (.vext c rd va imm) :=
  fun _ h w => Option.some.inj h ▸ w
theorem vlsum (c : CoreId) (ab : Reg) (va : Reg) (cell : BitVec 7) : Statement (.vlsum c ab va cell) :=
  fun _ h w => Option.some.inj h ▸ w
theorem vupd (c : CoreId) (vd : Reg) (va : Reg) (tw : Reg) (momentum : Bool) (col : W16) (row : W16) : Statement (.vupd c vd va tw momentum col row) :=
  fun _ h w => Option.some.inj h ▸ w
theorem vcvt (c : CoreId) (td : Reg) (va : Reg) (rmsel : BitVec 2) (hslot : Bool) (bound : W16) (rstep : Bool) : Statement (.vcvt c td va rmsel hslot bound rstep) :=
  fun _ h w => Option.some.inj h ▸ w
theorem vunpk (c : CoreId) (vd : Reg) (ts : Reg) : Statement (.vunpk c vd ts) :=
  fun _ h w => Option.some.inj h ▸ w
theorem linkReplay (c : CoreId) (dir : BitVec 2) (failed : Bool) : Statement (.linkReplay c dir failed) :=
  fun _ h w => Option.some.inj h ▸ w
theorem reservedPacket (p : Packet) : Statement (.reservedPacket p) :=
  fun _ h => nomatch h
theorem mrdRequest (p : Packet) (err : BitVec 2) : Statement (.mrdRequest p err) :=
  fun _ h => nomatch h
theorem mrdr (p : Packet) : Statement (.mrdr p) :=
  fun _ h => nomatch h
theorem mwr (p : Packet) : Statement (.mwr p) :=
  fun _ h => nomatch h
theorem mwrr (p : Packet) : Statement (.mwrr p) :=
  fun _ h => nomatch h
theorem windowAccess (p : Packet) : Statement (.windowAccess p) :=
  fun _ h => nomatch h
theorem patrolScrub (line : Nat) (err : BitVec 2) : Statement (.patrolScrub line err) :=
  fun _ h => nomatch h
theorem pageRetire (page : Nat) (uncorr : Bool) : Statement (.pageRetire page uncorr) :=
  fun _ h => nomatch h
theorem memTileCfgWrite (v : W64) : Statement (.memTileCfgWrite v) :=
  fun _ h => nomatch h
theorem regionTableWrite (part : Nat) (n : Nat) (word1 : Bool) (v : W64) : Statement (.regionTableWrite part n word1 v) :=
  fun _ h => nomatch h
theorem transferStart (e : Nat) : Statement (.transferStart e) :=
  fun _ h => nomatch h
theorem tileTransfer (e : Nat) : Statement (.tileTransfer e) :=
  fun _ h => nomatch h
theorem transferComplete (e : Nat) : Statement (.transferComplete e) :=
  fun _ h => nomatch h
theorem graticuleCompare (c : CoreId) : Statement (.graticuleCompare c) :=
  fun _ h w => Option.some.inj h ▸ w
theorem triangulation (c : CoreId) : Statement (.triangulation c) :=
  fun _ h w => Option.some.inj h ▸ w
theorem triangulationTimeout (c : CoreId) : Statement (.triangulationTimeout c) :=
  fun _ h w => Option.some.inj h ▸ w
theorem frontier (p : Packet) : Statement (.frontier p) :=
  fun _ h => nomatch h
theorem query (p : Packet) : Statement (.query p) :=
  fun _ h => nomatch h
theorem inked (p : Packet) : Statement (.inked p) :=
  fun _ h => nomatch h
theorem subscribed (p : Packet) : Statement (.subscribed p) :=
  fun _ h => nomatch h
theorem notyet (p : Packet) : Statement (.notyet p) :=
  fun _ h => nomatch h
theorem notyetRetry (c : CoreId) (k : Nat) : Statement (.notyetRetry c k) :=
  fun _ h w => Option.some.inj h ▸ w
theorem dead (p : Packet) : Statement (.dead p) :=
  fun _ h => nomatch h
theorem smudge (part : Nat) (p : Packet) : Statement (.smudge part p) :=
  fun _ h => nomatch h
theorem quiesced (part : Nat) : Statement (.quiesced part) :=
  fun _ h => nomatch h
theorem restart (part : Nat) : Statement (.restart part) :=
  fun _ h => nomatch h
theorem commitVote (part : Nat) : Statement (.commitVote part) :=
  fun _ h => nomatch h
theorem vote (part : Nat) (p : Packet) : Statement (.vote part p) :=
  fun _ h => nomatch h
theorem inkCommit (part : Nat) : Statement (.inkCommit part) :=
  fun _ h => nomatch h
theorem flitReceive (n : Nat) (f : Flit) : Statement (.flitReceive n f) :=
  fun _ h => nomatch h
theorem nakReplay (n : Nat) (f : Flit) : Statement (.nakReplay n f) :=
  fun _ h => nomatch h
theorem portLost (n : Nat) : Statement (.portLost n) :=
  fun _ h => nomatch h
theorem abort (n : Nat) (p : Packet) : Statement (.abort n p) :=
  fun _ h => nomatch h
theorem cagePresenceChange (n : Nat) (present : Bool) : Statement (.cagePresenceChange n present) :=
  fun _ h => nomatch h
theorem cageDiscovery (n : Nat) (m : Cmis) : Statement (.cageDiscovery n m) :=
  fun _ h => nomatch h
theorem fecAlignmentLock (n : Nat) : Statement (.fecAlignmentLock n) :=
  fun _ h => nomatch h
theorem helloSend (n : Nat) : Statement (.helloSend n) :=
  fun _ h => nomatch h
theorem hello (n : Nat) (h : Hello) : Statement (.hello n h) :=
  fun _ h => nomatch h
theorem trainingRetry (n : Nat) : Statement (.trainingRetry n) :=
  fun _ h => nomatch h
theorem laneFail (n : Nat) (lane : BitVec 2) : Statement (.laneFail n lane) :=
  fun _ h => nomatch h
theorem degradeTimeout (n : Nat) : Statement (.degradeTimeout n) :=
  fun _ h => nomatch h
theorem attachPacket (p : Packet) : Statement (.attachPacket p) :=
  fun _ h => nomatch h
theorem attachExchangeTimeout (part : Nat) : Statement (.attachExchangeTimeout part) :=
  fun _ h => nomatch h
theorem contribution (part : Nat) (ctx : Nat) (src : CoreId) (tile : List Byte) : Statement (.contribution part ctx src tile) :=
  fun _ h => nomatch h
theorem cpart (part : Nat) (p : Packet) (tile : List Byte) : Statement (.cpart part p tile) :=
  fun _ h => nomatch h
theorem cres (part : Nat) (p : Packet) (tile : List Byte) : Statement (.cres part p tile) :=
  fun _ h => nomatch h
theorem cagr (part : Nat) (p : Packet) : Statement (.cagr part p) :=
  fun _ h => nomatch h
theorem cagd (part : Nat) (p : Packet) : Statement (.cagd part p) :=
  fun _ h => nomatch h
theorem crep (part : Nat) (p : Packet) : Statement (.crep part p) :=
  fun _ h => nomatch h
theorem collectiveFence (part : Nat) (ctx : Nat) : Statement (.collectiveFence part ctx) :=
  fun _ h => nomatch h
theorem collectiveDeadline (part : Nat) (ctx : Nat) : Statement (.collectiveDeadline part ctx) :=
  fun _ h => nomatch h
theorem ringRound (part : Nat) (ctx : Nat) (block : List (List Byte)) : Statement (.ringRound part ctx block) :=
  fun _ h => nomatch h
theorem ringBufferFree (part : Nat) (ctx : Nat) (buf : Nat) : Statement (.ringBufferFree part ctx buf) :=
  fun _ h => nomatch h
theorem rcred (part : Nat) (p : Packet) : Statement (.rcred part p) :=
  fun _ h => nomatch h
theorem treqSend (sixths : Nat) : Statement (.treqSend sixths) :=
  fun _ h => nomatch h
theorem treq (p : Packet) (port : Nat) (sixths2 : Nat) (sixths3 : Nat) : Statement (.treq p port sixths2 sixths3) :=
  fun _ h => nomatch h
theorem trsp (p : Packet) (port : Nat) (sixths : Nat) : Statement (.trsp p port sixths) :=
  fun _ h => nomatch h
theorem merSyncEdge (sixths : Nat) : Statement (.merSyncEdge sixths) :=
  fun _ h => nomatch h
theorem edge (p : Packet) : Statement (.edge p) :=
  fun _ h => nomatch h
theorem holdoverEntry : Statement (.holdoverEntry) :=
  fun _ h => nomatch h
theorem meridianLoss (ms : Nat) : Statement (.meridianLoss ms) :=
  fun _ h => nomatch h
theorem merCfgWrite (v : W64) : Statement (.merCfgWrite v) :=
  fun _ h => nomatch h
theorem merSet (v : W64) : Statement (.merSet v) :=
  fun _ h => nomatch h
theorem merPartLaunchWrite (part : Nat) (v : W64) : Statement (.merPartLaunchWrite part v) :=
  fun _ h => nomatch h
theorem launchCancel (part : Nat) : Statement (.launchCancel part) :=
  fun _ h => nomatch h
theorem launch (part : Nat) : Statement (.launch part) :=
  fun _ h => nomatch h
theorem ovd (part : Nat) (p : Packet) : Statement (.ovd part p) :=
  fun _ h => nomatch h
theorem ovr (part : Nat) (p : Packet) : Statement (.ovr part p) :=
  fun _ h => nomatch h
theorem hqQTailWrite (q : Nat) (v : W64) : Statement (.hqQTailWrite q v) :=
  fun _ h => nomatch h
theorem commandAccept (q : Nat) : Statement (.commandAccept q) :=
  fun _ h => nomatch h
theorem nop (q : Nat) : Statement (.nop q) :=
  fun _ h => nomatch h
theorem attach (q : Nat) : Statement (.attach q) :=
  fun _ h => nomatch h
theorem detach (q : Nat) : Statement (.detach q) :=
  fun _ h => nomatch h
theorem step (q : Nat) : Statement (.step q) :=
  fun _ h => nomatch h
theorem xfer (q : Nat) : Statement (.xfer q) :=
  fun _ h => nomatch h
theorem waitq (q : Nat) : Statement (.waitq q) :=
  fun _ h => nomatch h
theorem advance (q : Nat) : Statement (.advance q) :=
  fun _ h => nomatch h
theorem hqQJheadWrite (q : Nat) (v : W64) : Statement (.hqQJheadWrite q v) :=
  fun _ h => nomatch h
theorem queueEnable (q : Nat) : Statement (.queueEnable q) :=
  fun _ h => nomatch h
theorem queueDisable (q : Nat) : Statement (.queueDisable q) :=
  fun _ h => nomatch h
theorem lost (f : Nat) : Statement (.lost f) :=
  fun _ h => nomatch h
theorem hqEvtCfgWrite (f : Nat) (v : W64) : Statement (.hqEvtCfgWrite f v) :=
  fun _ h => nomatch h
theorem hqEvtHeadWrite (f : Nat) (v : W64) : Statement (.hqEvtHeadWrite f v) :=
  fun _ h => nomatch h
theorem go (f : Nat) : Statement (.go f) :=
  fun _ h => nomatch h
theorem flr (vf : Nat) : Statement (.flr vf) :=
  fun _ h => nomatch h
theorem linkDown : Statement (.linkDown) :=
  fun _ h => nomatch h
theorem hostReadReissue : Statement (.hostReadReissue) :=
  fun _ h => nomatch h
theorem barAccess (f : Nat) (off : Nat) (len : Nat) (write : Option (List Byte)) : Statement (.barAccess f off len write) :=
  fun _ h => nomatch h
theorem resetNAssert (ns : Nat) : Statement (.resetNAssert ns) :=
  fun _ h => nomatch h
theorem powerOnAssert (cause : PowerOnCause) : Statement (.powerOnAssert cause) :=
  fun _ h => nomatch h
theorem powerOnRelease : Statement (.powerOnRelease) :=
  fun _ h => nomatch h
theorem referenceLoss (us : Nat) : Statement (.referenceLoss us) :=
  fun _ h => nomatch h
theorem wdog : Statement (.wdog) :=
  fun _ h => nomatch h
theorem lockstepMismatch : Statement (.lockstepMismatch) :=
  fun _ h => nomatch h
theorem thermal (sensor : Nat) (celsius : Int) : Statement (.thermal sensor celsius) :=
  fun _ h => nomatch h
theorem thermtripRelease (readings : List Int) : Statement (.thermtripRelease readings) :=
  fun _ h => nomatch h
theorem resetStretchEnd : Statement (.resetStretchEnd) :=
  fun _ h => nomatch h
theorem resetExit : Statement (.resetExit) :=
  fun _ h => nomatch h
theorem nvPulseEnd (us : Nat) : Statement (.nvPulseEnd us) :=
  fun _ h => nomatch h
theorem nvBlocked (mV : Nat) : Statement (.nvBlocked mV) :=
  fun _ h => nomatch h
theorem nvUnblock (mV : Nat) : Statement (.nvUnblock mV) :=
  fun _ h => nomatch h
theorem backupLoss (mV : Nat) : Statement (.backupLoss mV) :=
  fun _ h => nomatch h
theorem startPhase (f : PhaseFindings) : Statement (.startPhase f) :=
  fun _ h => nomatch h
theorem bkpCtlClrlog : Statement (.bkpCtlClrlog) :=
  fun _ h => nomatch h
theorem bkpCtlClrcnt : Statement (.bkpCtlClrcnt) :=
  fun _ h => nomatch h
theorem wrapperClose (b : Block) : Statement (.wrapperClose b) :=
  fun _ h => nomatch h
theorem sweep (sheet : Nat) (failed : List CoreId) : Statement (.sweep sheet failed) :=
  fun _ h => nomatch h
theorem sweepRequest (sheets : W16) : Statement (.sweepRequest sheets) :=
  fun _ h => nomatch h
theorem jobBoundary (part : Nat) : Statement (.jobBoundary part) :=
  fun _ h => nomatch h
theorem activityEstimate (e : Estimate) : Statement (.activityEstimate e) :=
  fun _ h => nomatch h
theorem powerMeasurement (m : Measurement) : Statement (.powerMeasurement m) :=
  fun _ h => nomatch h
theorem throttleStep (junction : Int) : Statement (.throttleStep junction) :=
  fun _ h => nomatch h
theorem clockSwitch : Statement (.clockSwitch) :=
  fun _ h => nomatch h
theorem pwrCapWrite (v : W64) : Statement (.pwrCapWrite v) :=
  fun _ h => nomatch h
theorem pwrStepWrite (v : W64) : Statement (.pwrStepWrite v) :=
  fun _ h => nomatch h
theorem pwrFixedWrite (v : W64) : Statement (.pwrFixedWrite v) :=
  fun _ h => nomatch h
theorem chainOutBurst : Statement (.chainOutBurst) :=
  fun _ h => nomatch h
theorem chainInBurst (pulses : Nat) : Statement (.chainInBurst pulses) :=
  fun _ h => nomatch h
theorem chainSilence : Statement (.chainSilence) :=
  fun _ h => nomatch h
theorem carrierEepromRead (answer : Option (List Byte)) : Statement (.carrierEepromRead answer) :=
  fun _ h => nomatch h
theorem idoff (v : W16) : Statement (.idoff v) :=
  fun _ h => nomatch h
theorem idread : Statement (.idread) :=
  fun _ h => nomatch h
theorem status : Statement (.status) :=
  fun _ h => nomatch h
theorem alertResponse : Statement (.alertResponse) :=
  fun _ h => nomatch h
theorem arp (addr : BitVec 7) : Statement (.arp addr) :=
  fun _ h => nomatch h
theorem setEndpointId (eid : Byte) : Statement (.setEndpointId eid) :=
  fun _ h => nomatch h
theorem getEndpointId : Statement (.getEndpointId) :=
  fun _ h => nomatch h
theorem getEndpointUuid : Statement (.getEndpointUuid) :=
  fun _ h => nomatch h
theorem getMctpVersionSupport : Statement (.getMctpVersionSupport) :=
  fun _ h => nomatch h
theorem getMessageTypeSupport : Statement (.getMessageTypeSupport) :=
  fun _ h => nomatch h
theorem pldmMonitoring (sensor : Nat) : Statement (.pldmMonitoring sensor) :=
  fun _ h => nomatch h
theorem pldmFirmwareUpdate (img : Image) : Statement (.pldmFirmwareUpdate img) :=
  fun _ h => nomatch h
theorem getVersion : Statement (.getVersion) :=
  fun _ h => nomatch h
theorem getCapabilities : Statement (.getCapabilities) :=
  fun _ h => nomatch h
theorem negotiateAlgorithms (p384 : Bool) : Statement (.negotiateAlgorithms p384) :=
  fun _ h => nomatch h
theorem getDigests : Statement (.getDigests) :=
  fun _ h => nomatch h
theorem getCertificate (off : Nat) (len : Nat) : Statement (.getCertificate off len) :=
  fun _ h => nomatch h
theorem challenge (nonce : List Byte) : Statement (.challenge nonce) :=
  fun _ h => nomatch h
theorem getMeasurements (idx : Nat) : Statement (.getMeasurements idx) :=
  fun _ h => nomatch h
theorem nonceRequest : Statement (.nonceRequest) :=
  fun _ h => nomatch h
theorem debugToken (t : Token) : Statement (.debugToken t) :=
  fun _ h => nomatch h
theorem svrPartCfgWrite (part : Nat) (v : W64) : Statement (.svrPartCfgWrite part v) :=
  fun _ h => nomatch h
theorem registerWrite (func : Nat) (off : Nat) (size : Nat) (v : W64) : Statement (.registerWrite func off size v) :=
  fun _ h => nomatch h
theorem v3aEntersOperatingRange (mV : Nat) : Statement (.v3aEntersOperatingRange mV) :=
  fun _ h => nomatch h
theorem hostLinkReturn : Statement (.hostLinkReturn) :=
  fun _ h => nomatch h

end Sys2Proof.Laws.Sited
end

