-- ==== Sys2Proof/Tests/Slice0.lean ====
section
/-! SUPPORT. Tests: well-formedness refuses, words and worked numbers of the spec, small steps, and for each statement states and
operands that meet its hypotheses. -/

open Sys2Proof Sys2Proof.Machine

namespace Sys2Proof.Tests

set_option Elab.async false
/-- Small states: an identity EEPROM with grade A, the voltages and the caps of spec/14, and nothing else. -/
def exIdrom : Memory := [(0x18, 0x41), (0x70, 0xB6), (0x71, 0x3), (0x72, 0x70), (0x73, 0x3), (0x74, 0x34), (0x75, 0x3), (0x76, 0xC), (0x77, 0x3), (0x78, 0xEE), (0x79, 0x2), (0x7A, 0xBC), (0x7B, 0x2), (0x7C, 0x8A), (0x7D, 0x2), (0x7E, 0x44), (0x7F, 0x2), (0x80, 0xB0), (0x81, 0x4), (0x82, 0xA0), (0x83, 0xF)]
def small : State := { State.reset with svr := { idrom := exIdrom }, bkp := {}, mram := {} }
def nextOf (s : State) (o : Host.Outcome State Fault Refusal) : State := match o with | .next t => t | _ => s
def running : Core := { run := .running }
/-- Core 0 alone, as `k`. -/
def at0 (k : Core) : State := { small with cores := [(0, k)] }

/-! ### WellFormed: each check refuses an ill-formed term -/

theorem wf_bounds : below 16 15 = true ∧ below 16 16 = false ∧ coreOk 0x9F9F = true ∧ coreOk 0xA0 = false ∧ coreOk 0xA000 = false := by decide +kernel
theorem wf_packet : packetOk { typ := .mdata, payload := List.replicate 257 0 } = false
    ∧ (Instr.mdata { typ := .mrts, payload := [] }).wf = false ∧ (Instr.mdata { typ := .mdata }).wf = true := by decide +kernel
theorem wf_flit : (let f (k : FlitKind) (bs : List Byte) : Flit := ⟨k, 0, 0, 0, false, false, 0, 0, 0xFFFF, 0, bs, 0, true⟩
    flitOk (f .data [0]) = false ∧ flitOk (f .idle []) = true ∧ flitOk (f .data (List.replicate 240 0)) = true) := by decide +kernel
theorem wf_tile : tileOk (List.replicate 63 0) = false ∧ tileOk (List.replicate 64 0) = true := by decide +kernel
theorem wf_block : blockOk (.core 0xA0) = false ∧ blockOk (.controller 8 0) = false ∧ blockOk (.controller 0 2) = false
    ∧ blockOk (.port 12) = false ∧ blockOk (.reductionEngine 2) = false ∧ blockOk .queueFrontEnd = true := by decide +kernel
theorem wf_core : (Instr.add 0xA0 1 2 3).wf = false ∧ (Instr.steal 0 0xA0).wf = false ∧ (Instr.add 0x100 1 2 3).wf = true := by decide +kernel
theorem wf_indices : (Instr.waypointTick 16 []).wf = false ∧ (Instr.adapterLoadDone 0 2).wf = false
    ∧ (Instr.patrolScrub 0x200000000 0).wf = false ∧ (Instr.pageRetire 0x8000000 false).wf = false
    ∧ (Instr.regionTableWrite 16 0 false 0).wf = false ∧ (Instr.regionTableWrite 0 256 false 0).wf = false
    ∧ (Instr.transferStart 16).wf = false ∧ (Instr.portLost 12).wf = false ∧ (Instr.quiesced 16).wf = false
    ∧ (Instr.collectiveFence 0 256).wf = false ∧ (Instr.ringBufferFree 0 0 2).wf = false := by decide +kernel
theorem wf_ticks : (Instr.treqSend 6).wf = false ∧ (Instr.treq { typ := .mer } 12 0 0).wf = false
    ∧ (Instr.treq { typ := .mer } 0 0 6).wf = false ∧ (Instr.trsp { typ := .mer } 0 6).wf = false := by decide +kernel
theorem wf_host : (Instr.nop 256).wf = false ∧ (Instr.go 17).wf = false ∧ (Instr.flr 0).wf = false ∧ (Instr.flr 17).wf = false
    ∧ (Instr.barAccess 17 0 1 none).wf = false ∧ (Instr.registerWrite 0 4 8 0).wf = false
    ∧ (Instr.registerWrite 0 0 2 0).wf = false ∧ (Instr.registerWrite 0 0x100000000 8 0).wf = false := by decide +kernel
theorem wf_service : (Instr.sweep 16 []).wf = false ∧ (Instr.sweep 0 [0xA0]).wf = false
    ∧ (Instr.startPhase { stackIds := [], stackTemps := List.replicate 8 0 }).wf = false
    ∧ (Instr.startPhase { stackIds := List.replicate 8 0, stackTemps := [] }).wf = false
    ∧ (Instr.startPhase { stackIds := List.replicate 8 0, stackTemps := List.replicate 8 0, trainFails := 256 }).wf = false := by decide +kernel
theorem wf_management : (Instr.pldmMonitoring 25).wf = false ∧ (Instr.getMeasurements 0).wf = false ∧ (Instr.getMeasurements 7).wf = false
    ∧ (Instr.debugToken ⟨0, [], 1, []⟩).wf = false ∧ (Instr.svrPartCfgWrite 16 0).wf = false := by decide +kernel
theorem wf_power : (Instr.powerMeasurement ⟨0, [(16, 1)], [], [], 0⟩).wf = false ∧ (Instr.powerMeasurement ⟨0, [], [(0, 256, 1)], [], 0⟩).wf = false
    ∧ (Instr.powerMeasurement ⟨0, [(15, 1)], [(0, 255, 1)], [(0, 1)], 0⟩).wf = true := by decide +kernel

/-! ### Words written out from spec/04's encodings -/

/-- spec/04, the encoding examples. -/
theorem word_addi : decodeCore 7 0x07FA0CA0 0 = some (.addi 7 5 3 (-12)) := by decide +kernel
theorem word_tld : decodeCore 0 0x00001C43 0 = some (.tld 0 2 7) := by decide +kernel
theorem word_xacc : decodeCore 0 0x08B0A414 0x123 = some (.xacc 0 9 1 3 false true 0x123) := by decide +kernel
/-- Table 4-4 RI: OP 0x08, imm 5, ra 2, rd 1, CLASS 0. -/
theorem word_branch : (encodeCore (.conditionalBranch 0 .beq 1 2 (-1))).isSome = true := by decide +kernel
/-- Table 5-2: mmac a2, t0, t1, n = 4, short and long path. -/
theorem word_mmac : encodeCore (.mmac 0 2 0 1 false 3) ≠ encodeCore (.mmac 0 2 0 1 true 3) := by decide +kernel
/-- The table's rows carry no bits. -/
theorem table_word_none : decodeTableWord 8 0x15 = none ∧ State.reset.withFetchWord 8 0x15 = State.reset := ⟨rfl, rfl⟩

/-! ### The spec's worked numbers -/

/-- spec/03, the BF16 example with datum −4: 48, −5, −15 and 0, in both orders 28. -/
def exTerms : List Machine.Num := [Machine.Num.mul (.fin false 192 (-7)) (.fin false 128 (-6)), Machine.Num.mul (.fin true 208 (-9)) (.fin false 192 (-8)),
  Machine.Num.mul (.fin false 192 (-6)) (.fin true 160 (-9)), Machine.Num.mul (.fin false 128 (-14)) (.fin false 128 (-7))]
theorem example_cell : (let c := exTerms.foldl (Cell.term (some (-4))) {}
    c.acc = 28 ∧ c.rcnt = 2 ∧ c.lcnt = 1 ∧ exTerms.reverse.foldl (Cell.term (some (-4))) {} = c
    ∧ (exTerms.take 2).foldl (Cell.term (some (-4))) {} = { c with acc := 43, rcnt := 1, lcnt := 0 }) := by decide +kernel
/-- spec/03: an mcvt of it to BF16 writes 0x3FE0. -/
theorem example_bf16 : (fpBf16.round .rne 0 false false (.fin false 28 (-4))).code = 0x3FE0 := by decide +kernel

/-- spec/02, the SB8-E4M3 block: scale code 0x80, 0x76, 0x03 and 0x34, and EXPHI 8, EXPLO −7. -/
def exBlock : List (Machine.Num × W32) := (.fin false 460 0, 0) :: (.fin false 10737418 (-30), 0) :: List.replicate 30 (.fin false 3 (-1), 0)
theorem example_block : (let w := writeElems 5 1 { mode := .rne, ftz := false, znorm := false, datum := 0 } exBlock
    w.1 = [0x76, 0x03] ++ List.replicate 30 0x34 ++ [0x80] ∧ expBound (fun x y => if x < y then y else x) w.2 = 8
    ∧ expBound (fun x y => if y < x then y else x) w.2 = BitVec.ofInt 16 (-7)) := by decide +kernel
/-- spec/02 R60: the check value of CRC-32C over "123456789". -/
theorem example_crc : crc32c [0x31, 0x32, 0x33, 0x34, 0x35, 0x36, 0x37, 0x38, 0x39] = 0xE3069283 := by decide +kernel

/-- spec/08, the graticule example: ROWS 2 and 1, K = 2, datum −4; the check passes, and fails for bit 4 of ACC[1, 0]. -/
def exBank : Bank := { cover := some true, fixed := true, datum := BitVec.ofInt 16 (-4) }
def exRun : Bank := exBank.addPair 2 [[.fin false 192 (-7), .fin true 208 (-9)], [.fin false 192 (-6), .fin false 128 (-14)]]
  [[.fin false 128 (-6), .fin false 192 (-8)]]
theorem example_graticule : (exRun.cell 0).acc = 43 ∧ (exRun.cell 16).acc = 96 ∧ (exRun.chkReg 0).acc = 139
    ∧ (exRun.chkReg 16).acc = 43 ∧ (exRun.chkReg 17).acc = 96 ∧ (exRun.chkReg 24).acc = 139 ∧ exRun.checks = true := by decide +kernel
theorem example_graticule_fails : ({ exRun with cells := Sparse.upd {} exRun.cells 16 fun c => { c with acc := 112 } } : Bank).checks = false := by
  decide +kernel

/-- spec/07: with BASE 0 and SIZE 448 the cartouche of 0x12_3456_7000 is at 0x70_48D1_59C0. -/
theorem example_cartouche :
    ({ State.reset with mem := { tileCfg := 0x01C00000 } } : State).cartAddr 0x1234567000 = 0x7048D159C0 := by decide +kernel
/-- spec/09 R364: 24 contributions with EXPHI 9 to an LP64 SUM. -/
theorem example_agreed : agreedDatum 64 9 24 none = BitVec.ofInt 16 (-47) := by decide +kernel

/-- spec/14, the energy example: X = 345,270 µJ in shares of 274,185 and 60,930, with 10,155 left. -/
def exEnergy : State := { small with parts := [(0, { cfg := 0xF003, running := some ⟨5, 0, 0, 0, 0, 0, 0, 0, 0⟩ }), (1, { cfg := 0 })] }
def exMeasured : State := nextOf small (execPowerMeasurement ⟨34527, [(0, 270000), (1, 60000)], [], [], 10000⟩ exEnergy)
theorem example_energy : (exMeasured.part 0).energy = 274185 ∧ (exMeasured.part 1).energy = 60930
    ∧ (exMeasured.queue 5).energy = 274185 ∧ exMeasured.pwr.unattr = 10155 ∧ exMeasured.pwr.total = 345270 := by decide +kernel

/-- spec/14, the disagreement example: CLIM F2, cap 3,600 W, five measurements of 3,800 W against 3,000 W: CLIM moves to F3 once and MODE
becomes MEASURE. -/
def exInterval (s : State) : State :=
  nextOf s (execPowerMeasurement ⟨38000, [], [], [], 0⟩ (nextOf s (execActivityEstimate ⟨700000, [2300000], 60⟩ s)))
def exFour : State := { small with pwr := { clim := 2, overMeas := 4, posDis := 4 } }
theorem example_disagree : (exInterval exFour).pwr.clim = 3 ∧ (exInterval exFour).pwr.measure = true ∧ (exInterval exFour).granted = 3
    ∧ (exInterval exFour).limitCode = 2 ∧ (exInterval exFour).pwr.hold = 32 := by decide +kernel
/-- At F3, with M 3,232 W and 2,549 W estimated, the scaled estimate is within the cap and a faster step is not: CLIM stays. -/
theorem example_scaled : (let s := { (exInterval exFour) with pwr := { (exInterval exFour).pwr with overEst := 1, headroom := 9, barred := 0 } }
    (nextOf s (execActivityEstimate ⟨700000, [1849000], 60⟩ s)).pwr.clim = 3) := by decide +kernel

/-- spec/15: slot 5, straps 0b010, RACK 0x013 is module ID 0x04D5; the burst out has 6 pulses and the address is 0x45. -/
theorem example_module_id : moduleId 0x013 0b010 5 = 0x04D5 ∧ ({ slot := 5 } : Surveyor).address = 0x45
    ∧ (nextOf small (execChainOutBurst { small with svr := { slot := 5 } })).svr.chainOut = 6 := by decide +kernel
/-- spec/16: partitions 0 and 3 in the right order, and the second write discarded in the other. -/
theorem example_partitions :
    (let s := nextOf small (execSvrPartCfgWrite 0 0xD003 small)
     let t := nextOf s (execSvrPartCfgWrite 3 0x7203 s)
     (t.part 0).cfg = 0xD003 ∧ (t.part 3).cfg = 0x7203 ∧ (t.part 3).hasSheet 7 = true ∧ (t.part 3).hasSheet 11 = false
     ∧ (nextOf small (execSvrPartCfgWrite 3 0x7203 small)).part 3 = small.part 3) := by decide +kernel
/-- spec/11: θ = 12.5 ns and a path delay of 300 ns, in twelfths of a tick. -/
def exTrsp : Packet := { typ := .mer, arg := 2, smod := 9, dmod := 0, dlocal := false, time := 1000400
                         ext := BitVec.ofNat 160 (1000287 * 2 ^ 32 + 3 * 2 ^ 96) }
def exFollower : State := { small with net := [exTrsp], mer := { role := roleLink, lock := .locked, count := 1000712, treqSent := some 6000000 } }
theorem example_offset : (nextOf small (execTrsp exTrsp 0 3 exFollower)).mer.theta = 150
    ∧ (nextOf small (execTrsp exTrsp 0 3 exFollower)).mer.delay = 300 := by decide +kernel

/-! ### Witnesses: each shows states and operands that meet the hypotheses of the statement it names -/

/-- A core that runs with g2 = `a`, g3 = `b`. -/
def gregs (a b : W64) : Core := { run := .running, g := [(2, a), (3, b)] }
/-- Every byte of stacked memory readable and writable for partition 0, core 0 running with g2 = `a`. -/
def dev (a : W64) : State :=
  { at0 (gregs a 0) with mem := { tileCfg := 0x01C00000, rgn0 := [(0, 0xB0)], rgn1 := [(0, 0x7FFFFFF000)] } }

theorem witness_ScalarResults : (at0 running).canIssue 0 [1, 2, 3] = true ∧ (at0 running).canIssue 0 [63, 63] = true
    ∧ (at0 running).canIssue 0 [0] = true := by decide +kernel
theorem witness_ScalarResults_corner : 
    ((nextOf small (exec (.div 0 1 2 3) (at0 (gregs 0x8000000000000000 0xFFFFFFFFFFFFFFFF)))).core 0).gr 1 = 0x8000000000000000 := by decide +kernel

/-- A naturally aligned access at the last word of the store, one at its end, and a misaligned one. -/
theorem witness_LocalAccesses : (let s := at0 (gregs 0x3FFF8 0x40000)
    s.canIssue 0 [1, 2] = true ∧ (s.core 0).readBar 0x3FFF8 8 = none ∧ (s.core 0).clean 0x3FFF8 8 = true
    ∧ (s.core 0).blocksWrite 0x3FFF8 8 = none ∧ (s.core 0).triHeld 0x3FFF8 8 = false
    ∧ ((s.core 0).gr 2 + (0 : BitVec 11).signExtend 64).toNat % 8 = 0 ∧ 0x40000 ≤ ((s.core 0).gr 3).toNat
    ∧ ((s.core 0).gr 2 + (1 : BitVec 11).signExtend 64).toNat % 8 ≠ 0) := by decide +kernel
theorem witness_LocalAccesses_next : ∃ t, exec (.localStore 0 .std 3 2 0) (at0 (gregs 0x3FFF8 0x40000)) = .next t := ⟨_, rfl⟩

theorem witness_DeviceAccessAddresses : (let s := dev 0x1000
    s.canIssue 0 [1, 2] = true ∧ s.devOk 0 false 0x1000 8 = true ∧ s.devOk 0 true 0x1000 8 = true ∧ spaceOf 0x1000 = .memory
    ∧ s.memIsolated 0x1000 8 = false ∧ s.poisonIn 0x1000 8 = none ∧ s.inkRegion 0 0x1000 8 = false
    ∧ s.devOk 0 false 0x1001 8 = false ∧ s.devOk 0 true 0x300000000000 8 = false) := by decide +kernel
theorem witness_DeviceAccessAddresses_store : (let s := dev 0x2000027FFFF8
    s.canIssue 0 [1, 2] = true ∧ s.devOk 0 false 0x2000027FFFF8 8 = true ∧ s.devOk 0 true 0x2000027FFFF8 8 = true
    ∧ spaceOf 0x2000027FFFF8 = .store 0x9F 0x3FFF8 ∧ s.svr.closed.contains (.core 0x9F) = false
    ∧ (s.core 0x9F).clean 0x3FFF8 8 = true ∧ (s.core 0x9F).holdsWrite 0x3FFF8 8 = false
    ∧ s.devOk 0 false 0x200000000010 8 = true ∧ spaceOf 0x200000000010 = .store 0 0x10 ∧ (s.core 0).readBar 0x10 8 = none) := by decide +kernel
/-- A job of two modules with the board neighbour in slot 1, and a window region. -/
def boarded : State := { dev 0x108000000000 with
  host := { funcs := [(0, { inForce := 0xFFF })] }
  parts := [(0, { cfg := 0xF003, job := some { modules := 2, digest := 0, ports := [] } })]
  fab := { routes := [(1, 0x81)] }
  mem := { tileCfg := 0x01C00000, rgn0 := [(0, 0xB0)], rgn1 := [(0, 0xFFFFFFFFFFFFF000)] } }
theorem witness_DeviceAccessAddresses_window : (let s := boarded
    s.canIssue 0 [1, 2] = true ∧ s.translate 0x108000000000 = 0x108000000000 ∧ s.devOk 0 false 0x108000000000 8 = true
    ∧ spaceOf 0x108000000000 = .window 1) := by decide +kernel

/-- A store into an INK region by a core whose output is not inked, with and without a dependence that is dead. -/
def inked (f : List Foreign) : State :=
  { dev 0x41000 with cores := [(0, { gregs 0x41000 0 with epoch := 1, foreign := f })]
                     mem := { tileCfg := 0x01C00000, rgn0 := [(0, 0xF0)], rgn1 := [(0, 0x7FFFFFF000)] } }
def deadEntry : Foreign := ⟨0, 1, 0, none, [(0, 0)], some 0, false⟩
theorem witness_DeviceAccessAddresses_ink : ∀ f ∈ [[], [deadEntry]], (let s := inked f
    s.canIssue 0 [1, 2] = true ∧ s.devOk 0 true 0x41000 8 = true ∧ s.inkRegion ((s.partOf 0).getD 16) 0x41000 8 = true
    ∧ (s.core 0).allInked = false ∧ (s.core 0).dependsDead 1 = !f.isEmpty) := by decide +kernel
theorem witness_DeviceAccessAddresses_sends : (let s := dev 0x41000; let t := nextOf small (exec (.deviceLoad 0 .ldd 1 2 0) s)
    s.devOk 0 false 0x41000 8 = true ∧ spaceOf 0x41000 = .memory ∧ t.net.length = 1 ∧ (t.core 0).pendingReg [1] = some 2
    ∧ (nextOf small (exec (.deviceStore 0 .std 1 2 0) s)).net.map (·.typ) = [.mwr]) := by decide +kernel

theorem witness_BranchesAndJumps : (at0 (gregs 1 1)).canIssue 0 [1, 2, 3] = true
    ∧ ((nextOf small (exec (.conditionalBranch 0 .beq 2 3 (-1)) (at0 { gregs 1 1 with pc := 8 }))).core 0).pc = 4 := by decide +kernel

theorem witness_TileDescriptors : (at0 (gregs 0x40 0)).canIssue 0 [1, 3] = true ∧ dField 0 = some .addr ∧ dField 9 = some .tcoord
    ∧ (let k := (at0 (gregs 0x3FFC0 0)).core 0
       (k.gr 2 + (0 : BitVec 11).signExtend 64 * 64).toNat = 0x3FFC0 ∧ k.readBar 0x3FFC0 64 = none ∧ k.clean 0x3FFC0 64 = true
       ∧ k.blocksWrite 0x3FFC0 64 = none ∧ k.triHeld 0x3FFC0 64 = false)
    ∧ (gregs 0x3FFC1 0).gr 2 ≠ 0 := by decide +kernel

/-! A tile of one I8 element, 0x7F. -/
def exCart : Cart := { Cart.parse [] with
  ver := 1, fmt := fmtI8, rows := 1, cols := 1, plen := 1, version := 5, pcrc := crc32c [0x7F] }
def exTile : List Byte := tileBytes exCart.bytes [0x7F]
def exDesc : Desc := { addr := 0x1000, fmt := fmtI8, rows := 1, cols := 1, version := 5 }
/-- t1 describes the tile at 0x1000 of the store, t2 stacked memory's slot 0x2000, t3 the slot's copy in core 1's store, t4 0x3000. -/
def tileCore : Core :=
  ({ run := .running, g := [(2, 1)]
     t := [(1, exDesc), (2, { exDesc with addr := 0x2000 }), (3, { exDesc with addr := 0x200000041000 }), (4, { exDesc with addr := 0x3000 })] } : Core)
    |>.storeBytes 0x1000 exTile
/-- The same tile in slot 0x4_1000 of stacked memory (an address below 0x4_0000 names the own store) and at 0x1000 of core 1. -/
def tiles2 : State :=
  let s := dev 0
  let s := s.updMem fun m => { m with bytes := Memory.writeBytes (Memory.writeBytes [] 0x41000 [0x7F]) (s.cartLocal 0x41000) exCart.bytes }
  { s with cores := [(0, tileCore.setDesc 2 { exDesc with addr := 0x41000 }), (1, ({} : Core).storeBytes 0x1000 exTile)] }
def slotCart : Nat := (dev 0).cartLocal 0x41000
/-- tld: from slot 0x4_1000 to t4, from core 1's store, from the own store. -/
theorem witness_TileTransfers_load : (let s := tiles2; let k := s.core 0
    s.canIssue 0 [] = true ∧ k.flights.length < 16 ∧ capacity (k.desc 4) = some 128 ∧ ownTile 0 (k.desc 4).addr 128 = some 0x3000
    ∧ k.blocksWrite 0x3000 128 = none ∧ k.triHeld 0x3000 128 = false ∧ k.slotFor 0x41000 = none
    ∧ s.tilePlace 0 false 0x41000 64 = .memory slotCart 0x41000
    ∧ s.tilePlace 0 false (k.desc 3).addr 64 = .store 1 0x1000
    ∧ s.tilePlace 0 false 0x300000000000 64 = .bad
    ∧ s.tilePlace 0 false (k.desc 1).addr 64 = .own 0x1000 ∧ k.dblErr = [] ∧ 0x1000 + k.tileSpan 0x1000 ≤ 0x40000
    ∧ k.readBar 0x1000 (k.tileSpan 0x1000) = none ∧ hcrcOk (k.loadBytes 0x1000 64) = true ∧ (k.loadBytes 0x1000 64).length = 64
    ∧ up64 (64 + (Cart.parse (k.loadBytes 0x1000 64)).plen.toNat) = 128) := by decide +kernel
theorem witness_TileTransfers_next : ((nextOf small (exec (.tld 0 4 1) tiles2)).core 0).flights = [⟨0, false, false, 0⟩]
    ∧ (nextOf small (exec (.tld 0 4 2) tiles2)).net.length = 2 := by decide +kernel
/-- A cartouche whose HCRC does not match, and one whose tile is longer than the destination's capacity. -/
theorem witness_TileTransfers_refused : hcrcOk (List.replicate 63 0 ++ [1]) = false
    ∧ hcrcOk { exCart with plen := 65, cols := 65 }.bytes = true
    ∧ 128 < up64 (64 + (Cart.parse { exCart with plen := 65, cols := 65 }.bytes).plen.toNat) := by decide +kernel
theorem witness_TileTransfers_slot : (let s := tiles2.updCore 0 fun k => { k with slots := [⟨0, 0x41000, 128, some (exCart.bytes ++ [0x7F])⟩] }
    let bs := exCart.bytes ++ [0x7F]
    s.tilePlace 0 false 0x41000 64 ≠ .bad ∧ (s.core 0).slotFor 0x41000 = some ⟨0, 0x41000, 128, some bs⟩ ∧ exDesc.version ≠ 0
    ∧ (Cart.parse (bs.take 64)).version = exDesc.version ∧ hcrcOk (bs.take 64) = true
    ∧ bs.length = 64 + (Cart.parse (bs.take 64)).plen.toNat ∧ up64 bs.length ≤ 128) := by decide +kernel
def exUsed : Tile := ⟨0x1000, exCart.bytes, Cart.parse exCart.bytes, [0x7F]⟩
theorem witness_TileTransfers_store : (let s := tiles2; let k := s.core 0
    ownTile 0 (k.desc 1).addr 64 = some 0x1000 ∧ k.readBar 0x1000 128 = none
    ∧ (match k.useTile 0x1000 (some (k.desc 1).fmt) with | .ok u => u == exUsed | .error _ => false) = true
    ∧ exUsed.cart.pencil = false ∧ k.hold = none
    ∧ s.tilePlace 0 true 0x41000 128 = .memory slotCart 0x41000 ∧ s.placeInk 0 (.memory slotCart 0x41000) = false
    ∧ s.tilePlace 0 true (k.desc 3).addr 128 = .store 1 0x1000 ∧ (s.core 1).holdsWrite 0x1000 128 = false
    ∧ s.tilePlace 0 true (k.desc 4).addr 128 = .own 0x3000 ∧ k.blocksWrite 0x3000 128 = none ∧ k.triHeld 0x3000 128 = false
    ∧ (nextOf small (exec (.tst 0 2 1) s)).net.length = 17) := by decide +kernel
/-- A pencilled tile of the core itself to an INK region: it waits while its epoch is not inked, and is refused once that is dead. -/
def ownPencil : Cart := { Cart.parse exCart.bytes with pencil := true, module := 0, core := 0, epoch := 1 }
theorem witness_TileTransfers_ink : ∀ d ∈ [[], [((1 : W32), (1 : W32))]], (let s := { inked [] with inks := [(0, { dead := d })] }
    s.freeToUse 0 ownPencil ∧ s.placeInk 0 (s.tilePlace 0 true 0x41000 128) = true
    ∧ s.inkWait 0 ownPencil = (if d.isEmpty then InkWait.wait else .dead)) := by
  intro d _; exact ⟨.inr ⟨rfl, rfl⟩, by revert d; decide +kernel⟩
theorem witness_TileTransfers_done : coreExists 0x9F9F = true ∧ ((at0 running).core 0).awaits 0 = false
    ∧ ((nextOf small (exec (.tld 0 4 2) tiles2)).core 0).awaits 0 = true := by decide +kernel

/-! Messages: core 0 sends to core 1. -/
def pk (t : PType) : Packet := { typ := t, dst := 1, src := 0 }
def netOf (p : Packet) (s : State) : State := { s with net := [p] }
theorem witness_FlowsArriveInOrder : (let s : State := { small with net := [pk .mrts, pk .mgnt, pk .warr] }
    s.forUs (pk .mgnt) = true ∧ s.rst.inReset = false ∧ pk .mgnt ∉ [pk .mrts] ∧ sameFlow (pk .mgnt) (pk .mrts) = true
    ∧ pk .warr ∉ [pk .mrts, pk .mgnt] ∧ (∀ q ∈ [pk .mrts, pk .mgnt], sameFlow (pk .warr) q = false)) := by decide +kernel

theorem witness_MessagesEndToEnd_recv : (let s := tiles2; let k := s.core 0
    s.canIssue 0 [] = true ∧ capacity (k.desc 4) = some 128 ∧ ownTile 0 (k.desc 4).addr 128 = some 0x3000
    ∧ ¬(16 ≤ k.recvs.length ∨ 4 ≤ (k.recvs.filter fun r => r.chan == 3).length) ∧ k.blocksWrite 0x3000 128 = none
    ∧ k.triHeld 0x3000 128 = false) := by decide +kernel
theorem witness_MessagesEndToEnd_full :
    4 ≤ ((List.replicate 4 (⟨0, 3, {}, none, 0⟩ : Recv)).filter fun r => r.chan == 3).length ∧ 16 ≤ (List.replicate 16 (⟨0, 3, {}, none, 0⟩ : Recv)).length := by
  decide +kernel
theorem witness_MessagesEndToEnd_send : (let s := { tiles2 with cores := [(0, tileCore.setG 2 0x80000001)] }; let k := s.core 0
    s.canIssue 0 [2] = true ∧ k.sends.length < 8 ∧ s.dest 0 (k.gr 2) true = .core 1 ∧ ownTile 0 (k.desc 1).addr 64 = some 0x1000
    ∧ k.readBar 0x1000 128 = none
    ∧ (match k.useTile 0x1000 (some (k.desc 1).fmt) with | .ok u => u == exUsed | .error _ => false) = true) := by decide +kernel
/-- MRTS at a core with a posted receive, with none, and with one that is too small. -/
def posted (n : Option Binding) : State := { tiles2 with cores := [(0, { sends :=
  [{ msgid := 7, acc := false, phase := .asked, dst := 1, dlocal := true, dmod := 0, chan := 0, addr := 0x1000, len := 128, data := [], datum := 0
     warr := false, wp := 0, pencil := false, epoch := 0, pc := 0, seq := 0 }] }), (1, { recvs := [⟨0, 0, exDesc, n, 0⟩] })] }
def back (t : PType) : Packet := { typ := t, dst := 0, src := 1, rsp := true, msgid := 7 }
theorem witness_MessagesEndToEnd_mrts : ((netOf (pk .mrts) (posted none)).arrive (pk .mrts)) = some (posted none)
    ∧ (posted none).rejects (pk .mrts) = none ∧ ({ pk .mrts with smod := 9 } : Packet) ∉ (posted none).net
    ∧ (posted none).rejects { pk .mrts with smod := 9 } = some 6
    ∧ (((posted none).core 1).recvs.find? fun r => r.chan == 0 && r.bound.isNone) = some ⟨0, 0, exDesc, none, 0⟩
    ∧ (((posted none).core 2).recvs.find? fun r => r.chan == 0 && r.bound.isNone) = none := by decide +kernel
theorem witness_MessagesEndToEnd_mgnt : ((netOf (back .mgnt) (posted none)).arrive (back .mgnt)) = some (posted none)
    ∧ (((posted none).core 0).sends.find? fun m => !m.acc && m.msgid == 7 && m.phase == .asked).isSome = true
    ∧ ((posted none).core 0).clean 0x1000 128 = true
    ∧ (((posted none).core 0).sends.find? fun m => !m.acc && m.msgid == 8 && m.phase == .asked) = none := by decide +kernel
def mdataPk : Packet := { typ := .mdata, dst := 1, src := 0, msgid := 7, last := true, payload := List.replicate 128 0 }
theorem witness_MessagesEndToEnd_mdata : (let s := posted (some ⟨0, 0, 7⟩)
    (netOf mdataPk s).arrive mdataPk = some s ∧ (s.core 1).boundTo mdataPk = some ⟨0, 0, exDesc, some ⟨0, 0, 7⟩, 0⟩ ∧ (s.core 1).snaps = []
    ∧ (capacity exDesc).getD 0 ≥ mdataPk.off.toNat + mdataPk.payload.length ∧ mdataPk.dst.toNat < 0xFF00) := by decide +kernel

/-- An LP128 tile of 8 × 16 elements for xacc. -/
def accCart : Cart := { exCart with
  fmt := fmtLp128, rows := 8, cols := 16, plen := 2048, datum := 0xFFFC, pcrc := 0 }
def accCore : Core := { run := .running, g := [(2, 0x80000001)], t := [(1, { exDesc with fmt := fmtLp128, rows := 8, cols := 16 })]
                        store := Memory.writeBytes [] 0x1000 accCart.bytes
                        tags := [⟨0x1000, 2048, 0⟩]
                        banks := [(0, { fixed := true, datum := 4 })] }
theorem witness_RemoteAccumulation_tile : (let s := at0 accCore; let k := s.core 0
    s.canIssue 0 [2] = true ∧ s.dest 0 (k.gr 2) false = .core 1 ∧ ownTile 0 (k.desc 1).addr 64 = some 0x1000
    ∧ k.readBar 0x1000 2112 = none
    ∧ (match k.useTile 0x1000 (some fmtLp128) with
       | .ok u => u.cart.rows == 8 && u.cart.cols == 16 && u.cart.plen == 2048 && !u.cart.pencil | .error _ => false) = true
    ∧ k.matrixIdle = true ∧ s.convBar 0 [0] = false ∧ (k.bank 0).intmode = false ∧ (k.bank 0).overflows = false) := by decide +kernel
def accPk : Packet := { typ := .acc, dst := 1, src := 0, payload := List.replicate 256 0, arg := 4 }
def staged (p : SendPhase) (x : Stage) (b : Bank) : State := { small with cores := [
  (0, { sends := [{ msgid := 7, acc := true, phase := p, dst := 1, dlocal := true, dmod := 0, chan := 2, addr := 0, len := 2048, data := List.replicate 2048 0
                    datum := 4, warr := false, wp := 0, pencil := false, epoch := 0, pc := 0, seq := 0 }] }),
  (1, { run := .running, stages := [x], banks := [(2, b)] })] }
def exStage : Stage := { who := ⟨0, 0, 7⟩, bank := 2, datum := 4, data := [], got := 2048, warr := false, wp := 0, pencil := false, epoch := 0 }
theorem witness_RemoteAccumulation_packets : (let s := staged .asked exStage {}
    (netOf accPk s).arrive accPk = some s ∧ s.rejects accPk = none ∧ ¬ 2 ≤ (s.core 1).stages.length
    ∧ (netOf (back .accrsp) s).arrive (back .accrsp) = some s
    ∧ ((s.core 0).sends.find? fun m => m.acc && m.msgid == 7 && m.phase == .asked).isSome = true
    ∧ (((staged .retry exStage {}).core 0).sends.find? fun m => m.msgid == 7).isSome = true) := by decide +kernel
theorem witness_RemoteAccumulation_apply : ((staged .asked exStage {}).core 1).stages[0]? = some exStage ∧ 2048 ≤ exStage.got
    ∧ (let b := ((staged .asked exStage { fixed := true }).core 1).bank 2
       b.intmode = false ∧ b.fixed = true ∧ b.force.policy ≠ polTight)
    ∧ ({ run := some true } : Bank).run = some true ∧ ({} : Bank).fixed = false := by decide +kernel

/-! Waypoints: 0x0005 is homed on sheet 0. -/
theorem witness_WaypointInstructions : (let s := at0 { gregs 0x80005 2 with epoch := 1 }
    s.canIssue 0 [1, 2, 3] = true ∧ s.mayName 0 ((s.core 0).gr 2 |>.setWidth 16) = true ∧ (s.core 0).matrixIdle = true
    ∧ ((s.core 0).gr 2).getLsbD 19 = true ∧ covers (s.core 0).frontier 1 = false ∧ covers (s.core 0).frontier 0 = true) := by decide +kernel
def warrPk : Packet := { typ := .warr, wpid := 5, edge := 5 }
def armed (c t : W32) (d : Option Nat) : State := { small with wps := [(5, { state := .armed, count := c, target := t, deadline := d, waiters := 1 })] }
theorem witness_WaypointHomes : (let s := armed 1 2 (some 0)
    wpHome 5 = 0 ∧ s.sheetPart 0 ≠ none ∧ s.rst.inReset = false ∧ (∀ p ∈ [warrPk, warrPk], p.dlocal = true ∧ p.smod = s.modId ∧ p ∉ s.net)
    ∧ (s.wp 5).state = .armed ∧ (s.wp 5).count.toNat < (s.wp 5).target.toNat ∧ (s.wp 5).deadline = some 0 ∧ 0 ≤ s.tick.toNat) := by
  decide +kernel
/-- An arrival that completes the target wins over the deadline; without it the waypoint expires. -/
theorem witness_WaypointHomes_tick : ((nextOf small (execWaypointTick 0 [warrPk] (armed 1 2 (some 0)))).wp 5).state = .complete
    ∧ ((nextOf small (execWaypointTick 0 [] { armed 1 2 (some 0) with mer := { count := 1 } })).wp 5).state = .expired := by decide +kernel
def waitsFor (w : Wait) (ts : List (W16 × Reg × Nat)) : State := at0 { run := .running, wait := w, wtests := ts }
def wrspPk (arg : W32) (chan code : Byte) : Packet := { typ := .wrsp, wpid := 5, arg := arg, chan := chan, code := code, rsp := true }
theorem witness_WaypointHomes_answers : (∀ s ∈ [waitsFor (.wwait 5) [], waitsFor .none [(5, 4, 0)]], ∀ p ∈ [wrspPk 2 1 0, wrspPk 3 1 0, wrspPk 2 0 0, wrspPk 0 0 5],
      (netOf p s).arrive p = some s)
    ∧ ((waitsFor (.wwait 5) []).core 0).wait = .wwait 5 ∧ ((waitsFor .none [(5, 4, 0)]).core 0).wtests = [(5, 4, 0)]
    ∧ ((waitsFor .none []).core 0).run = .running := by decide +kernel
def exHeld : HeldArr := { wp := 5, dlocal := true, dmod := 0, own := some 0, producer := none, again := false }
theorem witness_WaypointHomes_held : (let s := at0 { heldArrs := [exHeld] }
    (s.core 0).heldArrs[0]? = some exHeld ∧ covers (s.core 0).frontier 0 = true ∧ (s.ink 0).isDead 0 = false
    ∧ (s.core 0).dependsDead 0 = false) := by decide +kernel

theorem witness_ControlRegisters : (at0 running).canIssue 0 [1, 2] = true ∧ cReg 0x7FF = none
    ∧ (cReg 0).isSome = true ∧ ((at0 running).core 0).unfinished = none := by decide +kernel
theorem witness_FencesAndHalt : (let s := at0 running
    s.canIssue 0 [] = true ∧ (s.core 0).earlier = none ∧ s.landing 0 = false ∧ (s.core 0).unfinished = none
    ∧ s.partOf 0 = some 0 ∧ s.overlayOn 0 = false
    ∧ (({ flights := [⟨0, false, false, 0⟩] } : Core).earlier).isSome = true) := by decide +kernel
/-- A prefetch whose answers have all come, one that still waits, one whose tile is too long. -/
def filling (n cap : Nat) (bs : List Byte) : State := tiles2.updCore 0 fun k => { k with
  slots := [⟨0, 0x41000, cap, none⟩], remotes := [⟨0, 0, 0, false, .prefetch 0, 0, n, Memory.writeBytes [] 0 bs, 0, 0⟩] }
/-- Whether each prefetch slot of core 0 is filled after the command, and how many of its loads are left. -/
def filled (s : State) : List Bool × Nat := (((nextOf small (exec (.prefetchFill 0 0) s)).core 0).slots.map fun x => x.tile.isSome,
  ((nextOf small (exec (.prefetchFill 0 0) s)).core 0).remotes.length)
theorem witness_FencesAndHalt_prefetch : ((filling 0 128 exTile).core 0).slots = [⟨0, 0x41000, 128, none⟩]
    ∧ (((filling 0 128 exTile).core 0).remotes.find? fun r => r.use == .prefetch 0).map (·.left) = some 0
    ∧ filled (filling 0 128 exTile) = ([true], 0) ∧ filled (filling 1 128 exTile) = ([false], 1)
    ∧ filled (filling 0 64 exTile) = ([], 0) ∧ filled (filling 0 128 (1 :: exTile.tail)) = ([], 0) := by decide +kernel
theorem witness_FencesAndHalt_waits : ((at0 { running with sends := [] }).core 0).earlier = none
    ∧ ({ at0 running with net := [{ pk .mdata with src := 0 }] } : State).landing 0 = true
    ∧ ({ running with wtests := [(5, 4, 0)] } : Core).unfinished = some 0 ∧ ({ running with wtests := [(5, 4, 0)] } : Core).earlier = none
    ∧ ({ running with stage := some .instr } : Core).unfinished = some 8 ∧ ({ running with stage := some .instr } : Core).entries = []
    ∧ ((nextOf small (exec (.fence 0) (at0 running))).core 0).pc = 4 ∧ ((nextOf small (exec (.ifence 0) (at0 running))).core 0).pc = 4
    ∧ ((nextOf small (exec (.halt 0) (at0 running))).core 0).run = .halted := by decide +kernel
theorem witness_IssueHolds : (encodeCore (.add 0 1 2 3)).isSome = true ∧ (Instr.add 0 1 2 3).core? = some 0
    ∧ ((at0 { running with run := .halted }).core 0).run ≠ .running ∧ (at0 running).issues 0 = true
    ∧ ({ at0 running with pwr := { hold := 1 } } : State).pwr.hold ≠ 0
    ∧ ((at0 { running with triHold := true }).core 0).triHold = true ∧ ((at0 { running with repeatLeft := 9 }).core 0).repeatLeft ≠ 0
    ∧ (let k : Core := { running with repeatLeft := 9, stall := some 2 }
       k.waits = true ∧ 3 ≤ 20 ∧ k.stall ≠ some 5 ∧ (∀ m < 8, (Sparse.get 0 k.idle m).toNat < 2 ^ 48)
       ∧ (k.cycles 20 3).idle = [(2, 11), (5, 3), (6, 6)]) := by decide +kernel
theorem witness_InstructionWordsRoundTrip : (Instr.xacc 0 9 1 3 false true 0x123).wf = true
    ∧ (Instr.xacc 0 9 1 3 false true 0x123).core? = some 0 ∧ (encodeCore (.xacc 0 9 1 3 false true 0x123)).isSome = true := by decide +kernel

/-! Matrix work: t1 is the I8 tile of one element, bank 0 fixed at datum −4. -/
def matCore : Core := { (tileCore.setBank 0 { fixed := true, datum := 0xFFFC }) with
  t := [(1, exDesc), (4, { exDesc with addr := 0x3000 }), (5, { addr := 0x8000, fmt := fmtFp32, rows := 8, cols := 16 })] }
def mat : State := at0 matCore
theorem witness_AccumulationIsOrderFree : exBank.intmode = false ∧ exBank.fixed = true ∧ exTerms.Perm exTerms.reverse :=
  ⟨rfl, rfl, (List.reverse_perm exTerms).symm⟩
theorem witness_BankClearAndDatum : mat.canIssue 0 [2] = true ∧ (mat.core 0).matrixIdle = true ∧ ((mat.core 0).bank 0).opn = false
    ∧ (((nextOf mat (exec (.mdat 0 0 2 8) (at0 (matCore.setG 2 0x80)))).core 0).bank 0).written.policy = polFixed := by
  decide +kernel
theorem witness_MatrixMultiplyAdds : (let s := mat; let k := s.core 0; let d := k.desc 1
    s.canIssue 0 [] = true ∧ k.matrixIdle = true
    ∧ (match macOperands 0 d d 1 false with | .ok p => p == (0x1000, 0x1000) | .error _ => false) = true
    ∧ capacity d = some 128 ∧ k.operandBar 0x1000 128 0x1000 128 = none ∧ isIntRun d d true = false
    ∧ (k.bank 0).intmode = false ∧ (k.bank 0).fixed = true ∧ (k.bank 0).force.policy ≠ polTight ∧ (k.tags.map (·.addr)).Nodup
    ∧ (match k.useTile 0x1000 (some d.fmt) with | .ok u => u == exUsed | .error _ => false) = true) := by decide +kernel
theorem witness_MatrixMultiplyAdds_next :
    (((nextOf mat (exec (.mmac 0 0 1 1 true 0) mat)).core 0).bank 0).kcnt = 1 := by decide +kernel
theorem witness_BankConversions : (let s := mat; let k := s.core 0; let d := k.desc 5
    s.canIssue 0 [] = true ∧ mcvtBanks 0 0 = some [0] ∧ k.matrixIdle = true ∧ capacity d = some 576 ∧ d.rows = 8 ∧ d.cols.toNat = 16
    ∧ badOutput d = false ∧ d.survey = false ∧ ownTile 0 d.addr 576 = some 0x8000 ∧ k.blocksWrite 0x8000 576 = none
    ∧ k.triHeld 0x8000 576 = false ∧ s.convBar 0 [0] = false ∧ (k.bank 0).overflows = false ∧ (k.bank 0).intmode = false
    ∧ d.fmt ≠ fmtLp128) := by decide +kernel
theorem witness_BankConversions_range : (let k := mat.core 0; let d := k.desc 5; let src := k.groupValues [0]
    let w := writeElems d.fmt d.bsize { mode := k.rmode 0, ftz := false, znorm := false, datum := 0xFFFC } (k.withRandom (k.rmode 0) d src)
    rangeFails d.fmt 0 (expBound (fun x y => if x < y then y else x) w.2) src w.2 = false) := by decide +kernel
theorem witness_BankConversions_mhd : (let s := at0 (gregs 0x3FEE0 0); let k := s.core 0
    s.canIssue 0 [2, 3] = true ∧ (k.gr 2).toNat % 32 = 0 ∧ (k.gr 2).toNat ≤ 0x3FEE0 ∧ k.matrixIdle = true ∧ k.blocksWrite 0x3FEE0 288 = none
    ∧ k.triHeld 0x3FEE0 288 = false ∧ 0x3FEE0 < 0x3FF00) := by decide +kernel
theorem witness_LandingTags : (({ tags := [⟨0x1000, 1, 0⟩] } : Core).tags.map (·.addr)).Nodup ∧ exCart.bytes.length = 64 := by decide +kernel

/-! An mseg over one row with variant 0, its adapter the tile in slot 0x4_1000, and one whose only segment has NONE. -/
def segBytes (w : Nat) : List Byte := leBytes 8 0x6000 ++ leBytes 4 1 ++ leBytes 4 0 ++ leBytes 4 0x4000 ++ leBytes 4 0x5000 ++ leBytes 4 0x100
  ++ leBytes 4 0 ++ leBytes 4 w ++ List.replicate 28 0
def seg (w : Nat) : State :=
  let s := dev 0
  let s := s.updMem fun m => { m with bytes := Memory.writeBytes (Memory.writeBytes (Memory.writeBytes [] 0x6000 (leBytes 8 0x41000 ++ List.replicate 8 0
    ++ leBytes 4 1 ++ leBytes 2 1)) 0x41000 [0x7F]) (s.cartLocal 0x41000) exCart.bytes }
  { s with host := { funcs := [(0, { inForce := 0xFFF })] }
           cores := [(0, ({ matCore with g := [(2, 0x2000)], t := [(1, exDesc), (6, { exDesc with addr := 0 })]
                                         remotes := [⟨0, 0, 0, false, .issue 0x6000 32, 0, 0, Memory.writeBytes [] 0 (s.mem.bytes.readBytes 0x6000 32), 0, 0⟩]
                            } : Core).storeBytes 0x2000 (segBytes w))] }
def exSeg : Seg := ⟨0, 0, 1, 0x41000, 1⟩
theorem witness_VariantSegments : ∀ x ∈ [(65536, [exSeg]), (65536 + 2 ^ 20, [])], (let s := seg x.1; let k := s.core 0
    let t := segTable (k.loadBytes 0x2000 64); let rows := segRows 0 t.segs
    s.canIssue 0 [2] = true ∧ s.feature featVariant = true ∧ small.feature featVariant = false ∧ k.matrixIdle = true
    ∧ (match macOperands 0 (k.desc 1) (k.desc 6) 1 true with | .ok p => p.1 == 0x1000 | .error _ => false) = true
    ∧ tileOff (k.gr 2) = some 0x2000 ∧ k.operandBar 0x1000 128 0x2000 64 = none ∧ k.clean 0x2000 64 = true ∧ t.part ≤ 1
    ∧ (rows.map fun r => r.2.2.1 - r.2.1).foldl (· + ·) 0 ≤ (k.desc 1).rows.toNat ∧ t.buf0 = 0x4000 ∧ t.buf1 = 0x5000
    ∧ t.bufcap = 0x100 ∧ (k.desc 6).addr.toNat % 4096 = 0 ∧ capacity (k.desc 6) = some 128
    ∧ (match segsOf 0 t s rows with | .ok y => y == x.2 | .error _ => false) = true
    ∧ (k.bank 0).refuses (isIntRun (k.desc 1) (k.desc 6) false) = none ∧ (k.bank 0).tight = false ∧ k.abuf0 = none ∧ k.abuf1 = none
    ∧ k.blocksWrite 0x4000 128 = none ∧ overlap64 0x1000 128 0x4000 128 = false ∧ k.triHeld 0x4000 128 = false) := by decide +kernel
/-- The load that it starts while its answers are outstanding (`n` of them), and the tile that comes. -/
def loading (n : Nat) : State := (nextOf small (exec (.mseg 0 0 1 6 2 0) (seg 65536))).updCore 0 fun k => { k with
  remotes := k.remotes.map fun r => { r with left := n, data := Memory.writeBytes [] 0 exTile } }
theorem witness_VariantSegments_load : ∀ n ∈ [0, 1], (let s := loading n
    let data := (((s.core 0).fetchOf (.adapter 0)).map (·.data)).getD []
    (match (s.core 0).mseg, (s.core 0).abuf 0 with
     | some m, some tag => !tag.loaded && m.segs.find? (fun g => tagFits m g tag) == some exSeg
         && segsGo 0 0x1000 (m.segs.length + 1) s == s && (s.core 0).fetching (.adapter 0) == (n != 0)
         && !(s.core 0).triHeld (m.buf 0) m.span && ownOff 0 m.ta.addr.toNat == some 0x1000
         && (match adapterTiles 0 s m exSeg data m.n with | .ok ts => ts == [(exCart.bytes, [0x7F])] | .error _ => false)
     | _, _ => false) = true) := by decide +kernel

/-! Deferred and stolen work. -/
def exDefer (started : Bool) : Defer :=
  { id := 0, bank := 0, ta := exDesc, tb := exDesc, n := 1, lp := true, nosteal := false, wp := 0, ftz := false, started := started, progress := 0, pc := 0, seq := 0 }
theorem witness_DeferredAndStolenWork : (let s := mat; let k := s.core 0
    ¬ 64 ≤ k.entries.length + k.lent.length ∧ k.operandBar 0x1000 128 0x1000 128 = none ∧ (k.bank 0).fixed = true
    ∧ (k.bank 0).tight = false ∧ (k.bank 0).run = none ∧ ((exBank.begin (isIntRun exDesc exDesc true)).run = some (isIntRun exDesc exDesc true))
    ∧ 64 ≤ (List.replicate 64 (exDefer false)).length) := by decide +kernel
/-- Entries 0 and 1, the second of them forced or not, and a matrix instruction that waits or not. -/
def queued (forced waits : Bool) : State :=
  at0 { matCore with defq := [exDefer false, { exDefer false with id := 1, forced := forced }], stall := if waits then some 9 else none }
theorem witness_DeferredAndStolenWork_run : (∀ f w, let k := (queued f w).core 0
      k.stage = none ∧ k.mseg = none ∧ k.repeatLeft = 0 ∧ k.matrixWaits = w ∧ (k.bank 0).refuses (isIntRun exDesc exDesc true) = none
      ∧ (k.defq.find? (·.forced)).map (·.id) = if f then some 1 else none)
    ∧ ((queued false false).core 0).defq.head? = some (exDefer false) := by decide +kernel
/-- A running entry, forced or not, and a matrix instruction that waits or not. -/
def atStage (forced waits : Bool) : State :=
  at0 { matCore with stage := some (.deferred { exDefer true with forced := forced }), stall := if waits then some 9 else none }
theorem witness_DeferredAndStolenWork_yield : ((atStage false true).core 0).matrixWaits = true ∧ ((atStage false false).core 0).matrixWaits = false
    ∧ (let s := atStage false true; let e := exDefer true
    let hi := e.after ((matCore.bank 0).cover == some true) 16
    16 % 16 = 0 ∧ 8 % 16 ≠ 0 ∧ hi = e.total ∧ e.after ((matCore.bank 0).cover == some true) 0 < e.total
    ∧ (match runPairs (e.runIn 0) (e.pairs 0 e.progress hi) s with | .ok _ => true | _ => false) = true
    ∧ (match runPairs (e.runIn 0) (e.pairs 0 e.progress 0) s with | .ok _ => true | _ => false) = true
    ∧ (match runPairs (e.runIn 0) (e.pairs 0 e.progress e.total) s with | .ok _ => true | _ => false) = true)
    ∧ ((nextOf small (exec (.deferYield 0 16) (atStage false true))).core 0).stage = none
    ∧ ((nextOf small (exec (.deferYield 0 16) (atStage true true))).core 0).stage ≠ none
    ∧ ((at0 { matCore with stage := some .instr }).core 0).mseg = none := by decide +kernel
def stealing : State := { mat with
  host := { funcs := [(0, { inForce := 0xFFF })] }
  cores := [(0, { matCore with defq := [exDefer false, { exDefer false with id := 1 }], t := [] }), (1, running)] }
theorem witness_DeferredAndStolenWork_steal : (let s := stealing; let t := s.core 1; let v := s.core 0; let b := v.bank 0; let e := exDefer false
    let ps := e.pairs 0 0 e.total
    s.partOf 1 = some 0 ∧ s.partOf 0 = some 0 ∧ (s.part 0).steal = true ∧ s.feature featSteal = true ∧ t.run = .running ∧ t.triHold = false ∧ t.repeatLeft = 0
    ∧ t.defq = [] ∧ t.stage = none ∧ t.mseg = none ∧ t.stolen = none ∧ 2 ≤ v.entries.length ∧ v.defq.find? v.stealable = some e
    ∧ s.svr.closed.contains (.core 0) = false ∧ b.refuses false = none
    ∧ (match runPairs { owner := 0, dst := 1, bank := 4, ta := e.ta, tb := e.tb, ftz := e.ftz, eater := some 0 } ps
        (s.updCore 1 fun k => k.setBank 4 ({ b.forSteal with run := some (isIntRun e.ta e.tb e.lp) }.log (v.logEnt e.ta e.tb e.lp e.ftz ps))) with
       | .ok _ => true | _ => false) = true) := by decide +kernel
theorem witness_DeferredAndStolenWork_merge : (let s := nextOf small (exec (.steal 1 0) stealing)
    (match (s.core 1).stolen with
     | some y => y.victim == 0 && (s.core y.victim).lent.any (·.id == y.entry.id)
     | none => false) = true) := by decide +kernel

/-! Vector instructions. -/
theorem witness_vector : (at0 (gregs 0x3FF80 0x3FF81)).canIssue 0 [] = true ∧ (at0 (gregs 0x3FF80 0)).canIssue 0 [4, 2] = true
    ∧ (let k := (at0 (gregs 0x3FF80 0x3FF81)).core 0
       (k.gr 2).toNat % 128 = 0 ∧ (k.gr 2).toNat < 0x40000 ∧ k.readBar 0x3FF80 128 = none ∧ k.clean 0x3FF80 128 = true
       ∧ k.blocksWrite 0x3FF80 128 = none ∧ k.triHeld 0x3FF80 128 = false ∧ (k.gr 3).toNat % 128 ≠ 0) := by decide +kernel
/-- FloatingLanes: an input in every row of the special table, and one outside it. -/
theorem witness_FloatingLanes : fpFp32.decode false 0x7FC00000 = .nan ∧ fpFp32.decode false 0xFF800000 = .inf true
    ∧ (∃ m e, fpFp32.decode false 0x40000000 = .fin false m e ∧ m ≠ 0) := ⟨by decide +kernel, by decide +kernel, _, _, rfl, by decide +kernel⟩
/-- RoundingAndReciprocals: below, at and above the largest BF16, and normal inputs of rcp and rsqrt. -/
theorem witness_RoundingAndReciprocals : magLt fpBf16.maxM fpBf16.maxE fpBf16.maxM fpBf16.maxE = false
    ∧ magLt fpBf16.maxM fpBf16.maxE 1 200 = true ∧ magLt (2 * fpBf16.maxM) (fpBf16.maxE - 1) (2 * fpBf16.maxM + 1) (fpBf16.maxE - 1) = true
    ∧ fpE4m3.hasInf = false ∧ fpE5m2.hasInf = true
    ∧ 2 ^ 23 ≤ (0x3F800000 : W32).toNat % 2 ^ 31 ∧ fp32In false 0x3F800000 = .fin false (2 ^ 23) (-23)
    ∧ fp32In false 0x7F7FFFFF = .fin false (2 ^ 24 - 1) 104 := by decide +kernel
theorem witness_LongSumAndFusedUpdate : (let b : Bank := { fixed := true }
    b.intmode = false ∧ b.fixed = true ∧ b.tight = false) ∧ ({ force := { policy := polTight } } : Bank).tight = true
    ∧ ({} : Bank).fixed = false ∧ ({ run := some true } : Bank).run = some true ∧ (∀ xs : List Machine.Num, xs.Perm xs)
    ∧ (4 : Reg).toNat % 4 = 0 ∧ ((mat.core 0).desc 5).fmt.toNat < 3 ∧ (floatFmt fmtFp32).isSome = true :=
  ⟨by decide +kernel, by decide +kernel, rfl, rfl, fun xs => List.Perm.refl xs, by decide +kernel, by decide +kernel, rfl⟩
theorem witness_VectorConversions_unpack : (let k := mat.core 0; let d := k.desc 1
    elemBits d.fmt ≠ none ∧ d.rows.toNat * d.cols.toNat ≤ 32 * (32 - (31 : Reg).toNat) ∧ ownTile 0 d.addr 64 = some 0x1000
    ∧ k.readBar 0x1000 128 = none ∧ (match k.useTile 0x1000 (some d.fmt) with | .ok u => u == exUsed | .error _ => false) = true
    ∧ exUsed.cart.rows = d.rows ∧ exUsed.cart.cols = d.cols ∧ exUsed.cart.pencil = false
    ∧ exUsed.cart.rows ≠ ({ d with rows := 2 } : Desc).rows) := by decide +kernel
theorem witness_VectorConversions_vcvt : (let s := mat; let k := s.core 0; let d := k.desc 5
    s.canIssue 0 [] = true ∧ capacity d = some 576 ∧ d.rows.toNat * d.cols.toNat % 32 = 0 ∧ d.rows.toNat * d.cols.toNat ≤ 32 * (32 - (0 : Reg).toNat)
    ∧ badOutput d = false ∧ d.survey = false ∧ ownTile 0 d.addr 576 = some 0x8000 ∧ k.blocksWrite 0x8000 576 = none
    ∧ k.triHeld 0x8000 576 = false ∧ s.convBar 0 [] = false ∧ 32 * (32 - (31 : Reg).toNat) < d.rows.toNat * d.cols.toNat) := by decide +kernel

/-! Memory: requests of core 0 of this module at stacked memory and at core 1's store, and of module 9. -/
def mem256 (typ : PType) (a len : Nat) (payload : List Byte) : Packet :=
  { typ := typ, edge := memEdge a, dst := BitVec.ofNat 16 (memHome a), src := 0, len := BitVec.ofNat 32 len, ext := BitVec.ofNat 160 a
    payload := payload }
theorem witness_RemoteMemory_requests : 0x1000 < 0x8000000000 ∧ spaceOf 0x200001000010 = .store 0x40 0x10 ∧ spaceOf 0x108000000000 = .window 1
    ∧ (∃ w ∈ cutBytes 0x10FF [1, 2], w.1 % 256 + w.2.length = 256)
    ∧ (small.reqPacket 0 .mrd 7 0xFF00 8).dst.toNat = 159 * 256 + 155 ∧ (small.reqPacket 0 .mrd 7 0x1000 8).dst.toNat = 40 := by decide +kernel
theorem witness_RemoteMemory : (let s := dev 0; let p := mem256 .mrd 0x1000 256 []; let w := mem256 .mwr 0x1FFF 0 [7]
    (netOf p s).arrive p = some s ∧ (netOf w s).arrive w = some s ∧ memAddr p < 0x8000000000 ∧ s.requester p = some 0 ∧ s.requester w = some 0
    ∧ 0x1000 % 256 + 256 ≤ 256 ∧ p.edge = memEdge 0x1000 ∧ p.dst.toNat = memHome 0x1000 ∧ w.edge = memEdge 0x1FFF ∧ w.dst.toNat = memHome 0x1FFF
    ∧ s.permits 0 false 0x1000 256 = true ∧ s.permits 0 true 0x1FFF 1 = true ∧ w.pencil = false ∧ s.memIsolated 0x1000 256 = false
    ∧ s.cutPacket p = false ∧ s.cutPacket w = false ∧ s.copying 0x1000 256 = false
    ∧ s.mem.poisoned.contains 1 = false ∧ s.rst.powerOn = false ∧ s.rst.nvPulse = false ∧ s.bkp.crash.valid = false
    ∧ s.requester { p with smod := 9 } = none ∧ ¬ 0x1001 % 256 + 256 ≤ 256) := by decide +kernel
theorem witness_RemoteMemory_closed : (let s := { dev 0 with svr := { idrom := exIdrom, closed := [.controller 1 0, .controller 1 1] } }
    s.memIsolated 0x1000 256 = true)
    ∧ (({ dev 0 with mem := { (dev 0).mem with poisoned := [1] } } : State).mem.poisoned.contains 1) = true
    ∧ ({ dev 0 with mem := { (dev 0).mem with copies := [(1, 9)] } } : State).copying 0x1000 256 = true
    ∧ ({ dev 0 with svr := { idrom := exIdrom, closed := [.core 40] } } : State).cutPacket (mem256 .mrd 0x1000 256 []) = true := by decide +kernel
def exRemote (u : RemoteUse) (far : Bool) (n : Nat) : Remote :=
  { tag := 3, peer := 1, at_ := 40, far := far, use := u, base := 0x3000, left := n, data := [], pc := 0, seq := 0 }
def waitsRemote (u : RemoteUse) (far : Bool) (n : Nat) : State := at0 { running with remotes := [exRemote u far n] }
def mrdrPk (code : Byte) : Packet := { typ := .mrdr, rsp := true, dst := 0, smod := 1, msgid := 3, code := code, payload := exCart.bytes ++ [0x7F] }
theorem witness_RemoteMemory_answers : (∀ far, ∀ x ∈ [exRemote (.load 4 .ldw) far 1, exRemote (.tile exDesc 0 1 2) far 2, exRemote (.tile exDesc 0 1 2) far 1,
        exRemote (.store 0) far 1, exRemote (.prefetch 0) far 1, exRemote (.adapter 0) far 1],
      ∀ p ∈ [mrdrPk 0, mrdrPk 4, mrdrPk 7], (netOf p (waitsRemote x.use far x.left)).arrive p = some (waitsRemote x.use far x.left) ∧ p.edge = 0
        ∧ ((waitsRemote x.use far x.left).core p.dst.toNat).remotes = [x] ∧ x.tag = p.msgid ∧ x.far = far
        ∧ (netOf p (waitsRemote x.use far x.left)).landingHeld p = false)
    ∧ capacity exDesc = some 128
    ∧ (let got := Memory.writeBytes [] 0 (mrdrPk 0).payload
       hcrcOk (got.readBytes 0 64) = true ∧ up64 (64 + (Cart.parse (got.readBytes 0 64)).plen.toNat) ≤ 128)
    ∧ hcrcOk (Memory.readBytes (Memory.writeBytes [] 0 (1 :: (mrdrPk 0).payload.tail)) 0 64) = false
    ∧ capacity { exDesc with cols := 0 } = some 64 := by decide +kernel
def bytesXfer (flags : Byte) (src dst n : Nat) : XDesc :=
  { kind := 0, flags := flags, count := 0, len := BitVec.ofNat 32 n, src := BitVec.ofNat 64 src, dst := BitVec.ofNat 64 dst, srclo := 0
    srchi := 0x8000000000, dstlo := 0, dsthi := 0x8000000000, wp := 5, rsv := 0 }
def exXfer (d : XDesc) : Xfer := { q := 0, part := 0, seq := 0, d := d, next := 0 }
def withEngine (x : Xfer) : State := tiles2.setEngine 0 (some x)
/-- An answer for engine 0's transfer. -/
def toEngine (typ : PType) (code : Byte) : Packet :=
  { typ := typ, rsp := true, edge := 3, dst := 0x28, src := 0xFFFF, smod := 1, code := code, off := 0, payload := [1, 2] }
theorem witness_RemoteMemory_engine : ∀ d ∈ [bytesXfer 0 0x1000 0x9000 64, bytesXfer 2 0x1000 0x9000 64, { bytesXfer 4 0x41000 0x51000 0 with kind := 1, count := 1 }],
    ∀ t ∈ [PType.mrdr, .mwrr], ∀ code ∈ [(0 : Byte), 4, 6, 7], (let x := exXfer d; let p := toEngine t code
    (netOf p (withEngine x)).arrive p = some (withEngine x) ∧ p.edge ≠ 0 ∧ (withEngine x).engineOfTag p.msgid = some (0, x)
    ∧ p.smod ≠ (withEngine x).modId) := by decide +kernel
theorem witness_RemoteMemory_window : (let s := tiles2; let p := { mem256 .mrd 0x20000007FFF8 8 [] with edge := 0, dst := 1 }
    let w := { mem256 .mwr 0x20000007FFF8 0 (List.replicate 8 1) with edge := 0, dst := 1 }
    (netOf p s).arrive p = some s ∧ (netOf w s).arrive w = some s ∧ spaceOf (memAddr p) = .store 1 0x3FFF8 ∧ spaceOf (memAddr w) = .store 1 0x3FFF8
    ∧ p.smod = s.modId ∧ s.requester p = some 0 ∧ s.requester w = some 0
    ∧ (s.part 0).hasCore 1 = true ∧ s.svr.closed.contains (.core 1) = false ∧ s.cutPacket p = false ∧ s.cutPacket w = false
    ∧ (s.core 1).clean 0x3FFF8 8 = true ∧ (s.core 1).holdsWrite 0x3FFF8 8 = false
    ∧ (let b := (s.updCore 1 fun k => { k with dblErr := [(0x7FFF, true)] }).updCore 0 fun k => { k with remotes := [exRemote (.load 4 .ldd) false 1] }
       let q : Packet := { p with msgid := 3 }
       (netOf q b).arrive q = some b ∧ b.requester q = some 0 ∧ b.cutPacket q = false ∧ (b.core 1).clean 0x3FFF8 8 = false
       ∧ q.src ≠ 0xFFFF ∧ (b.core q.src.toNat).remotes.find? (fun r => r.tag == q.msgid) = some (exRemote (.load 4 .ldd) false 1))
    ∧ (let h := s.updCore 1 fun k => { k with pends := [⟨false, 0x3FFC0, 64, .stage⟩] }; (h.core 1).holdsWrite 0x3FFF8 8 = true)
    ∧ overlap64 0x3FFC0 64 0x3FFF8 8 = true) := by decide +kernel

/-- A page of stacked memory with `n` corrected reads in the last 24 hours. -/
def corrected (n : Nat) : State := small.updMem fun m => { m with corrections := [(5, List.replicate n 0)] }
theorem witness_LinksScrubAndTables : coreExists 0x9F9F = true ∧ Sparse.get 0 small.mem.linkFails 0 < 15
    ∧ 15 ≤ Sparse.get 0 [(0, 15)] 0 ∧ (netOf (pk .rsv0E) small).arrive (pk .rsv0E) = some small
    ∧ small.rst.inReset = false ∧ small.mem.poisoned.contains 0 = false ∧ small.rst.powerOn = false ∧ small.rst.nvPulse = false
    ∧ (corrected 3).now < 0 + 24 * 3600 * 10 ^ 9 ∧ (∀ x ∈ (corrected 3).mem.copies, x.1 ≠ 5) ∧ (corrected 3).mem.poisoned.contains 5 = false
    ∧ ((Sparse.get [] (corrected 3).mem.corrections 5).filter fun x => (corrected 3).now < x + 24 * 3600 * 10 ^ 9).length = 3
    ∧ ((Sparse.get [] (corrected 2).mem.corrections 5).filter fun x => (corrected 2).now < x + 24 * 3600 * 10 ^ 9).length < 3
    ∧ ((nextOf small (exec (.pageRetire 5 false) (corrected 3))).mem.copies).length = (if ((corrected 3).stack 5).spares = 0 then 0 else 1)
    ∧ small.attached = false ∧ boarded.attached = true
    ∧ (let v : W64 := 0x01C00000; v.toNat % 512 * 2 ^ 30 + v.toNat / 2 ^ 16 % 512 * 2 ^ 30 + v.toNat / 2 ^ 16 % 512 * 2 ^ 24 ≤ 2 ^ 39)
    ∧ (small.part 0).job = none ∧ (boarded.part 0).job.isSome = true := by decide +kernel

/-- From an INK region below 0x8000, as a transfer to the host needs. -/
theorem witness_TransferEngines_start : ∀ d ∈ [bytesXfer 0 0x1000 0x9000 64, bytesXfer 1 0x1000 0x9000 64, bytesXfer 2 0x1000 0x9000 64],
    (let s : State := { (tiles2.updMem fun m => { m with waiting := [exXfer d], rgn0 := [(0, 0xF0), (1, 0xB0)], rgn1 := [(0, 0x7000), (1, 0x7FFFFFF000)] }) with host := { linkUp := true } }
     s.rst.inReset = false ∧ s.engine 15 = none ∧ s.svr.closed.contains .transferEngines = false ∧ s.mem.waiting = [exXfer d]
     ∧ s.host.linkUp = true ∧ s.xferFormat d = false ∧ s.xferCheck 0 d = none ∧ d.tiles = false ∧ 0 < d.len.toNat
     ∧ (d.srcHost, d.dstHost) = (d.flags.getLsbD 0, d.flags.getLsbD 1)) := by decide +kernel
theorem witness_TransferEngines_refused : (∀ f ∈ [2, 3], let d := bytesXfer f 0x1000 0x9000 64
      d.tiles = false ∧ 0 < d.len.toNat ∧ d.dstHost = true ∧ tiles2.inkRegion 0 0x1000 64 = false)
    ∧ tiles2.xferCheck 0 (bytesXfer 0 0x1000 0x1020 64) = some .descFormat
    ∧ tiles2.xferCheck 0 (bytesXfer 0 0x1000 0x8000000000 64) = some .descBounds ∧ tiles2.xferFormat (bytesXfer 0 0x1000 0x8000000000 64) = false
    ∧ small.xferCheck 0 (bytesXfer 0 0x1000 0x9000 64) = some .access ∧ small.xferCheck 0 (bytesXfer 0 0x1000 0x9000 0) = none := by decide +kernel
def tilesXfer : XDesc := { bytesXfer 4 0x41000 0x51000 0 with kind := 1, count := 1 }
/-- Engine 0 with a tile transfer whose tile has come (`n` answers outstanding), `bs` being its bytes. -/
def gotTile (d : XDesc) (n : Nat) (bs : List Byte) : State :=
  withEngine { exXfer d with fetched := true, left := n, got := Memory.writeBytes [] 0 bs }
theorem witness_TransferEngines_tile : (withEngine (exXfer tilesXfer)).engine 0 = some (exXfer tilesXfer) ∧ tilesXfer.tiles = true
    ∧ tiles2.translate 0x41000 % 4096 = 0 ∧ (nextOf small (exec (.tileTransfer 0) (withEngine (exXfer tilesXfer)))).net.length = 17
    ∧ (∀ d ∈ [tilesXfer, { tilesXfer with flags := 6 }], (let s := { gotTile d 0 exTile with host := { linkUp := true } }
       ∃ x, s.engine 0 = some x ∧ x.fetched = true ∧ x.left = 0 ∧ hcrcOk (Memory.readBytes x.got 0 64) = true
        ∧ shapeOk (Cart.parse (Memory.readBytes x.got 0 64)) = true ∧ x.d.verify = true
        ∧ crc32c (Memory.readBytes x.got 64 (Cart.parse (Memory.readBytes x.got 0 64)).plen.toNat) = exCart.pcrc
        ∧ s.tileInk x (Cart.parse (Memory.readBytes x.got 0 64)) = .go ∧ s.xferInk x = d.dstHost)) :=
  ⟨by decide +kernel, by decide +kernel, by decide +kernel, by decide +kernel, fun d h => ⟨_, rfl, by revert d; decide +kernel⟩⟩
theorem witness_TransferEngines_bad : hcrcOk (Memory.readBytes (Memory.writeBytes [] 0 (1 :: exTile.tail)) 0 64) = false
    ∧ shapeOk (Cart.parse { exCart with cols := 0 }.bytes) = false ∧ hcrcOk { exCart with cols := 0 }.bytes = true ∧ crc32c [0x7E] ≠ exCart.pcrc := by
  decide +kernel
/-- A tile pencilled by this module's core 0 in epoch 1, towards an INK region: it waits, and ends once its epoch is dead. -/
theorem witness_TransferEngines_ink : ∀ d ∈ [[], [((1 : W32), (1 : W32))]], (let s : State := { (gotTile tilesXfer 0 (tileBytes ownPencil.bytes [0x7F])) with
      inks := [(0, { dead := d })] }
    let s := s.updMem fun m => { m with rgn0 := [(0, 0xF0)], rgn1 := [(0, 0x7FFFFFF000)] }
    let x : Xfer := { exXfer tilesXfer with fetched := true, got := Memory.writeBytes [] 0 (tileBytes ownPencil.bytes [0x7F]) }
    s.engine 0 = some x ∧ s.xferInk x = true ∧ hcrcOk (Memory.readBytes x.got 0 64) = true ∧ shapeOk ownPencil = true
    ∧ Cart.parse (Memory.readBytes x.got 0 64) = { ownPencil with hcrc := (Cart.parse (Memory.readBytes x.got 0 64)).hcrc } ∧ ownPencil.module = s.modId
    ∧ s.tileInk x (Cart.parse (Memory.readBytes x.got 0 64)) = (if d.isEmpty then .wait else .dead)) := by decide +kernel
theorem witness_TransferEngines_end : (let x := { exXfer tilesXfer with next := 1 }
    (withEngine x).engine 0 = some x ∧ x.d.count.toNat ≤ x.next ∧ x.left = 0 ∧ x.acks = 0 ∧ x.d.warr = false
    ∧ ({ tilesXfer with flags := 0xC } : XDesc).warr = true) := by decide +kernel

theorem witness_SoundRunsPassTheirCheck : exBank.cells = [] ∧ exBank.chk = [] ∧ exBank.kcnt = 0 ∧ exBank.pemax = 0x8000 ∧ exBank.intmode = false
    ∧ exBank.fixed = true ∧ exBank.cover = some true ∧ exRun.overflows = false ∧ exRun.kcnt ≠ 0xFFFFFFFF
    ∧ -8000 ≤ flog2 192 (-7) ∧ flog2 192 (-7) ≤ 8000 := by decide +kernel

/-! A covered read at core 0 that fails its check, and its triangulation at core 1. -/
def exBad : Bank := { exRun with cells := Sparse.upd {} exRun.cells 16 fun c => { c with acc := 112 } }
def exSnap (held : Bool) : Snap := { ab := 0, epoch := 1, bank := exBad, held := held }
def triState : State := { small with
  cores := [(0, { running with epoch := 1, snaps := [exSnap true] }), (1, { running with triHold := true })]
  parts := [(0, { cfg := 0xF003, tris := [⟨0, 1, 0, 1, some 1, none⟩] })] }
theorem witness_GraticuleAndTriangulation : (let s := at0 { running with snaps := [exSnap false] }
    s.rst.inReset = false ∧ s.svr.closed.contains (.core 0) = false ∧ s.partOf 0 = some 0
    ∧ (s.core 0).snaps.find? (fun y => !y.held) = some (exSnap false) ∧ (exSnap false).bank.checks = false ∧ exRun.checks = true ∧ exRun.intmode = false) := by
  decide +kernel
theorem witness_GraticuleAndTriangulation_rerun : triState.triFor 0 = some (0, ⟨0, 1, 0, 1, some 1, none⟩, exSnap true)
    ∧ (triState.core 1).stolen = none ∧ triState.svr.closed.contains (.core 1) = false ∧ triState.svr.quarantines.contains (.core 0) = false := by decide +kernel

def inkPk (kind pc pm : Nat) (e : W32) : Packet :=
  { typ := .ink, dst := 0, src := 0, arg := BitVec.ofNat 32 kind, ext := BitVec.ofNat 160 (pc + 2 ^ 16 * pm), epoch := e, msgid := 4 }
def exForeign : Foreign := { pmod := 9, pcore := 3, epoch := 1, covered := none, marks := [(1, 2)], isDead := none, again := false }
theorem witness_InkFrontiersAndQueries : ∀ kind, (at0 { running with foreign := [exForeign] }).arrive (inkPk kind 3 9 1)
      = some (at0 { running with foreign := [exForeign] }) := fun _ => State.arrive_external rfl rfl rfl
theorem witness_InkFrontiersAndQueries_packets : (inkPk 1 3 0 1).smod = small.modId ∧ coreExists 3 = true ∧ (inkPk 1 3 0 1).ext.toNat % 2 ^ 16 = 3
    ∧ (∀ kind ∈ [0, 1, 2, 3, 4, 5], (inkPk kind 3 9 1).arg.toNat % 256 = kind)
    ∧ BitVec.ofNat 15 ((inkPk 4 3 9 1).ext.toNat / 2 ^ 16) = exForeign.pmod ∧ (∀ d ∈ [exForeign], d.isDead = none) := by decide +kernel
def exBlocked : Core := { epoch := 3, frontier := 1, rangeFail := some 3 }
theorem witness_InkFrontiersAndQueries_blockers : exBlocked.blockers = [3] ∧ (exBlocked.epoch - exBlocked.frontier).toNat < 2 ^ 31
    ∧ 1 ≤ ((3 : W32) - exBlocked.frontier).toNat ∧ ((3 : W32) - exBlocked.frontier).toNat ≤ (exBlocked.epoch - exBlocked.frontier).toNat := by
  decide +kernel

/-! Smudges and commits: partition 0 is sheet 0, with a job of two modules and a STEP that runs. -/
def exJob : Job := { modules := 2, digest := 0, ports := [] }
def exStep : StepRun := ⟨5, 0, 7, 0, 0, 0, 0, 0, 1⟩
def jobState (x : Part) : State := { small with
  parts := [(0, { x with cfg := 0x3, job := some exJob, running := some exStep })], fab := { routes := [(9, 0x81)] }
  wps := [(5, { state := .complete })], cores := [(0, { running with epoch := 2, frontier := 1 })] }
def smudgePk (att : W32) : Packet := { typ := .smudge, dst := 0, src := 0xFFFF, arg := att, time := 5 }
theorem witness_SmudgeAndRestart : (let s := jobState {}
    s.forUs (smudgePk 0) = true ∧ s.rst.inReset = false ∧ s.net = [] ∧ (smudgePk 0).smod = s.modId ∧ s.sheetPart (sheetOf (smudgePk 0).dst.toNat) = some 0
    ∧ (s.part 0).job.isSome = true ∧ (s.part 0).smudging = none ∧ (s.part 0).committed = false ∧ (0 : Byte) = (s.part 0).attempt ∧ (1 : Byte) ≠ (s.part 0).attempt
    ∧ s.tick.toNat ≤ (smudgePk 0).time.toNat ∧ (s.part 0).tris = [] ∧ s.contexts 0 = []
    ∧ (s.part 0).hasCore 0 = true ∧ (s.core 0).run ≠ .off ∧ covers (s.core 0).frontier (s.core 0).epoch = false ∧ (s.part 0).hasCore 40 = false) := by
  decide +kernel
theorem witness_SmudgeAndRestart_engines : ∀ e, (jobState {}).engine e = none := fun _ => rfl
theorem witness_SmudgeAndRestart_restart : ((jobState { smudging := some ⟨0, true, false⟩ }).part 0).smudging = some ⟨0, true, false⟩
    ∧ 0 ≤ (jobState {}).tick.toNat ∧ (jobState {}).tick.toNat < 5
    ∧ (({ jobState {} with cores := [(0, { running with run := .stopStep })] } : State).core 0).run = .stopStep
    ∧ ((jobState { committed := true }).part 0).committed = true ∧ ((jobState { smudging := some ⟨0, false, false⟩ }).part 0).committed = false := by decide +kernel
/-- Every core below `n` has halted. -/
def halted (n : Nat) : State := { jobState { cwp := 5 } with cores := Sparse.tabulate {} n fun _ => { run := .halted } }
theorem halted_run (n : Nat) (c : CoreId) (h : c < n) : ((halted n).core c).run = .halted :=
  congrArg Core.run (Sparse.get_tabulate ({} : Core) (fun _ => ({ run := .halted } : Core)) n c h)
theorem hasCore_lt (x : Part) (c : CoreId) (h : x.hasCore c = true) : c < 65536 := by
  simp only [Part.hasCore, coreExists, coreY, Bool.and_eq_true] at h
  have h3 : c < 160 * 256 := (Nat.div_lt_iff_lt_mul (k := 256) (by decide)).1 (of_decide_eq_true h.1.2)
  exact Nat.lt_of_lt_of_le h3 (by decide)
theorem witness_VotesAndInkCommit : (let s := jobState { cwp := 5 }
    s.rst.inReset = false ∧ (s.part 0).job = some exJob ∧ (s.part 0).running = some exStep ∧ (s.part 0).voted = false ∧ (s.part 0).smudging = none
    ∧ (s.part 0).cwp ≠ 0xFFFF ∧ s.wpOk 0 5 = true ∧ (s.wp 5).state = .complete ∧ (s.otherModules 0).contains 9 = true) := by decide +kernel
theorem witness_VotesAndInkCommit_halted : ∀ c, ((halted 65536).part 0).hasCore c = true → ((halted 65536).core c).run = .halted :=
  fun c h => halted_run 65536 c (hasCore_lt _ c h)
theorem witness_VotesAndInkCommit_running : ∀ c, (small.core c).run ≠ .halted := fun _ => nofun
def votePk : Packet := { typ := .vote, dlocal := false, dmod := 0, smod := 9, time := 1, ext := BitVec.ofNat 160 7 }
theorem witness_VotesAndInkCommit_vote : (let s := jobState { voted := true, votes := [(0, 2)], ccell := 0x1000 }
    s.forUs votePk = true ∧ s.rst.inReset = false ∧ s.net = [] ∧ votePk.arg.toNat % 256 = (s.part 0).attempt.toNat ∧ votePk.ext.toNat % 2 ^ 32 = exStep.step.toNat
    ∧ (s.part 0).votes = [(0, 2)] ∧ (0 : BitVec 15) ≠ votePk.smod ∧ s.commitTick 0 = none
    ∧ (jobState { voted := true, votes := [(0, 2), (9, 1)], smdelay := 0 }).commitTick 0 = some 2
    ∧ (jobState {}).contexts 0 = [] ∧ spaceOf (s.translate 0x1000) = .memory ∧ s.memIsolated 0x1000 8 = false ∧ s.poisonIn 0x1000 8 = none) := by decide +kernel

/-! The fabric: port 3 is UP with a partner; flits of one packet. -/
def exFlit (k : FlitKind) (bs : List Byte) (nak : Bool) : Flit := ({ rxseq := 1, got := true, nakDue := nak } : Port).flit k 4 0 bs
def upPort (u : PortUse) : Port := { state := .up4, use := u, lanes := 0xF, fec := true, peer := 9, peerv := true, app400 := true
                                     replay := [exFlit .data [] false, { exFlit .data [] false with seq := 1 }], resends := [0, 0] }
/-- Module 9 lies behind port 7, on the other margin die. -/
def fabric (o : Port) : State := { jobState {} with fab := { routes := [(9, 0x87)], ports := [(3, o)] } }
theorem witness_PacketStreamRoundTrip : (let p : Packet := { pk .mdata with payload := List.replicate 100 7, len := 100 }
    p.payload.length ≤ 256 ∧ payloadSize p.typ p.len.toNat p.off.toNat ((p.payload.length + 63) / 64) = p.payload.length)
    ∧ (List.replicate 240 (1 : Byte)).length ≤ 240 := by decide +kernel
/-- A flit carries the end of a packet that has begun and a whole one that waits. -/
theorem witness_PacketStreamRoundTrip_send : (let s := (fabric { upPort .unused with tx := [(4, [1, 2])], credits := [(4, 1)], direct := [pk .mrts] }).sendData 3 4
    ((s.port 3).outq.map fun f => (f.used, f.first)) = [(66, 2)] ∧ (s.port 3).credit 4 = 0 ∧ (s.port 3).begun 4 = []) := by decide +kernel
/-- The packet in `f` is for this module, for module 9 over the other die, or reserved. -/
def toNine (t : PType) : Packet := { pk t with dlocal := false, dmod := 9, smod := 8 }
theorem witness_PortsFlitsAndCages : (∀ u ∈ [PortUse.unused, .dark], ∀ p ∈ [pk .mrts, pk .mer, toNine .mrts, toNine .rsv0E],
      let s := fabric (upPort u); let o := s.port 3; let f := exFlit .data (packetBytes p) true
      s.listens 3 = true ∧ f.fecOk = true ∧ f.kind = .data ∧ f.nak = true ∧ f.seq = o.rxseq ∧ o.rx = []
      ∧ flitData f = packetBytes p ∧ p.payload.length ≤ 256 ∧ payloadSize p.typ p.len.toNat p.off.toNat ((p.payload.length + 63) / 64) = p.payload.length
      ∧ (s.forUs p = true ∨ s.routePort p.dmod = some 7 ∧ dieOf 7 ≠ dieOf 3)
      ∧ f.ackv = true ∧ o.replay[0]?.map (·.seq) = some f.ack
      ∧ (o.acked f).replay ≠ [] ∧ (∀ k ∈ (o.acked f).resends, k < 16) ∧ o.state ≠ .degrading ∧ o.use ≠ .inUse)
    ∧ (exFlit .idle [] false).kind = .idle 
    ∧ (({ txseq := 1 } : Port).flit .data 4 0 []).seq ≠ (upPort .unused).rxseq ∧ (({ txseq := 1 } : Port).flit .data 4 0 []).ackv = false
    ∧ (∃ k ∈ ({ upPort .unused with resends := [0, 16] }.acked (exFlit .data [] true)).resends, 16 ≤ k)
    ∧ dieOf 1 = dieOf 3 ∧ (exFlit .ctrl [] false).kind ≠ .idle := by decide +kernel
theorem witness_PortsFlitsAndCages_checks (k : FlitKind) (bs : List Byte) (nak : Bool) : flitCrcOk (exFlit k bs nak) = true
    ∧ flitCrcOk { exFlit k bs nak with fcrc := (exFlit k bs nak).fcrc + 1 } = false := by
  have h : flitCrcOk (exFlit k bs nak) = true := flitCrcOk_flit ..
  refine ⟨h, ?_⟩
  simp only [flitCrcOk, beq_iff_eq] at h
  simp only [flitCrcOk, flitBytes_fcrc, beq_eq_false_iff_ne, ← h]
  intro h'
  exact absurd (congrArg (· - (exFlit k bs nak).fcrc) h') (by bv_omega)
/-- A closed router on the way between the two ports' places, and the answer to a packet that it stops. -/
theorem witness_PortsFlitsAndCages_closed : (let y := coreY (toNine .mrts).dst.toNat
    let s : State := { fabric (upPort .unused) with svr := { closed := [.core (fabricHome (dieOf 7) y)] } }
    s.cut (fabricHome (dieOf 3) y) (fabricHome (dieOf 7) y) = true ∧ (s.routeRefusal (toNine .mrts) rcIsolated).isSome = true) := by decide +kernel
theorem witness_PortsFlitsAndCages_loss : (fabric (upPort .inUse)).multiPart = some 0 ∧ ((fabric (upPort .inUse)).port 3).use = .inUse
    ∧ ((fabric (upPort .inUse)).port 3).linked = true ∧ (fabric (upPort .inUse)).rst.inReset = false
    ∧ ((fabric { upPort .unused with state := .degrading }).port 3).state = .degrading ∧ ((fabric {}).port 3).linked = false
    ∧ (upPort .unused).lanes.getLsbD 3 = true ∧ ({ upPort .unused with lanes := 3 } : Port).lanes.getLsbD 3 = false
    ∧ (let dead : BitVec 4 := (upPort .unused).deadLanes ||| BitVec.ofNat 4 (2 ^ 3); dead &&& 3 = 0 ∨ dead &&& 12 = 0)
    ∧ (let dead : BitVec 4 := ({ upPort .unused with deadLanes := 1 } : Port).deadLanes ||| BitVec.ofNat 4 (2 ^ 3); dead &&& 3 ≠ 0 ∧ dead &&& 12 ≠ 0) := by
  decide +kernel
theorem witness_PortsFlitsAndCages_training : (let o : Port := { upPort .unused with state := .training, replay := [] }
    (fabric o).svr.closed.contains (.port 3) = false ∧ o.fec = true ∧ o.state = .training ∧ o.streams = true ∧ o.room = true ∧ o.greets = true
    ∧ (true ≠ o.present) ∧ ({ o with powered := true } : Port).linked = false ∧ (netOf (pk .abort) (fabric o)).arrive (pk .abort) = some (fabric o)
    ∧ (fabric o).multiPart = some 0 ∧ (fabric o).attached = true ∧ small.attached = false
    ∧ (((pk .abort).smod, (pk .abort).msgid) : BitVec 15 × W32) ∉ (fabric o).fab.aborts)
    ∧ ({ upPort .unused with state := .degrading } : Port).greets = true := by decide +kernel
/-- The power that the cages keep to is met by a module of 18 W in port 3 at READY, whatever its CMIS read then gives up to 20 W. -/
def readyFabric (w : Nat) : State := { fabric { present := true, powered := true, watts := w } with rst := { phase := 8 } }
theorem witness_PortsFlitsAndCages_power : ∀ w ∈ [18, 20], ∀ k < 12, let u := readyFabric w
    (u.port k).powered = ((u.port k).present && u.rst.phase == 8 && decide ((u.port k).watts ≤ 20)
      && decide (((List.range (k + 1)).map fun i => if (u.port i).present then (u.port i).watts else 0).sum ≤ 180))
    ∧ ((u.port k).powered = false → (u.port k).cage = if (u.port k).present = true ∧ u.rst.phase = 8 then .unpowered else .empty) := by
  decide +kernel
/-- A module that comes is powered, one that goes loses its power. -/
theorem witness_PortsFlitsAndCages_presence : ((nextOf small (exec (.cagePresenceChange 3 false) (readyFabric 18))).port 3).powered = false
    ∧ ((nextOf small (exec (.cagePresenceChange 4 true) (readyFabric 18))).port 4).powered = true := by decide +kernel

/-! Collectives: partition 0, context 0, one group whose other module is 9. -/
def f32Cart : Cart := { exCart with fmt := fmtFp32, plen := 4, pcrc := crc32c [0, 0, 128, 63], step := 7 }
def f32Tile : List Byte := f32Cart.bytes ++ [0, 0, 128, 63]
def exColl : CDesc := { op := opMax, scope := 0, policy := polWait, agree := false, lp32 := false, replay := false, tiles := 1, lcnt := 1, rdatum := 0
                        gbase := 0, gcount := 1, deadline := 0, work := 0x100000, out := 0x200000, carry := 0, carrylen := 0, wpout := 5, wpfree := 6
                        tensor := 0, ofmt := 0 }
def collHead : List Byte := [1, 0, 1, 0, 1, 0, 0, 0, 0, 0, 1, 0, 0, 0, 0, 0] ++ leBytes 8 0x100000 ++ leBytes 8 0x200000 ++ leBytes 8 0
  ++ leBytes 4 0 ++ leBytes 2 5 ++ leBytes 2 6 ++ List.replicate 12 0
def collBytes : List Byte := collHead ++ leBytes 4 (crc32c collHead).toNat
/-- The group's entry: the root, or below module `up`, with one module or none below it. -/
def grpBytes (up : Option Nat) (kid : Option Nat) : List Byte :=
  (match up with | none => [0, 0x80] | some m => [BitVec.ofNat 8 m, 0]) ++ [if kid.isSome then 1 else 0] ++ [0, 0, 0, 0, 0, 2, 0, 0, 0, 0, 0, 0, 0]
  ++ [BitVec.ofNat 8 (kid.getD 0), 0] ++ List.replicate 14 0
def collOf (up kid : Option Nat) (k : Coll) : State := { dev 0 with
  parts := [(0, { cfg := 0xF003, job := some exJob, gtab := 0x300000, ctab := 0x310000 })]
  fab := { routes := [(9, 0x81)], colls := [(0, k)] }
  mem := { (dev 0).mem with bytes := Memory.writeBytes (Memory.writeBytes [] 0x300000 (grpBytes up kid)) 0x310000 collBytes } }
/-- The root above module 9, or a leaf under it. -/
def collS (root : Bool) (k : Coll) : State := if root then collOf none (some 9) k else collOf (some 9) none k
def exLocal : CTile := { step := 7, idx := 0, src := 0, count := 1, late := false, bytes := f32Tile }
def openK : Coll := { opn := true, step := 7, desc := some exColl }
/-- The contribution stands in its slot. -/
def inSlot (s : State) : State := (s.slotWrite 0 0x100000 f32Tile).getD s
def ctxPk : Packet := { typ := .mdata, edge := 4, dst := 0xFF00, src := 0, last := true, payload := f32Tile }
def fromNine (typ : PType) (count : Nat) : Packet :=
  { typ := typ, edge := 4, dlocal := false, dst := 0xFF00, src := 0xFF00, smod := 9, ext := extOf (7 * 2 ^ 32 + count * 2 ^ 64) }

theorem witness_CollectiveSumIsOrderFree : [exLocal, { exLocal with src := 9 }].Perm [{ exLocal with src := 9 }, exLocal]
    ∧ (laneZero.beyond 64 = false ∧ 1 ≤ [exLocal].length ∧ [exLocal].length ≤ 2 ^ (64 - 2)) := ⟨List.Perm.swap _ _ _, by decide +kernel⟩
theorem witness_CollectiveSumIsOrderFree_bound : ∀ t ∈ [exLocal], ∀ neg m e, Machine.Num.fin neg m e ∈ t.vals → m ≠ 0 → flog2 m e ≤ 0 := by
  have h : exLocal.vals = [.fin false (2 ^ 23) (-23)] := by decide +kernel
  intro t ht neg m e hm _
  rw [List.mem_singleton.1 ht, h, List.mem_singleton] at hm
  cases hm
  decide +kernel

theorem witness_CollectiveInstances_opening : (let s := collS true {}
    s.engineOn 0 0 = true ∧ s.openCount 0 < 128 ∧ CDesc.parse collBytes = exColl ∧ s.badRecord 0 0 exColl = none ∧ (s.coll 0 0).fresh = true
    ∧ (match s.unitRead (s.translate 0x310000) 64 with | .bytes bs => bs == collBytes | _ => false) = true
    ∧ (∀ g ∈ exColl.groups, (s.grp 0 g).nchild ≤ 8)
    ∧ (match s.openColl 0 0 7 with | .ok v => (v.coll 0 0).desc == some exColl | _ => false) = true
    ∧ (match ({ s with parts := [(0, { cfg := 0xF003, job := some exJob, ctab := 0x300000 })] } : State).openColl 0 0 7 with
       | .fault c => c == .descFormat | _ => false) = true
    ∧ field (List.replicate 64 0) 0x3C 4 ≠ (crc32c ((List.replicate 64 (0 : Byte)).take 60)).toNat) := by decide +kernel
theorem witness_CollectiveInstances_contribution : (let s := netOf ctxPk (collS true openK); let k := s.coll 0 0
    s.partOf 0 = some 0 ∧ s.ctxMessage 0 0 = some [ctxPk] ∧ [ctxPk].flatMap (·.payload) = f32Tile ∧ ctxPk.warr = false
    ∧ k.opn = true ∧ k.step = exLocal.step ∧ k.desc = some exColl ∧ k.refuses exColl false exLocal = none ∧ exLocal.cart.pencil = false
    ∧ exColl.agree = false ∧ k.repeated = [] ∧ (s.slotWrite 0 (exColl.slotAt 0) f32Tile).isSome = true
    ∧ k.refuses { exColl with tiles := 0 } false exLocal = some .descFormat
    ∧ ({ openK with step := 6 } : Coll).step.toNat < exLocal.step.toNat) := by decide +kernel
/-- A partial before the fence, one of a later step, and late ones: dropped, carried, and past 64 carried ones. -/
theorem witness_CollectiveInstances_partial : (let s := collS true openK; let p := fromNine .cpart 1; let t := tileOf p f32Tile
    (s.collArrival 0 p .cpart).isSome = true ∧ ctxOf p = 0 ∧ s.sameAttempt 0 p = true ∧ openK.step = stepOf p
    ∧ (s.grp 0 (exColl.groupOf t.idx)).kids.contains p.smod = true ∧ t.idx < exColl.tiles ∧ openK.listed = [] ∧ t.count ≠ 0
    ∧ openK.fenced = false ∧ exColl.policy = polWait ∧ s.deadlinePast openK exColl = false ∧ exColl.op ≠ opSum
    ∧ openK.refuses exColl true t = none ∧ t.cart.pencil = false ∧ exColl.replay = false
    ∧ useCheck (f32Tile.take 64) (exColl.needs true) (fun n => crc32c ((f32Tile.drop 64).take n)) = none
    ∧ (s.slotWrite 0 (exColl.carryAt 0) f32Tile).isSome = true ∧ (s.logCarry 0 exColl t).isSome = true ∧ s.carryOk 0 exColl = true
    ∧ s.sameAttempt 0 { p with ext := extOf (2 ^ 8 + 7 * 2 ^ 32) } = false ∧ 64 ≤ (List.replicate 64 t).length
    ∧ ({ openK with step := 6 } : Coll).step.toNat < (stepOf p).toNat ∧ ((collOf none none openK).grp 0 0).kids.contains p.smod = false) := by decide +kernel
theorem witness_CollectiveInstances_log : (let s := collS true openK; let d := { exColl with carry := 0x400000, carrylen := 1 }
    d.carry ≠ 0 ∧ field (s.tableBytes d.carry 4) 0 4 < d.carrylen ∧ spaceOf (s.translate d.carry) = .memory ∧ d.carrylen < 2 ^ 32
    ∧ spaceOf (s.translate d.carry + 64) = .memory ∧ s.memIsolated 0x400000 4 = false ∧ s.memIsolated 0x400040 32 = false
    ∧ s.poisonIn 0x400000 4 = none ∧ s.poisonIn 0x400040 32 = none ∧ ({ d with carrylen := 0 } : CDesc).carrylen ≤ 0) := by decide +kernel
def sumDesc : CDesc := { exColl with op := opSum, agree := true, ofmt := 12 }
def sumK : Coll := { openK with desc := some sumDesc, locals := [exLocal] }
theorem witness_CollectiveInstances_agree : ∀ typ ∈ [PType.cagr, .cagd, .crep],
    ((collS true sumK).collArrival 0 (fromNine typ 0) typ).isSome = true ∧ ((collS false sumK).collArrival 0 (fromNine typ 0) typ).isSome = true
    ∧ ctxOf (fromNine typ 0) = 0 ∧ (collS true sumK).sameAttempt 0 (fromNine typ 0) = true ∧ sumDesc.groups = [0]
    ∧ collCount (fromNine typ 0) = 0 ∧ sumDesc.lcnt ≤ sumK.locals.length ∧ ((collS true sumK).grp 0 0).kids = [9] ∧ ((collS true sumK).grp 0 0).root = true
    ∧ ((collS false sumK).grp 0 0).parent = 9 ∧ ((collS false sumK).grp 0 0).root = false ∧ sumK.floors = [] ∧ sumK.agrees = [] ∧ sumK.agreedSent = []
    ∧ ((collOf (some 8) (some 9) sumK).grp 0 0).kids = [9] ∧ ((collOf (some 8) (some 9) sumK).grp 0 0).root = false
    ∧ ((collOf (some 9) (some 8) sumK).grp 0 0).kids ≠ [] ∧ ((collOf (some 9) (some 8) sumK).grp 0 0).parent = 9 ∧ sumDesc.op ≠ opRing
    ∧ ({ sumK with datums := [(0, 0)] } : Coll).datumOf sumDesc 0 = some (datumOfPacket (fromNine typ 0))
    ∧ ({ sumK with repeated := [0] } : Coll).repeated.contains (collCount (fromNine typ 0)) = true ∧ sumK.step = stepOf (fromNine typ 0) := by decide +kernel
/-- A leaf whose own contribution is there, a root with its child's partial too, and a root that still waits. -/
theorem witness_CollectiveInstances_fence : (let k : Coll := { openK with locals := [exLocal] }
    (let s := inSlot (collS false k)
     s.fenceDue 0 0 = true ∧ k.formed = [] ∧ k.failed = false ∧ k.written = [] ∧ exColl.scope = 0 ∧ 0 < exColl.tiles ∧ 0 < exColl.gcount
     ∧ (s.grp 0 0).root = false ∧ s.sumFault 0 0 exColl 0 = none ∧ (s.formTile 0 0 exColl false 0 0).2.2 = false)
    ∧ (let s := inSlot (collS true { k with partials := [{ exLocal with src := 9 }] })
       s.fenceDue 0 0 = true ∧ (s.grp 0 0).root = true ∧ s.overlayOn 0 = false ∧ s.wpOk 0 5 = true ∧ k.recording = none ∧ k.held = []
       ∧ s.sumFault 0 0 exColl 0 = none
       ∧ (s.formTile 0 0 exColl true 0 0).2.2 = false ∧ (s.slotWrite 0 (exColl.outAt 0) (s.formTile 0 0 exColl true 0 0).1).isSome = true)
    ∧ ((collS false k).fenceDue 0 0 = true ∧ ((collS false k).sumFault 0 0 exColl 0).isSome = true)
    ∧ (9 : BitVec 15) ∈ ((collS true k).grp 0 0).kids ∧ openK.locals.length < exColl.lcnt) := by decide +kernel
/-- A result while the instance waits at its fence, before the fence, and before the instance is open. -/
theorem witness_CollectiveInstances_result : (∀ f, let k : Coll := { openK with locals := [exLocal], formed := [0], fenced := f }
    let s := collS false k; let p := fromNine .cres 2
    (s.collArrival 0 p .cres).isSome = true ∧ ctxOf p = 0 ∧ s.sameAttempt 0 p = true ∧ k.step = stepOf p ∧ (s.grp 0 0).parent = p.smod
    ∧ (s.grp 0 0).root = false ∧ exColl.op ≠ opGather ∧ k.recording = none ∧ k.failed = false ∧ k.held = [] ∧ s.overlayOn 0 = false ∧ s.wpOk 0 5 = true
    ∧ idxOf p < exColl.tiles ∧ idxOf p ∉ k.written ∧ k.unwritten = [] ∧ (s.slotWrite 0 (exColl.outAt 0) f32Tile).isSome = true
    ∧ (({ s with mer := { count := 5 } } : State).tick - k.opened).toNat < 6)
    ∧ (let s := collS false {}; let p := fromNine .cres 2; let k := s.coll 0 0
       (s.collArrival 0 p .cres).isSome = true ∧ s.sameAttempt 0 p = true ∧ k.opn = false ∧ k.delivered = false ∧ k.lastStep = none
       ∧ s.overlayOn 0 = false
       ∧ (match s.openColl 0 0 (stepOf p) with
          | .ok v => (v.coll 0 0).desc == some exColl && (v.slotWrite 0 (exColl.outAt (idxOf p)) f32Tile).isSome | _ => false) = true) := by decide +kernel

def exRing : CDesc := { exColl with op := opRing }
theorem witness_RingPass : (let k : Coll := { openK with desc := some exRing, locals := [exLocal] }; let s := collS true k
    s.engineOn 0 0 = true ∧ exRing.tiles ≤ k.locals.length ∧ k.ownSent = false ∧ k.fwd = [] ∧ 0 < k.credits ∧ k.round = 0
    ∧ 2 ≤ (s.grp 0 0).members ∧ k.round + 1 < (s.grp 0 0).members ∧ [f32Tile].length = exRing.tiles ∧ k.bufFree0 = true ∧ k.held = []
    ∧ s.wpOk 0 5 = true ∧ ((s.ringTake 0 9 7 1).ringLand 0 exRing 0 [f32Tile]).isSome = true
    ∧ (s.collArrival 0 (fromNine .rcred 0) .rcred).isSome = true ∧ s.sameAttempt 0 (fromNine .rcred 0) = true
    ∧ ({ k with bufFree0 := false, released := [0] } : Coll).released = [0] ∧ (s.part 0).job.isSome = true) := by decide +kernel
/-- Buffer 0's arming stands, and WPFREE completes. -/
theorem witness_RingPass_arming : (let s : State := { collS true { openK with desc := some exRing, arms := [0], bufFree0 := false } with
      wps := [(6, { state := .armed, count := 1, target := 1 })] }
    s.fab.colls.wf {} = true ∧ (s.coll 0 0).arms = [0] ∧ s.sheetPart (wpHome exRing.wpfree.toNat) = some 0 ∧ (s.wp exRing.wpfree.toNat).completes = true
    ∧ ((s.completion exRing.wpfree.toNat).coll 0 0).released = [0]) := by decide +kernel

/-! Meridian time. -/
theorem witness_MeridianLaunchAndOverlay : (let s := exFollower
    s.rst.inReset = false ∧ s.mer.role = roleLink ∧ exTrsp.arg.toNat % 256 = 2 ∧ s.mer.treqSent = some 6000000
    ∧ 600 < ({ s.mer with theta := -601 } : Meridian).theta.natAbs ∧ s.attached = false ∧ boarded.attached = true
    ∧ s.mer.lock = .locked ∧ s.forUs { exTrsp with arg := 1 } = true ∧ (2 ≤ roleLink.toNat) ∧ (roleEdge ≠ roleLink)) := by decide +kernel
/-- UPPORT up towards a module and towards a forwarder, the reference's port on the board, and the port that a response crossed. -/
theorem witness_MeridianLaunchAndOverlay_link : (let s : State := { exFollower with fab := { ports := [(0, { state := .up4, peer := 9, peerv := true }), (1, { state := .up4, peer := 2, peerv := true })] } }
    (s.port s.mer.upport.toNat).up = true ∧ (s.port s.mer.upport.toNat).pkind = 0 ∧ ((exFollower).port 0).up = false
    ∧ s.arrive exTrsp = some { s with net := [] } ∧ (s.crossed exTrsp 0).1 = s.mer.upport.toNat ∧ (s.crossed exTrsp 3).1 ≠ s.mer.upport.toNat
    ∧ (s.updMer fun m => { m with arrived := [(exTrsp, 4, 8)] }).crossed exTrsp 0 = (4, 8)
    ∧ (s.port 1).peerv = true ∧ (s.port 1).pkind = 0 ∧ (s.port 1).peer.toNat / 8 = s.modId.toNat / 8 ∧ (s.port 1).peer ≠ s.modId
    ∧ s.routePort (s.port 1).peer = none ∧ s.directPort (s.port 1).peer = some 1
    ∧ ({ s with fab := { s.fab with routes := [(2, 0x81)] } } : State).routePort 2 = some 1) := by decide +kernel
theorem witness_MeridianLaunchAndOverlay_edge : (let s : State := { small with mer := { role := roleEdge, latches := [6000000] } }
    let p : Packet := { typ := .mer, arg := 3, smod := s.boardPeer s.mer.bref.toNat, time := 1000000 }
    s.arrive p = some s ∧ s.mer.latches.find? (fun l => decide ((l - (6 * (p.time.toNat : Int) + extField p 0x2C 1)).natAbs ≤ 150000)) = some 6000000
    ∧ s.mer.latches.find? (fun l => decide ((l - 5000000).natAbs ≤ 150000)) = none) := by
  refine ⟨State.arrive_external rfl rfl rfl, by decide +kernel⟩
theorem witness_MeridianLaunchAndOverlay_launch : (let x : Part := { cfg := 0xF003, lstate := .pending, launch := 10000 }
    let s : State := { small with parts := [(0, x)] }
    s.tick.toNat + 10000 ≤ x.launch.toNat ∧ s.tick.toNat < x.launch.toNat ∧ s.tick.toNat + 50000 ≤ (50000 : W64).toNat
    ∧ x.launch.toNat ≤ ({ s with mer := { count := 10000 } } : State).tick.toNat ∧ x.hasCore 0x9F9F = true
    ∧ s.svr.closed.contains (.core 0x9F9F) = false) := by decide +kernel
def exRec : OvlRec := ⟨7, 0, 3, 4, 5⟩
def exDig : OvlDig := ⟨7, 0, 1, 9⟩
def overlaid (peer : List OvlDig) : State := { jobState {} with
  parts := [(0, { cfg := 0x3, job := some exJob, running := some exStep, ovlCfg := 0x90001 })]
  host := { funcs := [(0, { inForce := 0xFFF })] }, cores := [(0, { running with ovl := { ord := 1, recs := [exRec], mine := [exDig], peer := peer } })] }
def ovlPk (typ : PType) (d : OvlDig) : Packet :=
  { typ := typ, smod := 9, dlocal := false, ext := extOf (d.step.toNat + 2 ^ 32 * d.block + 2 ^ 64 * d.count + 2 ^ 96 * d.digest.toNat), payload := exRec.bytes }
theorem witness_MeridianLaunchAndOverlay_digest : (let s := overlaid []; let p := ovlPk .ovd exDig
    s.forUs p = true ∧ s.rst.inReset = false ∧ s.net = [] ∧ s.overlayOn 0 = true ∧ p.smod = s.ovlPeer 0 ∧ (s.ovl 0 0).peer = []
    ∧ (s.ovl 0 0).mine = [ovlDigOf p] ∧ exDig ≠ { exDig with digest := 8 } ∧ exDig.step ≠ ({ exDig with step := 8 } : OvlDig).step
    ∧ ((s.ovl 0 0).recs.filter fun r => r.ordinal / 64 == 0).length ≤ 64
    ∧ 16 * 0 < (ovlPk .ovr exDig).payload.length ∧ (ovlPk .ovr exDig).payload.length % 16 = 0
    ∧ exRec.key = ((ovlPk .ovr exDig).payload.drop 0).take 8 ∧ ({ exRec with pcrc := 1 } : OvlRec).key ≠ exRec.key) := by decide +kernel

/-! Host queues: queue 5 of Function 0 runs with one command accepted and one at HEAD. -/
def exCmd (kind : Byte) (args : List Byte) : Cmd := { kind := kind, flags := 0, part := 0, rsv := [], seq := 0, args := args }
def hostS (x : Part) (u : Queue) (mem : Memory) : State := { dev 0 with
  parts := [(0, { x with cfg := 0xF003 })]
  rst := { phase := 8 }
  host := { linkUp := true, queues := [(5, u)], mem := mem, funcs := [(0, { inForce := 0xFFF, mstate := 2 })] }
  svr := { idrom := exIdrom, lValid := true } }
def exQueue (cs : List Cmd) : Queue := { en := true, state := .running, tail := 1, jbase := 0x8000, accepted := cs, ahead := 3, logsz := 0 }
theorem witness_JournalRecords : (let s := hostS {} (exQueue [exCmd 0 [], exCmd 0 []]) []; let u := s.queue 5
    u.logsz.toNat ≤ 10 ∧ (List.replicate 32 (0 : Byte)).length = 32 ∧ u.jcount < 2 ^ (u.logsz.toNat + 7) ∧ u.records = [] ∧ s.host.linkUp = true
    ∧ u.jtail.toNat < 128 ∧ u.accepted = exCmd 0 [] :: [exCmd 0 []] ∧ u.state = .running ∧ u.jcount + 1 < 128 ∧ u.jtail.toNat + 1 < 128
    ∧ (exCmd 0 [1]).early = some (.fault .descFormat) ∧ FCode.isolated.cls = .job) := by decide +kernel
theorem witness_JournalRecords_full : (∀ p < 16, ((hostS {} (exQueue []) []).part p).ended = none) ∧ ({ exQueue [] with jcount := 128, records := [[]] } : Queue).jcount = 2 ^ (0 + 7)
    ∧ (let u : Queue := { exQueue [] with jcount := 1 }; u.jcount < ((2 : W64).toNat % 2 ^ 17 % 128 + 128 - u.jhead.toNat % 128) % 128
        ∧ ((1 : W64).toNat % 2 ^ 17 % 128 + 128 - u.jhead.toNat % 128) % 128 ≤ u.jcount) := by decide +kernel
theorem witness_CommandQueues : (let s := hostS {} (exQueue []) []; let u := s.queue 5
    s.rst.inReset = false ∧ s.host.linkUp = true ∧ s.svr.closed.contains .queueFrontEnd = false ∧ u.state = .running
    ∧ u.head.toNat % 2 ^ (u.logsz.toNat + 6) ≠ u.tail.toNat % 2 ^ (u.logsz.toNat + 6) ∧ u.accepted.length < u.ahead.toNat + 1
    ∧ u.records = [] ∧ u.jcount < 2 ^ (u.logsz.toNat + 7) ∧ (s.headCmd 5).seq = u.nextseq
    ∧ (s.headCmd 5).seq ≠ ({ u with nextseq := 1 } : Queue).nextseq ∧ (s.headCmd 5).early = none) := by decide +kernel
theorem witness_CommandQueues_front : ∀ k ∈ [0, 4, 5, 6], (let c := exCmd (BitVec.ofNat 8 k) (List.replicate 48 0)
    (hostS {} (exQueue [c]) []).front 5 k = some c ∧ c.arg 0x10 2 < 256 ∧ c.arg 0x10 8 % 64 = 0) := by decide +kernel
theorem witness_CommandQueues_waitq : (let s := hostS {} { exQueue [] with done := some 3 } []
    (s.queue 5).done = some 3 ∧ (exCmd 5 (leBytes 8 5 ++ leBytes 8 3)).arg 0x18 8 ≤ (3 : W64).toNat
    ∧ (exCmd 5 (leBytes 8 256)).arg 0x10 2 = 256 ∧ (exCmd 4 (leBytes 8 32)).arg 0x10 8 % 64 ≠ 0) := by decide +kernel
/-- A commit cell in an INK region of the partition. -/
def celled (v : Nat) : State := { hostS { ccell := 0x1000 } (exQueue [exCmd 6 (leBytes 4 3)]) [] with
  mem := { rgn0 := [(0, 0xF0)], rgn1 := [(0, 0x7FFFFFF000)], bytes := Memory.writeBytes [] 0x1000 (leBytes 8 v) } }
theorem witness_CommandQueues_advance : (let s := celled (2 ^ 33 + 1); let x := s.part 0
    x.job = none ∧ x.ccell ≠ 0 ∧ s.cellOk 0 0x1000 = true ∧ spaceOf (s.translate 0x1000) = .memory ∧ s.memIsolated 0x1000 8 = false
    ∧ s.poisonIn 0x1000 8 = none ∧ (exCmd 6 (leBytes 4 3)).arg 0x10 4 = s.mem.bytes.readLE 0x1000 8 / 2 ^ 32 + 1
    ∧ (exCmd 6 (leBytes 4 2)).arg 0x10 4 = s.mem.bytes.readLE 0x1000 8 / 2 ^ 32 ∧ s.cellOk 0 0x8000000000 = false) := by decide +kernel
theorem witness_CommandQueues_enable : (let s := hostS {} { exQueue [] with en := false } []
    (s.queue 5).en = false ∧ s.rst.phase = 8 ∧ (s.func (s.queue 5).func.toNat).mstate = 2 ∧ (s.queue 5).func = 0
    ∧ (s.func 1).mstate ≠ 2 ∧ (exCmd 0 []).started = false ∧ (exQueue []).accepted = [] ∧ (exQueue []).en = true) := by decide +kernel

/-- An ATTACH whose plan is at host address 0x2000: `n` modules, port 0 expected to lead to module 9. -/
def attachCmd : Cmd := exCmd 1 (leBytes 8 0x2000)
def planMem (n kind : Nat) : Memory := Memory.writeBytes [] 0x2000 (leBytes 8 77 ++ leBytes 4 n ++ leBytes 4 0 ++ [BitVec.ofNat 8 kind, 1, 0, 0, 9, 0])
def attachS (n kind : Nat) (x : Part) : State := { hostS x (exQueue [attachCmd]) (planMem n kind) with
  fab := { ports := [(0, { upPort .unused with pkind := 0, peerport := 0 })] } }
theorem witness_JobsAndSteps_attach : (let s := attachS 1 0 {}; let x := s.part 0; let us := s.outcomes (planPorts (s.host.mem.readBytes 0x2000 0x70))
    s.front 5 1 = some attachCmd ∧ s.cmdPart 5 attachCmd = 0 ∧ x.attaching = none ∧ s.host.linkUp = true ∧ s.serviceFirst x = false
    ∧ attachCmd.arg 0x10 8 = 0x2000 ∧ field (s.host.mem.readBytes 0x2000 0x70) 8 4 = 1
    ∧ x.job = none ∧ x.en = true ∧ s.svr.dbgLevel ≠ 2 ∧ s.outOfService x = false ∧ .mismatched ∉ us ∧ x.ccell = 0
    ∧ ({ s with svr := { s.svr with stackout := 1 } } : State).outOfService x = true) := by decide +kernel
/-- Plans of no module and of too many, and a plan of a virtual function's queue. -/
theorem witness_JobsAndSteps_modules : field ((attachS 0 0 {}).host.mem.readBytes 0x2000 0x70) 8 4 = 0
    ∧ field ((attachS 32769 0 {}).host.mem.readBytes 0x2000 0x70) 8 4 = 32769
    ∧ (let s := hostS {} { exQueue [attachCmd] with func := 1 } (planMem 2 0)
       s.front 5 1 = some attachCmd ∧ s.cmdPart 5 attachCmd = 0 ∧ s.serviceFirst (s.part 0) = false ∧ (s.queue 5).func ≠ 0
       ∧ field (s.host.mem.readBytes 0x2000 0x70) 8 4 = 2) := by decide +kernel
theorem witness_JobsAndSteps_cell : (let s := { celled (2 ^ 33 + 1) with host := (attachS 1 0 {}).host }; let x := s.part 0
    s.front 5 1 = some attachCmd ∧ x.ccell ≠ 0 ∧ s.cellOk 0 x.ccell.toNat = true ∧ spaceOf (s.translate x.ccell.toNat) = .memory
    ∧ s.memIsolated 0x1000 8 = false ∧ s.poisonIn 0x1000 8 = none ∧ (attachS 1 0 { ccell := 0x1000 }).cellOk 0 0x1000 = false) := by decide +kernel
theorem witness_JobsAndSteps_ports : (let us := fun k => (attachS 2 k {}).outcomes (planPorts ((attachS 2 k {}).host.mem.readBytes 0x2000 0x70))
    us 0 = .dark :: List.replicate 11 .unused ∧ us 1 = .inUse :: List.replicate 11 .unused ∧ us 2 = .mismatched :: List.replicate 11 .unused) := by
  decide +kernel
theorem witness_JobsAndSteps_multi : (let s := attachS 2 1 {}
    1 < field (s.host.mem.readBytes 0x2000 0x70) 8 4 ∧ (s.queue 5).func = 0 ∧ s.feature featFabric = true ∧ s.svr.lEepromBad = false
    ∧ s.svr.lValid = true ∧ (∀ k < 16, (s.part k).multi = false) ∧ s.fab.attachRx = []
    ∧ (s.setUses [.inUse]).attachPeers = [9] ∧ small.feature featFabric = false) := by decide +kernel
def exAttaching : Attaching := ⟨5, { exJob with digest := 77 }, [9]⟩
def attachPk (digest : Nat) : Packet := { typ := .attach, smod := 9, dlocal := false, ext := BitVec.ofNat 160 digest }
theorem witness_JobsAndSteps_exchange : (let s := attachS 2 1 { attaching := some exAttaching }
    s.forUs (attachPk 77) = true ∧ s.net = [] ∧ s.exchanging = some 0 ∧ (s.part 0).attaching = some exAttaching
    ∧ BitVec.ofNat 64 (extField (attachPk 77) 0x2C 8) = exAttaching.job.digest ∧ (attachPk 77).arg.getLsbD 0 = false
    ∧ BitVec.ofNat 64 (extField (attachPk 78) 0x2C 8) ≠ exAttaching.job.digest ∧ exAttaching.awaited.contains 9 = true
    ∧ s.mer.lock = .locked ∧ (s.part 0).ccell = 0 ∧ ({ s.mer with lock := .acquiring, role := roleLink } : Meridian).role ≠ roleRoot) := by decide +kernel
def stepCmd (step entry tick : Nat) : Cmd := exCmd 3 (leBytes 4 step ++ leBytes 4 entry ++ leBytes 8 tick ++ List.replicate 32 0)
theorem witness_JobsAndSteps_step : (let c := stepCmd 1 8 50000; let s := hostS { job := some exJob } (exQueue [c]) []; let x := s.part 0; let r := c.stepRun 5
    s.front 5 3 = some c ∧ x.running = none ∧ x.job = some exJob ∧ r.rlen = 0 ∧ r.step.toNat = x.commitStep.toNat + 1 ∧ r.entry.toNat % 4 = 0
    ∧ r.tick ≠ 0 ∧ s.tick.toNat + 50000 ≤ r.tick.toNat ∧ x.lstate ≠ .pending ∧ ((stepCmd 0 0 0).stepRun 5).step ≤ x.commitStep
    ∧ ((stepCmd 1 2 0).stepRun 5).entry.toNat % 4 ≠ 0 ∧ ((stepCmd 1 0 0).stepRun 5).tick = 0 ∧ exJob.modules ≠ 1
    ∧ x.ended = none ∧ ({ x with running := some r } : Part).running ≠ none ∧ ({ x with ended := some (5, 0) } : Part).ended ≠ none
    ∧ ({ x with lstate := .pending } : Part).lstate = .pending ∧ s.inInk 0 0 1 = false
    ∧ s.front 5 2 = none ∧ (hostS { job := some exJob } (exQueue [exCmd 2 []]) []).front 5 2 = some (exCmd 2 [])) := by decide +kernel

theorem witness_EventsAndHostAccess : (let s : State := { hostS {} (exQueue []) [] with host := { linkUp := true, funcs := [(1, { elog := 6, evBase := 0x4000 })] } }
    let x := s.func 1; let f : Func := { x with lost := 2 }
    s.rst.inReset = false ∧ x.elog.toNat ≤ 16 ∧ s.host.linkUp = true ∧ x.lost = 0 ∧ x.elog ≠ 0 ∧ x.evCount < 2 ^ x.elog.toNat
    ∧ x.evTail.toNat < 2 ^ x.elog.toNat ∧ ({ x with evCount := 64 } : Func).evCount = 2 ^ x.elog.toNat ∧ f.lost ≠ 0
    ∧ s.queueOn 1 = false ∧ x.mstate ≠ 1 ∧ s.rst.phase.toNat = 8
    ∧ (let c := ((1 : W64).toNat % 2 ^ 16 % 64 + 64 - x.evHead.toNat % 64) % 64; c ≤ ({ x with evCount := 1 } : Func).evCount ∧ 0 < c ∧ x.evCount < c)) := by
  decide +kernel
theorem witness_EventsAndHostAccess_link : small.host.linkOn = false
    ∧ ({ small with host := { linkOn := true } } : State).host.linkUp = false := by decide +kernel
theorem witness_EventsAndHostAccess_bar : (let s := { hostS {} (exQueue []) [] with
      host := { linkUp := true, numVfs := 1, wlog := 30, funcs := [(1, { wbase := 0x1000 })] } }
    s.vfOn 1 = true ∧ s.rst.phase = 8 ∧ s.translate 0x1008 + 8 ≤ memTop ∧ 8 + 8 ≤ 2 ^ s.host.wlog.toNat ∧ s.permits 0 true 0x1008 8 = true
    ∧ s.permits 0 false 0x1008 8 = true ∧ s.memIsolated 0x1008 8 = false ∧ s.poisonIn 0x1008 8 = none ∧ s.vfOn 2 = false
    ∧ ¬ 2 ^ 30 + 8 ≤ 2 ^ s.host.wlog.toNat ∧ small.host.linkUp = false ∧ small.rst.phase ≠ 8) := by decide +kernel

theorem witness_ResetEpisodes : (let r := small.rst; let on : Rst := { r with episodeOn := true, inReset := true, resetNDrive := true }
    r.islandOn = true ∧ r.resetNDrive = false ∧ r.episodeOn = false ∧ r.inReset = false ∧ r.powerOn = false ∧ r.tripDrive = false
    ∧ small.svr.pairStopped = false ∧ r.pll = true ∧ r.vinLow = false ∧ on.inReset = true ∧ on.episodeOn = true ∧ on.epEntry = true
    ∧ ({ on with resetNDrive := false } : Rst).resetNDrive = false ∧ ({ on with powerOn := true } : Rst).powerOn = true
    ∧ ({ r with vinLow := true } : Rst).vinLow = true
    ∧ ({ r with islandOn := false, epEntry := false } : Rst).epEntry = false ∧ r.deferred = false ∧ r.nvWant = none) := by decide +kernel
/-- NV pulses: one that runs, one cut short by a reset, one when NV writes are blocked, the commit pulse, and a record that waits. -/
def pulsing : Rst := { small.rst with nvPulse := true, nvCur := some { small.mram with svnFused := 1 }, nvWant := some { small.mram with svnFused := 1 } }
def newer : Mram := { small.mram with imageA := some ⟨1, 0, [], []⟩ }
theorem witness_ResetEpisodes_nv : pulsing.nvPulse = true ∧ pulsing.nvCommit = false ∧ pulsing.deferred = false ∧ pulsing.inReset = false ∧ pulsing.nvblk = false
    ∧ ({ pulsing with nvblk := true } : Rst).nvCommit = false ∧ ({ pulsing with deferred := true } : Rst).epEntry = true
    ∧ ({ pulsing with nvCommit := true } : Rst).nvCur.isSome = true ∧ small.rst.nvPulse = false ∧ small.rst.inReset = false
    ∧ { newer with svnFused := small.mram.svnFused } ≠ small.mram ∧ small.rst.nvWant.getD small.mram = small.mram
    ∧ ({ small.rst with nvblk := true, nvWant := some newer } : Rst).nvWant = some newer := by decide +kernel

/-- A start at each phase, with what it finds; a valid EEPROM image of 12 bytes. -/
def idHead : List Byte := [0x43, 0x48, 0x54, 0x34, 1, 0, 12, 0]
def starts (phase : BitVec 4) : State := { small with rst := { phase := phase }, svr := { idrom := Memory.writeBytes [] 0 (idHead ++ leBytes 4 (crc32c idHead).toNat) }
                                                      mram := { imageA := some ⟨1, 0, [], []⟩ } }
theorem witness_StartAndService : (∀ n ∈ [0, 1, 2, 3, 4, 5, 6, 7], (starts n).starting = true ∧ (starts n).svr.pairStopped = false
      ∧ (starts n).rst.episodeOn = false ∧ (starts n).rst.phase = n)
    ∧ identityValid (starts 2).svr.idrom = true ∧ mismatches (starts 2).svr.idrom (List.replicate 8 0) = []
    ∧ mismatches (starts 2).svr.idrom (1 :: List.replicate 7 0) = [0] ∧ identityValid exIdrom = false
    ∧ (starts 1).mram.imageA = some ⟨1, 0, [], []⟩ ∧ (starts 1).mram.svnFused ≤ 0 ∧ (starts 8).starting = false
    ∧ (starts 4).svr.quarantines = [] ∧ (starts 4).rst.nvWant = none ∧ (∀ n < 12, ((starts 7).port n).linked = false)
    ∧ (starts 1).rst.nvPulse = false ∧ ({ starts 1 with rst := { pulsing with phase := 1 } } : State).starting = true
    ∧ (∀ n < 12, ((starts 7).port n).use ≠ .inUse) ∧ (starts 0).rst.epPowerOn = true ∧ (starts 0).bkp.lost = true ∧ ({ lost := false } : Backup).lost = false := by decide +kernel
/-- A commit pulse and a payload pulse that ran on into a reset; a start that waits for them. -/
theorem witness_StartAndService_pulses : ∀ commit : Bool, (let s := { starts 0 with rst := { pulsing with phase := 0, nvWant := none, nvCommit := commit } }
    s.starting = true ∧ s.svr.pairStopped = false ∧ s.rst.episodeOn = false ∧ s.rst.nvPulse = true ∧ s.rst.nvblk = false
    ∧ s.rst.nvWant = none ∧ s.rst.nvCur.isSome = true ∧ s.rst.nvCommit = commit) := by decide +kernel
theorem witness_StartAndService_wrappers : (let s := hostS {} (exQueue []) []
    s.rst.inReset = false ∧ s.svr.pairStopped = false ∧ coreExists 0x9F9F = true ∧ s.svr.closed.contains (.core 0x9F9F) = false
    ∧ s.svr.closed.contains .queueFrontEnd = false ∧ s.svr.closed.contains (.controller 7 1) = false
    ∧ s.svr.closed.contains (.reductionEngine 1) = false ∧ s.svr.closed.contains .transferEngines = false ∧ (∀ e < 16, s.engine e = none)
    ∧ s.mem.waiting = [] ∧ s.rst.phase = 8 ∧ s.sheetIdle 15 = true ∧ s.svr.quarantines = [] ∧ boarded.sheetIdle 15 = false
    ∧ (s.part 15).job = none ∧ (boarded.part 0).job.isSome = true ∧ s.attached = false) := by decide +kernel
/-- A sweep request written in the cycle in which the sweep of its sheet ends, and one of another sheet. -/
theorem witness_StartAndService_request : (let s := (hostS {} (exQueue []) []).hwSet 8 (BitVec.ofNat 64 (2 ^ 16 * 0x8000))
    (Sparse.get 0 s.justSet 8).getLsbD (16 + 15) = true ∧ (Sparse.get 0 s.justSet 8).getLsbD (16 + 14) = false
    ∧ s.sheetIdle 15 = true ∧ s.sheetIdle 14 = true ∧ s.svr.quarantines = [] ∧ s.rst.phase = 8 ∧ s.rst.inReset = false) := by decide +kernel

theorem witness_StepsAndPowerRegisters : (let s : State := { small with pwr := { clock := 0, target := 2, slewing := true } }
    s.rst.inReset = false ∧ s.pwr.slewing = true ∧ small.pwr.slewing = false ∧ s.svr.idrom.readLE 0x80 2 ≤ s.svr.idrom.readLE 0x82 2
    ∧ s.svr.idrom.readLE 0x82 2 < 8192 ∧ ({ active := true, step := 2 } : Fixed).active = true
    ∧ s.svr.idrom.readLE 0x80 2 < ratedPower 2 ∧ small.attached = false ∧ boarded.attached = true
    ∧ (({ floor := some 5 } : Fixed).floor.isSome = true ∧ s.openStep.toNat < 5)) := by decide +kernel
theorem witness_GovernorRules : (let s := exFour
    s.rst.inReset = false ∧ s.stepVolt s.granted.toNat ≠ 0 ∧ s.pwr.estScale = none ∧ s.pwr.throt = false
    ∧ ({ s.pwr with throt := true } : Power).throt = true ∧ ({ s.pwr with ests := [3000000] } : Power).ests ≠ []
    ∧ 10 * s.pwr.capUsed.toNat < 38000 ∧ s.pwr.overMeas + 1 = 5) := by decide +kernel
theorem witness_EnergyAccounting : (let z : Measurement := ⟨34527, [(0, 270000), (1, 60000)], [(15, 255, 1)], [(0, 1)], 10000⟩
    exEnergy.rst.inReset = false ∧ (∀ e ∈ z.sheets, e.1 < 16) ∧ (∀ e ∈ z.xfers, e.1 < 16) ∧ (∀ e ∈ z.ports, e.1 < 16)
    ∧ exEnergy.pwr.unattr + ((List.range 16).map fun i => (exEnergy.part i).energy).foldl (· + ·) 0 = exEnergy.pwr.total) := by decide +kernel

/-- A carrier EEPROM whose magic and CRC match, and one whose CRC does not. -/
def carrier : List Byte := [0x43, 0x48, 0x42, 0x31, 0x13, 0] ++ List.replicate 18 0
theorem witness_ManagementCommands : (let bs := carrier ++ leBytes 4 (crc32c carrier).toNat
    bs.take 4 = [0x43, 0x48, 0x42, 0x31] ∧ field bs 0x18 4 = (crc32c (bs.take 0x18)).toNat
    ∧ field (carrier ++ [0, 0, 0, 0]) 0x18 4 ≠ (crc32c carrier).toNat
    ∧ small.rst.islandOn = true ∧ small.rst.inReset = false ∧ small.svr.pairStopped = false ∧ small.svr.eepromDue = true) := by decide +kernel
theorem witness_ManagementCommands_endpoint : (let s : State := { small with rst := { phase := 8 }, svr := { idrom := exIdrom, eid := some 9, smbAlert := true, spdmAlg := true } }
    s.rst.inReset = false ∧ s.svr.pairStopped = false ∧ 2 ≤ s.rst.phase.toNat ∧ s.svr.eid.isSome = true ∧ s.rst.nvblk = false
    ∧ s.rst.deferred = false ∧ s.svr.romAgent = false ∧ ({ s.svr with romAgent := true } : Surveyor).romAgent = true ∧ small.svr.eid = none
    ∧ s.svr.smbAlert = true ∧ ({ s.svr with booted := some ⟨1, 0, [], []⟩ } : Surveyor).booted = some ⟨1, 0, [], []⟩) := by decide +kernel

theorem witness_PartitionRectangles : small.rst.inReset = false ∧ (boarded.part 0).job.isSome = true
    ∧ (let c : W32 := 0x1203; c.toNat % 2 = 1 ∧ c.toNat / 2 ^ 12 % 4 < c.toNat / 2 ^ 8 % 4)
    ∧ cfgHas 0xF003 0 = true ∧ cfgHas 0xD003 0 = true ∧ (small.part 0).cfg = 0xF003 := by decide +kernel
theorem witness_ControlSpaceWrites : (let s := { hostS {} (exQueue []) [] with host := { linkUp := true, numVfs := 1, queues := [(5, { func := 1 })] } }
    s.rst.inReset = false ∧ s.host.linkUp = true ∧ s.vfOn 1 = true ∧ (s.queue 5).func.toNat = 1 ∧ (s.queue 6).func.toNat ≠ 1
    ∧ s.justSet = [] ∧ ((s.hwSet 0x20010 64).clears 0x20010 64).getLsbD 6 = false ∧ (s.clears 0x20010 64).getLsbD 6 = true
    ∧ (s.part 0).job = none ∧ (boarded.part 0).job.isSome = true ∧ (8 : W64).toNat % 8 = 0 ∧ ¬ (8 = 8 ∧ 4 % 8 = 0) ∧ ¬ (8 = 4 ∧ 4 % 4 = 0)) := by
  decide +kernel

theorem witness_EmptyQueueLetsATickPass : small.pending = [] ∧ small.rst.inReset = false
    ∧ (∀ x ∈ small.mem.copies, small.now + 1 < x.2) ∧ (∀ p ∈ [pk .mrts], ({ small with net := [p] } : State).outgoing p = none)
    ∧ (small.port 0).streams = false ∧ small.pwr.stop = 0
    ∧ ({ small.rst with inReset := true } : Rst).inReset = true ∧ ({ small.pwr with stop := 20 } : Power).stop ≠ 0 := by decide +kernel
theorem witness_StepKeepsMemoriesCanonical : small.memoriesCanonical ∧ ∃ t, step (small.withPending [.wdone (pk .wdone)]) = .next t :=
  ⟨⟨rfl, rfl⟩, _, rfl⟩
theorem witness_StepRunsFrontCommand : step (small.withPending [.hostReadReissue]) = .next small := rfl

theorem witness_GeneralRegisters : (63 : Reg) ≠ 0 ∧ (1 : Reg) ≠ 63 := by decide +kernel
theorem witness_IntegerLanesAndMoves : (at0 (gregs 0x3FF80 0x3FF81)).canIssue 0 [] = true ∧ (at0 (gregs 0x3FF80 0x3FF81)).canIssue 0 [4, 2] = true :=
  ⟨witness_vector.1, by decide +kernel⟩
theorem witness_ComparisonAndSignLanes : (at0 running).canIssue 0 [] = true := by decide +kernel

/-! ### Small steps, with results worked out by hand from the tables -/

def after (i : Instr) (k : Core) : Core := (nextOf small (exec i (at0 k))).core 0
/-- spec/04 Table 4-5. -/
theorem test_scalar : (after (.add 0 1 2 3) (gregs (BitVec.allOnes 64) 2)).gr 1 = 1 ∧ (after (.sra 0 1 2 3) (gregs (BitVec.ofInt 64 (-16)) 66)).gr 1 = BitVec.ofInt 64 (-4)
    ∧ (after (.mulh 0 1 2 3) (gregs (BitVec.allOnes 64) 2)).gr 1 = BitVec.allOnes 64 ∧ (after (.rem 0 1 2 3) (gregs (BitVec.ofInt 64 (-7)) 2)).gr 1 = BitVec.ofInt 64 (-1)
    ∧ (after (.li 0 1 0x80000000) running).gr 1 = 0xFFFFFFFF80000000 ∧ (after (.add 0 0 2 3) (gregs 1 1)).gr 0 = 0 := by decide +kernel
/-- spec/04 R140: little-endian bytes in the store; a misaligned store raises ACCESS. -/
theorem test_store : (after (.localStore 0 .stw 3 2 0) (gregs 0x100 0x11223344)).store = [(0x100, 0x44), (0x101, 0x33), (0x102, 0x22), (0x103, 0x11)]
    ∧ (after (.localStore 0 .stw 3 2 1) (gregs 0x100 0x11223344)).store = [] ∧ (after (.localStore 0 .stw 3 2 1) (gregs 0x100 1)).cfault.code = 0x17 := by decide +kernel
/-- spec/04 R142: a taken branch to 0x40000 raises ACCESS at the branch. -/
theorem test_branch : (after (.conditionalBranch 0 .beq 2 3 0) { gregs 1 1 with pc := 0x100 }).pc = 0x100
    ∧ (after (.conditionalBranch 0 .bltu 2 3 2) { gregs 1 1 with pc := 0x100 }).pc = 0x104 := by decide +kernel
def lanes (a b : W32) : Core := ({ run := .running } : Core).setLanes 1 [a] |>.setLanes 2 [b]
def lane0 (i : Instr) (a b : W32) : W32 := (after i (lanes a b)).lane 3 0
/-- spec/05 Tables 5-10 and 5-12: ties to even, signed zeros, NaN, special inputs. -/
theorem test_lanes : lane0 (.fadd 0 3 1 2) 0x3F800000 0x33800000 = 0x3F800000 ∧ lane0 (.fmax 0 3 1 2) 0x80000000 0 = 0
    ∧ lane0 (.fmin 0 3 1 2) 0x80000000 0 = 0x80000000 ∧ lane0 (.fmax 0 3 1 2) 0x7F800001 0x3F800000 = 0x7FC00000
    ∧ lane0 (.cvtfi 0 3 1 2) 0x40200000 0 = 2 ∧ lane0 (.isll 0 3 1 2) 1 33 = 2 := by decide +kernel
theorem test_special : lane0 (.exp 0 3 1) 0 0 = 0x3F800000 ∧ lane0 (.log 0 3 1) 0xBF800000 0 = 0x7FC00000
    ∧ lane0 (.rsqrt 0 3 1) 0x7F800000 0 = 0 ∧ lane0 (.rcp 0 3 1) 0x80000000 0 = 0xFF800000 := by decide +kernel
/-- spec/03 R86, spec/05 R183: 127 × 127 at datum −4 is 258,064; the rows past ROWS stay 0. -/
theorem test_mmac : (((after (.mmac 0 0 1 1 true 0) matCore).bank 0).cell 0).acc = 258064 ∧ (((after (.mmac 0 0 1 1 true 0) matCore).bank 0).cell 16).acc = 0 := by
  decide +kernel
/-- spec/13 R455, R456: a RESET_N pulse of 99 ns is ignored, one of 120 ns and a watchdog reset the module; the log names the cause. -/
theorem test_reset : (nextOf small (exec (.resetNAssert 99) small)).rst.inReset = false ∧ (nextOf small (exec (.resetNAssert 120) small)).rst.inReset = true
    ∧ (Sparse.get {} (nextOf small (exec .wdog small)).bkp.log 0).causes = 16 ∧ (nextOf small (exec .wdog small)).bkp.wdog = 1 := by decide +kernel

end Sys2Proof.Tests
end

section
/-! PROOFS. Control-space writes (spec/16 R531 to R536). A write of the host first meets the rules of its size and alignment
(R533), then the block of its offset (Table 16-1), then one register of the block (Tables 16-2 to 16-10); the lemmas follow
that order. -/

namespace Sys2Proof.Machine

variable {s : State} {f off o p q n : Nat} {v : W64} {w : Written}

/-! ### Words -/

/-- A word is the part outside a mask and the part inside it. -/
theorem andNot_or_and_self (v m : W64) : (v &&& ~~~m) ||| (v &&& m) = v := by
  ext i
  simp only [BitVec.getElem_or, BitVec.getElem_and, BitVec.getElem_not]
  cases m[i] <;> simp

theorem getLsbD_lowHalf (i : Nat) : (0xFFFFFFFF : W64).getLsbD i = decide (i < 32) := by
  have h : (0xFFFFFFFF : W64) = (BitVec.allOnes 32).setWidth 64 := by decide
  rw [h]
  simp only [BitVec.getLsbD_setWidth, BitVec.getLsbD_allOnes, Bool.and_eq_right_iff_imp, decide_eq_true_eq]
  omega

theorem andNot_lowHalf (x : W64) : x &&& ~~~(0xFFFFFFFF : W64) = (x >>> 32) <<< 32 := by
  apply BitVec.eq_of_getLsbD_eq
  intro i hi
  rw [BitVec.getLsbD_and, BitVec.getLsbD_not, getLsbD_lowHalf, BitVec.getLsbD_shiftLeft, BitVec.getLsbD_ushiftRight]
  by_cases h : i < 32
  · simp [h]
  · simp [h, hi, show 32 + (i - 32) = i by omega]

/-- Whether a word is a multiple of 8 is told by its low half. -/
theorem toNat_mod_eight_setLow (x v : W64) :
    ((x &&& ~~~(0xFFFFFFFF : W64)) ||| (v &&& 0xFFFFFFFF)).toNat % 8 = v.toNat % 8 := by
  have key : ((x &&& ~~~(0xFFFFFFFF : W64)) ||| (v &&& 0xFFFFFFFF)).setWidth 3 = v.setWidth 3 := by
    apply BitVec.eq_of_getLsbD_eq
    intro i hi
    simp only [BitVec.getLsbD_setWidth, BitVec.getLsbD_or, BitVec.getLsbD_and, BitVec.getLsbD_not, getLsbD_lowHalf]
    simp [hi, show i < 32 by omega]
  rw [← BitVec.toNat_setWidth 3, key, BitVec.toNat_setWidth]

/-- SMDELAY is at least 100 (Table 8-5), as a number. -/
theorem smdelay_eq_max (v : W64) :
    (if ((v >>> 32).setWidth 16 : W16).toNat < 100 then (100 : W16) else (v >>> 32).setWidth 16)
      = BitVec.ofNat 16 (max 100 (v.toNat / 2 ^ 32 % 65536)) := by
  have hd : ((v >>> 32).setWidth 16 : W16) = BitVec.ofNat 16 (v.toNat / 2 ^ 32 % 65536) := by
    apply BitVec.eq_of_toNat_eq
    simp [Nat.shiftRight_eq_div_pow]
  rw [hd, BitVec.toNat_ofNat, Nat.mod_mod]
  split
  · next h => rw [Nat.max_eq_left (by omega)]; rfl
  · next h => rw [Nat.max_eq_right (by omega)]

namespace State

/-- An update of a partition depends on what it makes of the present entry alone. -/
theorem updPart_congr {g h : Part → Part} (hp : g (s.part p) = h (s.part p)) : s.updPart p g = s.updPart p h := by
  unfold updPart Sparse.upd
  rw [show g (Sparse.get {} s.parts p) = h (Sparse.get {} s.parts p) from hp]

/-- A bit that hardware has just set is not cleared; any other is as before (R12). -/
theorem getLsbD_clears_hwSet (a : Nat) (b v : W64) (k : Nat) :
    ((s.hwSet a b).clears a v).getLsbD k = ((s.clears a v).getLsbD k && !b.getLsbD k) := by
  rw [clears_hwSet_same, clears]
  simp only [BitVec.getLsbD_and, BitVec.getLsbD_not, BitVec.getLsbD_or, Bool.not_or, Bool.and_assoc]

/-! ### Blocks (Table 16-1) -/

/-- The written word as the slot at offset `a` takes it: its ones that clear a W1C bit are marked (R12). -/
def markClears (s : State) (a : Nat) (w : Written) : Written := { w with wc := s.clears a w.w1 }

theorem writeReg_svr (hb : off < 0x10000) : s.writeReg 0 off w = s.writeSvr off (s.markClears off w) := by
  simp [writeReg, markClears, show off / 0x10000 = 0 by omega, show off % 0x10000 = off by omega]
theorem writeReg_mer (ho : off = 0x10000 + o) (hb : o < 0x10000) :
    s.writeReg 0 off w = s.writeMer o (s.markClears off w) := by
  simp [writeReg, markClears, show off / 0x10000 = 1 by omega, show off % 0x10000 = o by omega]
theorem writeReg_fab (ho : off = 0x40000 + o) (hb : o < 0x10000) :
    s.writeReg 0 off w = .next (s.writeFab o (s.markClears off w)) := by
  simp [writeReg, markClears, show off / 0x10000 = 4 by omega, show off % 0x10000 = o by omega]
theorem writeReg_chk (ho : off = 0x50000 + o) (hb : o < 0x10000) :
    s.writeReg 0 off w = .next (s.writeChk o (s.markClears off w)) := by
  simp [writeReg, markClears, show off / 0x10000 = 5 by omega, show off % 0x10000 = o by omega]
theorem readReg_chk (ho : off = 0x50000 + o) (hb : o < 0x10000) : s.readReg 0 off = s.readChk o := by
  simp [readReg, show off / 0x10000 = 5 by omega, show off % 0x10000 = o by omega]
theorem writeReg_hq (ho : off = 0x100000 + o) (hb : o < 0x10000) :
    s.writeReg 0 off w = s.writeHq 0 o (s.markClears off w) := by
  simp [writeReg, markClears, show off / 0x10000 = 0x10 by omega, show off % 0x10000 = o by omega]
/-- The memory block is two 64 KiB pages long. -/
theorem writeReg_mem (ho : off = 0x1000000 + o) (hb : o < 0x20000) :
    s.writeReg 0 off w = s.writeMem o (s.markClears off w) := by
  by_cases h : o < 0x10000
  · simp [writeReg, markClears, show off / 0x10000 = 0x100 by omega, show off % 0x10000 = o by omega]
  · simp [writeReg, markClears, show off / 0x10000 = 0x101 by omega, show off % 0x10000 + 0x10000 = o by omega]
theorem writeReg_vf (hf : f ≠ 0) : s.writeReg f off w = s.writeHq f off (s.markClears (0x100000 + off) w) := by
  simp [writeReg, markClears, hf]

/-- BKP_CTL is the one register of the backup domain that takes a write. -/
theorem writeReg_bkp_ignored (hb : off / 0x10000 = 6) (h : off ≠ 0x60008) : s.writeReg 0 off w = .next s := by
  simp [writeReg, hb, show off % 0x10000 ≠ 8 by omega]
/-- RST_STATUS takes no write, and no register lies outside the blocks. -/
theorem writeReg_unlisted (h : off / 0x10000 ∉ [0, 1, 2, 4, 5, 6, 0x10, 0x100, 0x101]) : s.writeReg 0 off w = .next s := by
  simp only [List.mem_cons, not_or] at h
  simp only [writeReg]
  split <;> simp_all

/-! ### Registers (Tables 16-2 to 16-10) -/

theorem writeSvr_partCfg (hp : p < 16) : s.writeSvr (0x1000 + 0x80 * p) w = execSvrPartCfgWrite p w.nv s := by
  simp (disch := omega) only [writeSvr, if_neg, if_pos]
  rw [show (0x1000 + 0x80 * p - 0x1000) / 0x80 = p by omega]

theorem writeMer_launch (hp : p < 16) : s.writeMer (0x1000 + 0x20 * p) w = execMerPartLaunchWrite p w.nv s := by
  simp (disch := omega) only [writeMer, if_neg, if_pos]
  rw [show (0x1000 + 0x20 * p - 0x1000) / 0x20 = p by omega, show (0x1000 + 0x20 * p) % 0x20 = 0 by omega]
  rfl
theorem writeMer_lstat (hp : p < 16) : s.writeMer (0x1008 + 0x20 * p) w =
    .next (s.updPart p fun x => { x with wref := x.wref && !w.wc.getLsbD 2 }) := by
  simp (disch := omega) only [writeMer, if_neg, if_pos]
  rw [show (0x1008 + 0x20 * p - 0x1000) / 0x20 = p by omega, show (0x1008 + 0x20 * p) % 0x20 = 8 by omega]
  rfl

theorem writeFab_portStatus (hn : n < 12) : s.writeFab (0x1000 + 0x20 * n) w =
    s.updPort n fun k => { k with lanefail := k.lanefail &&& ~~~((w.wc >>> 32).setWidth 4) } := by
  simp (disch := omega) only [writeFab, if_neg, if_pos]
  rw [show (0x1000 + 0x20 * n - 0x1000) / 0x20 = n by omega]

section Tables
variable (hp : p < 16)
include hp

theorem writeFab_attached (ho : o < 0x20) (hj : (s.part p).job.isSome = true) :
    s.writeFab (0x2000 + 0x20 * p + o) w = s := by
  simp (disch := omega) only [writeFab, if_neg, if_pos]
  rw [show (0x2000 + 0x20 * p + o - 0x2000) / 0x20 = p by omega, if_pos hj]
theorem writeFab_ctab (hj : (s.part p).job = none) :
    s.writeFab (0x2000 + 0x20 * p) w = s.updPart p fun x => { x with ctab := w.nv &&& ~~~0x3F } := by
  simp (disch := omega) only [writeFab, if_neg, if_pos]
  rw [show (0x2000 + 0x20 * p - 0x2000) / 0x20 = p by omega, show (0x2000 + 0x20 * p) % 0x20 = 0 by omega, hj]
  rfl
theorem writeFab_gtab (hj : (s.part p).job = none) :
    s.writeFab (0x2000 + 0x20 * p + 8) w = s.updPart p fun x => { x with gtab := w.nv &&& ~~~0x3F } := by
  simp (disch := omega) only [writeFab, if_neg, if_pos]
  rw [show (0x2000 + 0x20 * p + 8 - 0x2000) / 0x20 = p by omega, show (0x2000 + 0x20 * p + 8) % 0x20 = 8 by omega, hj]
  rfl
theorem writeFab_grec (hj : (s.part p).job = none) :
    s.writeFab (0x2000 + 0x20 * p + 0x10) w = s.updPart p fun x => { x with grec := w.nv &&& ~~~0x3F } := by
  simp (disch := omega) only [writeFab, if_neg, if_pos]
  rw [show (0x2000 + 0x20 * p + 0x10 - 0x2000) / 0x20 = p by omega,
    show (0x2000 + 0x20 * p + 0x10) % 0x20 = 0x10 by omega, hj]
  rfl

theorem writeChk_attached (ho : o < 0x80) (hj : (s.part p).job.isSome = true) :
    s.writeChk (0x1000 + 0x80 * p + o) w = s := by
  simp (disch := omega) only [writeChk, if_neg]
  rw [show (0x1000 + 0x80 * p + o - 0x1000) / 0x80 = p by omega, if_pos hj]
/-- A partition's slot of the checking block is found by its number and the offset in its group, while no job is attached. -/
theorem writeChk_free (ho : o < 0x80) (hj : (s.part p).job = none) : s.writeChk (0x1000 + 0x80 * p + o) w =
    if o = 0 then s.updPart p fun x => x.chkCfg w.nv (s.feature featSurvey)
    else if o = 0x10 then (if w.nv.toNat % 8 = 0 then s.updPart p fun x => { x with ccell := w.nv } else s)
    else if 0x18 ≤ o ∧ o < 0x38 then s.updPart p fun x => { x with survey := Sparse.put 0 x.survey (o / 8 - 3) w.nv }
    else if o = 0x38 then
      (if s.feature featOverlay then s.updPart p fun x => { x with ovlCfg := w.nv &&& 0x7FFF00F1 } else s)
    else if o = 0x40 then s.updPart p fun x => { x with ovlBuf := w.nv &&& ~~~0xFFF }
    else s := by
  simp (disch := omega) only [writeChk, if_neg]
  rw [show (0x1000 + 0x80 * p + o - 0x1000) / 0x80 = p by omega, show (0x1000 + 0x80 * p + o) % 0x80 = o by omega,
    if_neg (by simp [hj])]
theorem writeChk_ccell (hj : (s.part p).job = none) (h8 : w.nv.toNat % 8 = 0) :
    s.writeChk (0x1000 + 0x80 * p + 0x10) w = s.updPart p fun x => { x with ccell := w.nv } := by
  rw [writeChk_free hp (by omega) hj, if_neg (by omega), if_pos rfl, if_pos h8]
theorem readChk_ccell : s.readChk (0x1000 + 0x80 * p + 0x10) = (s.part p).ccell := by
  simp (disch := omega) only [readChk, if_pos]
  rw [show (0x1000 + 0x80 * p + 0x10 - 0x1000) / 0x80 = p by omega, show (0x1000 + 0x80 * p + 0x10) % 0x80 = 0x10 by omega]
  rfl
theorem readChk_ovlBuf : s.readChk (0x1000 + 0x80 * p + 0x40) = (s.part p).ovlBuf := by
  simp (disch := omega) only [readChk, if_pos]
  rw [show (0x1000 + 0x80 * p + 0x40 - 0x1000) / 0x80 = p by omega, show (0x1000 + 0x80 * p + 0x40) % 0x80 = 0x40 by omega]
  rfl

end Tables

theorem writeHq_queue (hf : s.reaches f q = true) (hq : q < 256) (ho : o < 0x40) :
    s.writeHq f (0x4000 + 0x40 * q + o) w = s.writeQueue f q o w := by
  simp (disch := omega) only [writeHq, if_neg, if_pos]
  rw [show (0x4000 + 0x40 * q + o - 0x4000) / 0x40 = q by omega, show (0x4000 + 0x40 * q + o) % 0x40 = o by omega,
    if_pos hf]
theorem writeHq_unreached (hf : s.reaches f q = false) (hq : q < 256) (ho : o < 0x40) :
    s.writeHq f (0x4000 + 0x40 * q + o) w = .next s := by
  simp (disch := omega) only [writeHq, if_neg, if_pos]
  rw [show (0x4000 + 0x40 * q + o - 0x4000) / 0x40 = q by omega, hf, if_neg (by simp)]
theorem writeHq_outsidePage (hf : f ≠ 0) (ho : 0x120 ≤ o ∧ o < 0x4000 ∨ 0x8000 ≤ o) : s.writeHq f o w = .next s := by
  simp (disch := omega) only [writeHq, if_neg]
  rw [if_pos hf]

theorem writeMem_rgn (word1 : Bool) (hp : p < 16) (hn : n < 256) :
    s.writeMem (0x10000 + 0x1000 * p + 0x10 * n + 8 * word1.toNat) w = execRegionTableWrite p n word1 w.nv s := by
  have hw := word1.toNat_lt
  simp (disch := omega) only [writeMem, if_neg, if_pos]
  rw [show (0x10000 + 0x1000 * p + 0x10 * n + 8 * word1.toNat - 0x10000) / 0x10 / 256 = p by omega,
    show (0x10000 + 0x1000 * p + 0x10 * n + 8 * word1.toNat - 0x10000) / 0x10 % 256 = n by omega,
    show (0x10000 + 0x1000 * p + 0x10 * n + 8 * word1.toNat) % 0x10 = 8 * word1.toNat by omega]
  cases word1 <;> rfl
theorem writeMem_stackStatus (hn : n < 8) : s.writeMem (0x100 + 8 * n) w = .next s := by
  simp (disch := omega) only [writeMem, if_neg]

/-- The listed registers, outside the tables indexed by n, p and q, that take no write. -/
def readOnlySlots : List Nat :=
  [0x10, 0x18, 0x10010, 0x20020, 0x20028, 0x20030, 0x40000, 0x60000, 0x60010, 0x60018, 0x60020, 0x60028, 0x60030, 0x60038,
    0x100000, 0x100008, 0x100010, 0x100018, 0x100118]
theorem writeReg_readOnly (h : off ∈ readOnlySlots) : s.writeReg 0 off w = .next s := by
  simp only [readOnlySlots, List.mem_cons, List.not_mem_nil, or_false] at h
  rcases h with rfl | rfl | rfl | rfl | rfl | rfl | rfl | rfl | rfl | rfl | rfl | rfl | rfl | rfl | rfl | rfl | rfl | rfl | rfl <;> rfl

end State

/-! ### Shape of an access (R533) -/

theorem needs8_launch (hp : p < 16) : needs8 0 (0x11000 + 0x20 * p) = true := by
  simp [needs8, hqOffset, show (0x11000 + 0x20 * p) / 0x10000 = 1 by omega]
  omega
theorem needs8_queueCfg (hq : q < 256) : needs8 0 (0x104010 + 0x40 * q) = true := by
  simp [needs8, hqOffset, show (0x104010 + 0x40 * q) / 0x10000 = 0x10 by omega,
    show (0x104010 + 0x40 * q) % 0x10000 = 0x4010 + 0x40 * q by omega]
  omega
theorem needs8_chk (ho : off = 0x50000 + o) (hb : o < 0x10000) : needs8 0 off = false := by
  simp [needs8, hqOffset, show off / 0x10000 = 5 by omega]
  omega
theorem lowOnly_chk (ho : off = 0x50000 + o) (hb : o < 0x10000) : lowOnly 0 off = false := by
  simp [lowOnly, hqOffset, show off / 0x10000 = 5 by omega]
  omega

section Live
variable (hr : s.rst.inReset = false) (hl : s.host.linkUp = true)
include hr

theorem exec_sweepRequest (m : W16) : exec (.sweepRequest m) s = .next (s.requestSweep m) := if_neg (by simp [hr])
theorem exec_hqEvtCfgWrite (hf : f < 17) : exec (.hqEvtCfgWrite f v) s = .next (s.evtCfg f v) :=
  if_neg (by simp [hr]; omega)
theorem exec_hqEvtHeadWrite (hf : f < 17) : exec (.hqEvtHeadWrite f v) s = .next (s.evtHead f v) :=
  if_neg (by simp [hr]; omega)

include hl

/-- Control space answers Function 0 and every enabled VF, out of reset and with the link up. -/
theorem not_controlSpaceClosed (hf : f = 0 ∨ s.vfOn f = true) :
    ¬ (s.rst.inReset = true ∨ (!s.host.linkUp) = true ∨ (f ≠ 0 ∧ (!s.vfOn f) = true)) := by
  rcases hf with rfl | hf
  · simp [hr, hl]
  · simp [hr, hl, hf]

theorem registerWrite_misshapen {size : Nat} (hf : f = 0 ∨ s.vfOn f = true) (h8 : ¬ (size = 8 ∧ off % 8 = 0))
    (h4 : ¬ (size = 4 ∧ off % 4 = 0)) : exec (.registerWrite f off size v) s = .next (s.respond (.bar f none)) := by
  show execRegisterWrite f off size v s = _
  simp only [execRegisterWrite]
  rw [if_neg (not_controlSpaceClosed hr hl hf), if_pos (by simp [h8, h4])]

theorem registerWrite_eight (hf : f = 0 ∨ s.vfOn f = true) (h8 : off % 8 = 0) :
    exec (.registerWrite f off 8 v) s = s.writeReg f off ⟨v, v, 0⟩ := by
  show execRegisterWrite f off 8 v s = _
  simp only [execRegisterWrite, if_true]
  rw [if_neg (not_controlSpaceClosed hr hl hf), if_neg (by simp [h8]), show off / 8 * 8 = off by omega]

theorem registerWrite_four_ignored (h8 : off % 8 = 0) (hn : needs8 0 off = true) :
    exec (.registerWrite 0 off 4 v) s = .next s ∧ exec (.registerWrite 0 (off + 4) 4 v) s = .next s := by
  constructor
  · show execRegisterWrite 0 off 4 v s = _
    simp [execRegisterWrite, hr, hl, hn, show off % 4 = 0 by omega, show off / 8 * 8 = off by omega]
  · show execRegisterWrite 0 (off + 4) 4 v s = _
    simp [execRegisterWrite, hr, hl, hn, show (off + 4) % 4 = 0 by omega, show (off + 4) / 8 * 8 = off by omega]

theorem registerWrite_four_low (h8 : off % 8 = 0) (hn : needs8 0 off = false) :
    exec (.registerWrite 0 off 4 v) s = s.writeReg 0 off
      ⟨(s.readReg 0 off &&& ~~~(0xFFFFFFFF : W64)) ||| (v &&& 0xFFFFFFFF), v &&& 0xFFFFFFFF, 0⟩ := by
  show execRegisterWrite 0 off 4 v s = _
  simp [execRegisterWrite, hr, hl, h8, hn, show off % 4 = 0 by omega, show off / 8 * 8 = off by omega]

theorem registerWrite_four_high (h8 : off % 8 = 0) (hn : needs8 0 off = false) (hw : lowOnly 0 off = false) :
    exec (.registerWrite 0 (off + 4) 4 v) s =
      s.writeReg 0 off ⟨(s.readReg 0 off &&& 0xFFFFFFFF) ||| (v <<< 32), v <<< 32, 0⟩ := by
  show execRegisterWrite 0 (off + 4) 4 v s = _
  simp [execRegisterWrite, hr, hl, hn, hw, show (off + 4) % 4 = 0 by omega, show (off + 4) % 8 = 4 by omega,
    show (off + 4) / 8 * 8 = off by omega]

/-! ### What a write of the host does, by register -/

/-- The five registers of R533. -/
theorem write4_ignored (h : off ∈ [0x10018, 0x60008, 0x100040] ∨ (∃ p < 16, off = 0x11000 + 0x20 * p)
    ∨ (∃ q < 256, off = 0x104010 + 0x40 * q)) :
    exec (.registerWrite 0 off 4 v) s = .next s ∧ exec (.registerWrite 0 (off + 4) 4 v) s = .next s := by
  simp only [List.mem_cons, List.not_mem_nil, or_false] at h
  rcases h with (rfl | rfl | rfl) | ⟨p, hp, rfl⟩ | ⟨q, hq, rfl⟩
  · exact registerWrite_four_ignored hr hl rfl rfl
  · exact registerWrite_four_ignored hr hl rfl rfl
  · exact registerWrite_four_ignored hr hl rfl rfl
  · exact registerWrite_four_ignored hr hl (by omega) (needs8_launch hp)
  · exact registerWrite_four_ignored hr hl (by omega) (needs8_queueCfg hq)

/-- Registers with a command of their own. -/
theorem write8_ownCommands :
    exec (.registerWrite 0 0x20000 8 v) s = exec (.pwrStepWrite v) s
    ∧ exec (.registerWrite 0 0x20008 8 v) s = exec (.pwrCapWrite v) s
    ∧ exec (.registerWrite 0 0x20018 8 v) s = exec (.pwrFixedWrite v) s
    ∧ exec (.registerWrite 0 0x10000 8 v) s = exec (.merCfgWrite v) s
    ∧ exec (.registerWrite 0 0x10018 8 v) s = exec (.merSet v) s
    ∧ exec (.registerWrite 0 0x1000000 8 v) s = exec (.memTileCfgWrite v) s
    ∧ exec (.registerWrite 0 8 8 v) s = exec (.sweepRequest ((v >>> 16).setWidth 16)) s
    ∧ exec (.registerWrite 0 0x100108 8 v) s = exec (.hqEvtCfgWrite 0 v) s
    ∧ exec (.registerWrite 0 0x100110 8 v) s = exec (.hqEvtHeadWrite 0 v) s := by
  have write (off : Nat) (h8 : off % 8 = 0) := registerWrite_eight (v := v) hr hl (.inl rfl) h8
  refine ⟨write _ rfl, write _ rfl, (write _ rfl).trans ?_, write _ rfl, write _ rfl, write _ rfl,
    (write _ rfl).trans (exec_sweepRequest hr _).symm, (write _ rfl).trans (exec_hqEvtCfgWrite hr (by omega)).symm,
    (write _ rfl).trans (exec_hqEvtHeadWrite hr (by omega)).symm⟩
  show execPwrFixedWrite ((v &&& ~~~0x200) ||| (v &&& 0x200)) s = execPwrFixedWrite v s
  rw [andNot_or_and_self]

theorem write8_partition (hp : p < 16) :
    exec (.registerWrite 0 (0x1000 + 0x80 * p) 8 v) s = exec (.svrPartCfgWrite p v) s
    ∧ exec (.registerWrite 0 (0x11000 + 0x20 * p) 8 v) s = exec (.merPartLaunchWrite p v) s := by
  constructor
  · rw [registerWrite_eight hr hl (.inl rfl) (by omega), State.writeReg_svr (by omega), State.writeSvr_partCfg hp]
    rfl
  · rw [registerWrite_eight hr hl (.inl rfl) (by omega), State.writeReg_mer (o := 0x1000 + 0x20 * p) (by omega) (by omega),
      State.writeMer_launch hp]
    rfl

theorem write8_region (word1 : Bool) (hp : p < 16) (hn : n < 256)
    (ho : off = 0x1010000 + 0x1000 * p + 0x10 * n + 8 * word1.toNat) :
    exec (.registerWrite 0 off 8 v) s = exec (.regionTableWrite p n word1 v) s := by
  have hw := word1.toNat_lt
  rw [registerWrite_eight hr hl (.inl rfl) (by omega),
    State.writeReg_mem (o := 0x10000 + 0x1000 * p + 0x10 * n + 8 * word1.toNat) (by omega) (by omega),
    State.writeMem_rgn word1 hp hn]
  rfl

theorem write8_queue (hq : q < 256) (ho : o < 0x40) (h8 : o % 8 = 0) :
    exec (.registerWrite 0 (0x104000 + 0x40 * q + o) 8 v) s = s.writeQueue 0 q o ⟨v, v, s.clears (0x104000 + 0x40 * q + o) v⟩ := by
  rw [registerWrite_eight hr hl (.inl rfl) (by omega),
    State.writeReg_hq (o := 0x4000 + 0x40 * q + o) (by omega) (by omega), State.writeHq_queue rfl hq ho]
  rfl

theorem write8_tail (hq : q < 256) : exec (.registerWrite 0 (0x104020 + 0x40 * q) 8 v) s = exec (.hqQTailWrite q v) s := by
  rw [show 0x104020 + 0x40 * q = 0x104000 + 0x40 * q + 0x20 by omega, write8_queue hr hl hq (by omega) rfl]
  rfl
theorem write8_jhead (hq : q < 256) : exec (.registerWrite 0 (0x104028 + 0x40 * q) 8 v) s = exec (.hqQJheadWrite q v) s := by
  rw [show 0x104028 + 0x40 * q = 0x104000 + 0x40 * q + 0x28 by omega, write8_queue hr hl hq (by omega) rfl]
  rfl
theorem write8_queueStatus (hq : q < 256) : exec (.registerWrite 0 (0x104030 + 0x40 * q) 8 v) s = .next (s.updQueue q fun k =>
    { k with seqerr := k.seqerr && !(s.clears (0x104030 + 0x40 * q) v).getLsbD 8 }) := by
  rw [show 0x104030 + 0x40 * q = 0x104000 + 0x40 * q + 0x30 by omega, write8_queue hr hl hq (by omega) rfl]
  rfl

/-- W1C bits of the registers that stand alone (R12). -/
theorem write8_w1c :
    exec (.registerWrite 0 0 8 v) s = .next (s.updSvr fun k => { k with chainMoved := k.chainMoved && !(s.clears 0 v).getLsbD 31 })
    ∧ exec (.registerWrite 0 0x20010 8 v) s = .next (if (s.clears 0x20010 v).getLsbD 6 && s.pwr.sensflag then
        s.updPwr fun k => { k with sensflag := false, negDis := 0 } else s)
    ∧ exec (.registerWrite 0 0x10008 8 v) s =
        .next (s.updMer fun k => { k with stepped := k.stepped && !(s.clears 0x10008 v).getLsbD 9 }) := by
  have write (off : Nat) (h8 : off % 8 = 0) := registerWrite_eight (v := v) hr hl (.inl rfl) h8
  exact ⟨write _ rfl, write _ rfl, write _ rfl⟩

theorem write8_lstat (hp : p < 16) : exec (.registerWrite 0 (0x11008 + 0x20 * p) 8 v) s =
    .next (s.updPart p fun k => { k with wref := k.wref && !(s.clears (0x11008 + 0x20 * p) v).getLsbD 2 }) := by
  rw [registerWrite_eight hr hl (.inl rfl) (by omega), State.writeReg_mer (o := 0x1008 + 0x20 * p) (by omega) (by omega),
    State.writeMer_lstat hp]
  rfl

theorem write8_portStatus (hn : n < 12) : exec (.registerWrite 0 (0x41000 + 0x20 * n) 8 v) s = .next (s.updPort n fun k =>
    { k with lanefail := k.lanefail &&& ~~~((s.clears (0x41000 + 0x20 * n) v >>> 32).setWidth 4) }) := by
  rw [registerWrite_eight hr hl (.inl rfl) (by omega), State.writeReg_fab (o := 0x1000 + 0x20 * n) (by omega) (by omega),
    State.writeFab_portStatus hn]
  rfl

/-! Registers of a partition that are written only while no job is attached to it (R536). -/

theorem write8_tables (hp : p < 16) (ho : o < 0x20) (h8 : o % 8 = 0) : exec (.registerWrite 0 (0x42000 + 0x20 * p + o) 8 v) s =
    .next (s.writeFab (0x2000 + 0x20 * p + o) ⟨v, v, s.clears (0x42000 + 0x20 * p + o) v⟩) := by
  rw [registerWrite_eight hr hl (.inl rfl) (by omega), State.writeReg_fab (o := 0x2000 + 0x20 * p + o) (by omega) (by omega)]
  rfl
theorem write8_checking (hp : p < 16) (ho : o < 0x80) (h8 : o % 8 = 0) : exec (.registerWrite 0 (0x51000 + 0x80 * p + o) 8 v) s =
    .next (s.writeChk (0x1000 + 0x80 * p + o) ⟨v, v, s.clears (0x51000 + 0x80 * p + o) v⟩) := by
  rw [registerWrite_eight hr hl (.inl rfl) (by omega), State.writeReg_chk (o := 0x1000 + 0x80 * p + o) (by omega) (by omega)]
  rfl

/-- A 4-byte write to a slot of the checking block replaces one half of what the slot reads (R533). -/
theorem write4_low_chk (ho : off = 0x50000 + o) (hb : o < 0x10000) (h8 : o % 8 = 0) : exec (.registerWrite 0 off 4 v) s =
    .next (s.writeChk o (s.markClears off
      ⟨(s.readChk o &&& ~~~(0xFFFFFFFF : W64)) ||| (v &&& 0xFFFFFFFF), v &&& 0xFFFFFFFF, 0⟩)) := by
  rw [registerWrite_four_low hr hl (by omega) (needs8_chk ho hb), State.writeReg_chk ho hb, State.readReg_chk ho hb]
theorem write4_high_chk (ho : off = 0x50000 + o + 4) (hb : o < 0x10000) (h8 : o % 8 = 0) : exec (.registerWrite 0 off 4 v) s =
    .next (s.writeChk o (s.markClears (0x50000 + o) ⟨(s.readChk o &&& 0xFFFFFFFF) ||| (v <<< 32), v <<< 32, 0⟩)) := by
  rw [ho, registerWrite_four_high hr hl (by omega) (needs8_chk rfl hb) (lowOnly_chk rfl hb), State.writeReg_chk rfl hb,
    State.readReg_chk rfl hb]

theorem write8_tables_attached (hp : p < 16) (hj : (s.part p).job.isSome = true) (ho : o < 0x18) (h8 : o % 8 = 0) :
    exec (.registerWrite 0 (0x42000 + 0x20 * p + o) 8 v) s = .next s := by
  rw [write8_tables hr hl hp (by omega) h8, State.writeFab_attached hp (by omega) hj]
theorem write8_checking_attached (hp : p < 16) (hj : (s.part p).job.isSome = true) (ho : o < 0x80) (h8 : o % 8 = 0) :
    exec (.registerWrite 0 (0x51000 + 0x80 * p + o) 8 v) s = .next s := by
  rw [write8_checking hr hl hp ho h8, State.writeChk_attached hp ho hj]

theorem write8_tables_free (hp : p < 16) (hj : (s.part p).job = none) :
    exec (.registerWrite 0 (0x42000 + 0x20 * p) 8 v) s = .next (s.updPart p fun x => { x with ctab := v &&& ~~~0x3F })
    ∧ exec (.registerWrite 0 (0x42000 + 0x20 * p + 8) 8 v) s = .next (s.updPart p fun x => { x with gtab := v &&& ~~~0x3F })
    ∧ exec (.registerWrite 0 (0x42000 + 0x20 * p + 16) 8 v) s = .next (s.updPart p fun x => { x with grec := v &&& ~~~0x3F }) :=
  ⟨(write8_tables hr hl (o := 0) hp (by omega) rfl).trans (congrArg _ (State.writeFab_ctab hp hj)),
   (write8_tables hr hl hp (by omega) rfl).trans (congrArg _ (State.writeFab_gtab hp hj)),
   (write8_tables hr hl hp (by omega) rfl).trans (congrArg _ (State.writeFab_grec hp hj))⟩

section Free
variable (hp : p < 16) (hj : (s.part p).job = none)
include hp hj

theorem write8_chkCfg : exec (.registerWrite 0 (0x51000 + 0x80 * p) 8 v) s = .next (s.updPart p fun x => { x with
    cwp := (v >>> 48).setWidth 16, smdelay := BitVec.ofNat 16 (max 100 (v.toNat / 2 ^ 32 % 65536))
    surveyRate := if s.feature featSurvey then v.setWidth 2 else x.surveyRate }) := by
  rw [← smdelay_eq_max]
  exact (write8_checking hr hl (o := 0) hp (by omega) rfl).trans (congrArg _ (State.writeChk_free hp (by omega) hj))
theorem write8_ccell (h8 : v.toNat % 8 = 0) :
    exec (.registerWrite 0 (0x51000 + 0x80 * p + 0x10) 8 v) s = .next (s.updPart p fun x => { x with ccell := v }) := by
  rw [write8_checking hr hl hp (by omega) rfl, State.writeChk_ccell hp hj h8]
theorem write8_ccell_misaligned (h8 : v.toNat % 8 ≠ 0) :
    exec (.registerWrite 0 (0x51000 + 0x80 * p + 0x10) 8 v) s = .next s := by
  rw [write8_checking hr hl hp (by omega) rfl, State.writeChk_free hp (by omega) hj]
  simp [h8]
theorem write8_survey (hn : n < 4) : exec (.registerWrite 0 (0x51000 + 0x80 * p + 0x18 + 8 * n) 8 v) s =
    .next (s.updPart p fun x => { x with survey := Sparse.put 0 x.survey n v }) := by
  rw [Nat.add_assoc (0x51000 + 0x80 * p), write8_checking hr hl hp (by omega) (by omega), State.writeChk_free hp (by omega) hj]
  simp (disch := omega) only [if_neg, if_pos]
  rw [show (0x18 + 8 * n) / 8 - 3 = n by omega]
theorem write8_ovlCfg : exec (.registerWrite 0 (0x51000 + 0x80 * p + 0x38) 8 v) s =
    .next (if s.feature featOverlay then s.updPart p fun x => { x with ovlCfg := v &&& 0x7FFF00F1 } else s) := by
  rw [write8_checking hr hl hp (by omega) rfl, State.writeChk_free hp (by omega) hj]
  rfl
theorem write8_ovlBuf : exec (.registerWrite 0 (0x51000 + 0x80 * p + 0x40) 8 v) s =
    .next (s.updPart p fun x => { x with ovlBuf := v &&& ~~~0xFFF }) := by
  rw [write8_checking hr hl hp (by omega) rfl, State.writeChk_free hp (by omega) hj]
  rfl

theorem write4_ccell_low (h8 : v.toNat % 8 = 0) : exec (.registerWrite 0 (0x51000 + 0x80 * p + 0x10) 4 v) s =
    .next (s.updPart p fun x => { x with ccell := ((x.ccell >>> 32) <<< 32) ||| (v &&& 0xFFFFFFFF) }) := by
  rw [write4_low_chk hr hl (o := 0x1000 + 0x80 * p + 0x10) (by omega) (by omega) (by omega),
    State.writeChk_ccell hp hj ((toNat_mod_eight_setLow _ v).trans h8), State.readChk_ccell hp, andNot_lowHalf]
  exact congrArg _ (State.updPart_congr rfl)
theorem write4_ovlBuf_high : exec (.registerWrite 0 (0x51000 + 0x80 * p + 0x44) 4 v) s =
    .next (s.updPart p fun x => { x with ovlBuf := ((x.ovlBuf &&& 0xFFFFFFFF) ||| (v <<< 32)) &&& ~~~0xFFF }) := by
  rw [write4_high_chk hr hl (o := 0x1000 + 0x80 * p + 0x40) (by omega) (by omega) (by omega),
    State.writeChk_free hp (by omega) hj, State.readChk_ovlBuf hp]
  exact congrArg _ (State.updPart_congr rfl)

end Free

/-- The registers that ignore writes, and the offsets outside a listed register (R531). -/
theorem write8_ignored (h8 : off % 8 = 0) (h : off ∈ State.readOnlySlots
      ∨ 0x30000 ≤ off ∧ off < 0x40000 ∨ 0x60040 ≤ off ∧ off < 0x100000 ∨ 0x110000 ≤ off ∧ off < 0x1000000 ∨ 0x1020000 ≤ off
      ∨ ∃ n < 8, off = 0x1000100 + 8 * n) : exec (.registerWrite 0 off 8 v) s = .next s := by
  rw [registerWrite_eight hr hl (.inl rfl) h8]
  have unlisted (hb : off / 0x10000 = 3 ∨ 7 ≤ off / 0x10000 ∧ off / 0x10000 < 0x10
      ∨ 0x11 ≤ off / 0x10000 ∧ off / 0x10000 < 0x100 ∨ 0x102 ≤ off / 0x10000) : s.writeReg 0 off ⟨v, v, 0⟩ = .next s :=
    State.writeReg_unlisted (by simp only [List.mem_cons, List.not_mem_nil, or_false]; omega)
  rcases h with h | h | h | h | h | ⟨n, hn, rfl⟩
  · exact State.writeReg_readOnly h
  · exact unlisted (by omega)
  · by_cases hb : off / 0x10000 = 6
    · exact State.writeReg_bkp_ignored hb (by omega)
    · exact unlisted (by omega)
  · exact unlisted (by omega)
  · exact unlisted (by omega)
  · rw [State.writeReg_mem (o := 0x100 + 8 * n) (by omega) (by omega), State.writeMem_stackStatus hn]

/-! A VF's page (Table 12-10). -/

section VirtualFunction
variable (hf : s.vfOn f = true) (h0 : f ≠ 0)
include hf h0

theorem vfWrite8 (h8 : off % 8 = 0) : exec (.registerWrite f off 8 v) s =
    s.writeHq f off ⟨v, v, s.clears (0x100000 + off) v⟩ := by
  rw [registerWrite_eight hr hl (.inr hf) h8, State.writeReg_vf h0]
  rfl
theorem vfWrite8_foreignQueue (hq : q < 256) (hn : (s.queue q).func.toNat ≠ f) (ho : o < 0x40) (h8 : o % 8 = 0) :
    exec (.registerWrite f (0x4000 + 0x40 * q + o) 8 v) s = .next s := by
  rw [vfWrite8 hr hl hf h0 (by omega), State.writeHq_unreached (by simp [State.reaches, h0, hn]) hq ho]
theorem vfWrite8_tail (hq : q < 256) (hn : (s.queue q).func.toNat = f) :
    exec (.registerWrite f (0x4020 + 0x40 * q) 8 v) s = exec (.hqQTailWrite q v) s := by
  rw [vfWrite8 hr hl hf h0 (by omega), show 0x4020 + 0x40 * q = 0x4000 + 0x40 * q + 0x20 by omega,
    State.writeHq_queue (by simp [State.reaches, hn]) hq (by omega)]
  rfl
theorem vfWrite8_outsidePage (ho : 0x120 ≤ off ∧ off < 0x4000 ∨ 0x8000 ≤ off) (h8 : off % 8 = 0) :
    exec (.registerWrite f off 8 v) s = .next s := by
  rw [vfWrite8 hr hl hf h0 h8, State.writeHq_outsidePage h0 ho]
theorem vfWrite8_evtCfg (h17 : f < 17) : exec (.registerWrite f 0x108 8 v) s = exec (.hqEvtCfgWrite f v) s := by
  rw [vfWrite8 hr hl hf h0 rfl, exec_hqEvtCfgWrite hr h17]
  rfl

end VirtualFunction
end Live

/-- Settles O56: each write goes by its shape, then its block, then its register. -/
theorem controlSpaceWrites : Obligations.ControlSpaceWrites := by
  intro s hr hl
  refine ⟨fun _ _ _ _ hf => registerWrite_misshapen hr hl hf, fun _ _ => write4_ignored hr hl,
    fun _ => write8_ownCommands hr hl, ?partitions, fun q hq v => ⟨write8_tail hr hl hq, write8_jhead hr hl hq⟩, ?w1c,
    State.getLsbD_clears_hwSet, fun h a v => State.clears_nothing _ _ _ (by rw [h]; rfl), ?guarded,
    fun off h h8 v => write8_ignored hr hl h8 h, ?vf⟩
  case partitions =>
    intro p hp v
    obtain ⟨hcfg, hlaunch⟩ := write8_partition (v := v) hr hl hp
    exact ⟨hcfg, hlaunch, fun n hn =>
      ⟨write8_region hr hl false hp hn rfl, write8_region hr hl true hp hn (by rw [Bool.toNat_true]; omega)⟩⟩
  case w1c =>
    intro v
    obtain ⟨hposition, hstatus, hmer⟩ := write8_w1c (v := v) hr hl
    exact ⟨hposition, hstatus, hmer, fun p hp => write8_lstat hr hl hp, fun n hn => write8_portStatus hr hl hn,
      fun q hq => write8_queueStatus hr hl hq⟩
  case guarded =>
    intro p hp v
    refine ⟨fun hj o ho h8 => write8_tables_attached hr hl hp hj ho h8,
      fun hj o ho h8 => write8_checking_attached hr hl hp hj ho h8, fun hj => ?_⟩
    obtain ⟨hctab, hgtab, hgrec⟩ := write8_tables_free (v := v) hr hl hp hj
    exact ⟨hctab, hgtab, hgrec, write8_chkCfg hr hl hp hj, write8_ccell hr hl hp hj, write8_ccell_misaligned hr hl hp hj,
      fun n hn => write8_survey hr hl hp hj hn, write8_ovlCfg hr hl hp hj, write8_ovlBuf hr hl hp hj,
      write4_ccell_low hr hl hp hj, write4_ovlBuf_high hr hl hp hj⟩
  case vf =>
    intro f hf h0 v
    exact ⟨fun q hq hn o ho h8 => vfWrite8_foreignQueue hr hl hf h0 hq hn ho h8,
      fun q hq hn => vfWrite8_tail hr hl hf h0 hq hn, fun off ho h8 => vfWrite8_outsidePage hr hl hf h0 ho h8,
      vfWrite8_evtCfg hr hl hf h0⟩

end Sys2Proof.Machine
end

section
/-! PROOFS. Order-free accumulation (spec/03 R86 to R101). Every count, flag and sum of a term commutes with that of another
term; a bank's cells and check cells are folds of such terms; a clear and a datum write are read off their results. -/

namespace Sys2Proof.Machine

/-- A table depends on its function at the keys below its bound alone. -/
theorem tabulate_congr {α : Type} [DecidableEq α] (d : α) {n : Nat} {f g : Nat → α} (h : ∀ k < n, f k = g k) :
    Sparse.tabulate d n f = Sparse.tabulate d n g := by
  induction n with
  | zero => rfl
  | succ n ih =>
    have hlast (f : Nat → α) : Sparse.tabulate d (n + 1) f = Sparse.tabulate d n f ++ (if f n = d then [] else [(n, f n)]) := by
      rw [Sparse.tabulate, List.range_succ, List.filterMap_append]
      by_cases hd : f n = d <;> simp only [hd, Sparse.tabulate, List.filterMap_cons, List.filterMap_nil, if_true, if_false]
    rw [hlast, hlast, ih fun k hk => h k (Nat.lt_succ_of_lt hk), h n (Nat.lt_succ_self n)]

/-! ### Folds of steps that commute -/

section Folds
variable {α β : Type} {f : β → α → β} (hf : ∀ z x y, f (f z x) y = f (f z y) x)
include hf

/-- Two runs of commuting steps commute. -/
theorem foldl_foldl_comm (z : β) (xs ys : List α) : ys.foldl f (xs.foldl f z) = xs.foldl f (ys.foldl f z) := by
  rw [← List.foldl_append, ← List.foldl_append]
  exact List.perm_append_comm.foldl_eq' (fun x _ y _ z => hf z x y) z

/-- Two rounds of commuting steps, over every entry of a table, commute. -/
theorem tabulate_foldl_comm [DecidableEq β] (d : β) (n : Nat) (m : Sparse β) (xs ys : Nat → List α) :
    (Sparse.tabulate d n fun i => (ys i).foldl f (Sparse.get d (Sparse.tabulate d n fun j => (xs j).foldl f (Sparse.get d m j)) i))
      = Sparse.tabulate d n fun i =>
          (xs i).foldl f (Sparse.get d (Sparse.tabulate d n fun j => (ys j).foldl f (Sparse.get d m j)) i) := by
  refine tabulate_congr d fun i hi => ?_
  rw [Sparse.get_tabulate d _ n i hi, Sparse.get_tabulate d _ n i hi, foldl_foldl_comm hf]

end Folds

/-! ### Terms commute (R91 to R98) -/

theorem satAdd32_toNat (a : W32) (n : Nat) : (satAdd32 a n).toNat = min (2 ^ 32 - 1) (a.toNat + n) := by
  unfold satAdd32
  split
  · next h => rw [Nat.min_eq_left (by omega)]; rfl
  · next h => rw [BitVec.toNat_ofNat, Nat.mod_eq_of_lt (by omega), Nat.min_eq_right (by omega)]

/-- The order of two additions to KCNT does not show, whether they saturate or not. -/
theorem satAdd32_comm (a : W32) (m n : Nat) : satAdd32 (satAdd32 a m) n = satAdd32 (satAdd32 a n) m := by
  apply BitVec.eq_of_toNat_eq
  simp only [satAdd32_toNat]
  omega

/-- A counted rounding adds the same one whichever term comes first. -/
theorem countIf_comm (a : Byte) (p q : Bool) :
    (if q then satAdd8 (if p then satAdd8 a 1 else a) 1 else (if p then satAdd8 a 1 else a))
      = if p then satAdd8 (if q then satAdd8 a 1 else a) 1 else (if q then satAdd8 a 1 else a) := by
  cases p <;> cases q <;> rfl

theorem Cell.term_comm (d : Int) (c : Cell) (x y : Num) :
    Cell.term (some d) (Cell.term (some d) c x) y = Cell.term (some d) (Cell.term (some d) c y) x := by
  simp only [Cell.term, Cell.mark, Cell.mk.injEq, countIf_comm _ (aligned d x).2, and_true, true_and,
    countIf_comm _ ((aligned d x).2 && (aligned d x).1 == 0)]
  exact ⟨by ac_rfl, Bool.or_right_comm _ _ _, Bool.or_right_comm _ _ _, Bool.or_right_comm _ _ _,
    Bool.or_right_comm _ _ _⟩

theorem ChkReg.term_comm (d : Int) (r : ChkReg) (x y : Num) :
    ChkReg.term (some d) (ChkReg.term (some d) r x) y = ChkReg.term (some d) (ChkReg.term (some d) r y) x := by
  simp only [ChkReg.term, ChkReg.mk.injEq, countIf_comm _ (aligned d x).2, true_and]
  exact ⟨by ac_rfl, Bool.or_right_comm _ _ _, Bool.or_right_comm _ _ _, Bool.or_right_comm _ _ _⟩

/-- PEMAX is the largest of what was there and the term's own code, 0x8000 being the least (R92). -/
theorem pemaxOf_toInt (p : W16) (x : Num) : (pemaxOf p x).toInt = max p.toInt (pemaxOf 0x8000 x).toInt := by
  have least (q : W16) : (0x8000 : W16).toInt ≤ q.toInt := BitVec.le_toInt q
  match x with
  | .nan | .inf _ | .fin _ 0 _ => exact (Int.max_eq_left (least p)).symm
  | .fin n (m + 1) e =>
    have code (q : W16) : pemaxOf q (.fin n (m + 1) e) = if q = 0x8000 ∨ q.toInt < (pemaxCode (flog2 (m + 1) e)).toInt then
      pemaxCode (flog2 (m + 1) e) else q := rfl
    rw [code 0x8000, if_pos (.inl rfl), code p]
    split
    · next h =>
      have hle : p.toInt ≤ (pemaxCode (flog2 (m + 1) e)).toInt := h.elim (fun hp => hp ▸ least _) Int.le_of_lt
      rw [Int.max_eq_right hle]
    · next h =>
      have hle : (pemaxCode (flog2 (m + 1) e)).toInt ≤ p.toInt := Int.not_lt.1 fun hl => h (.inr hl)
      rw [Int.max_eq_left hle]

theorem pemaxOf_comm (p : W16) (x y : Num) : pemaxOf (pemaxOf p x) y = pemaxOf (pemaxOf p y) x := by
  apply BitVec.eq_of_toInt_eq
  rw [pemaxOf_toInt, pemaxOf_toInt p x, pemaxOf_toInt (pemaxOf p y) x, pemaxOf_toInt p y]
  omega

/-! ### A tile pair at a fixed datum -/

/-- The terms of cell `n` from one pair (spec/05 R178). -/
def cellTerms (k : Nat) (ma mb : List (List Num)) (n : Nat) : List Num :=
  products k (rowAt ma (n / 16)) (rowAt mb (n % 16))

/-- The terms of check cell `n` from one pair (spec/08 R290). -/
def checkTerms (k : Nat) (ma mb : List (List Num)) (n : Nat) : List Num :=
  if n < 16 then products k (colSums ma k 8) (rowAt mb n)
  else if n < 24 then products k (rowAt ma (n - 16)) (colSums mb k 16)
  else products k (colSums ma k 8) (colSums mb k 16)

theorem Bank.chkPair_eq (b : Bank) (d : Option Int) (k : Nat) (ma mb : List (List Num)) :
    b.chkPair d k ma mb =
      { b with chk := Sparse.tabulate {} 25 fun n => (checkTerms k ma mb n).foldl (ChkReg.term d) (b.chkReg n) } := by
  simp only [chkPair, checkTerms, apply_ite (List.foldl (ChkReg.term d) _)]

/-- What a pair adds to a bank whose datum is fixed: a run of terms to every cell, and to every check cell when the bank is
covered. -/
theorem Bank.addPair_fixed {b : Bank} (hi : b.intmode = false) (hf : b.fixed = true) (k : Nat) (ma mb : List (List Num)) :
    b.addPair k ma mb = { b with
      cells := Sparse.tabulate {} 128 fun n => (cellTerms k ma mb n).foldl (Cell.term (some (sInt b.datum))) (b.cell n)
      kcnt := satAdd32 b.kcnt k
      pemax := ((List.range 128).flatMap (cellTerms k ma mb)).foldl pemaxOf b.pemax
      opn := b.opn || decide (0 < k)
      chk := if b.cover = some true then
          Sparse.tabulate {} 25 fun n => (checkTerms k ma mb n).foldl (ChkReg.term (some (sInt b.datum))) (b.chkReg n)
        else b.chk } := by
  simp only [addPair, hi, hf, chkPair_eq, List.foldl_flatMap, cellTerms]
  split <;> rfl

/-- Two pairs leave the same bank whichever comes first (R98). -/
theorem Bank.addPair_comm {b : Bank} (hi : b.intmode = false) (hf : b.fixed = true) (k k' : Nat)
    (ma mb ma' mb' : List (List Num)) :
    (b.addPair k ma mb).addPair k' ma' mb' = (b.addPair k' ma' mb').addPair k ma mb := by
  rw [addPair_fixed hi hf, addPair_fixed hi hf, addPair_fixed (by exact hi) (by exact hf), addPair_fixed (by exact hi) (by exact hf)]
  simp only [Bank.mk.injEq, true_and, and_true]
  refine ⟨tabulate_foldl_comm (Cell.term_comm _) _ _ _ _ _, satAdd32_comm _ _ _, foldl_foldl_comm pemaxOf_comm _ _ _,
    Bool.or_right_comm _ _ _, ?_⟩
  split
  · exact tabulate_foldl_comm (ChkReg.term_comm _) _ _ _ _ _
  · rfl

/-- Settles O18: the terms of one cell commute, and a bank is a table of them. -/
theorem accumulationIsOrderFree : Obligations.AccumulationIsOrderFree :=
  ⟨fun _ k k' ma mb ma' mb' hi hf => Bank.addPair_comm hi hf k k' ma mb ma' mb',
   fun d x _ _ h => h.foldl_eq' (fun a _ b _ z => Cell.term_comm d z a b) x⟩

/-! ### A clear and a datum write (R86, R100, R101, R186, R187) -/

theorem setWidth_ushiftRight (w n : Nat) (v : W64) : (v >>> n).setWidth w = BitVec.ofNat w (v.toNat / 2 ^ n) := by
  apply BitVec.eq_of_toNat_eq
  simp [Nat.shiftRight_eq_div_pow]

/-- The fields last written after a write of `v` under `mask` (Table 3-4): a policy of 3 is not written. -/
def DatCfg.masked (w : DatCfg) (v : W64) (mask : BitVec 5) : DatCfg where
  pbound := if mask.getLsbD 0 then BitVec.ofNat 16 (v.toNat / 2 ^ 48) else w.pbound
  klog := if mask.getLsbD 2 then BitVec.ofNat 5 (v.toNat / 2 ^ 8) else w.klog
  policy := if mask.getLsbD 3 ∧ v.toNat / 64 % 4 ≠ 3 then BitVec.ofNat 2 (v.toNat / 2 ^ 6) else w.policy
  tighten := if mask.getLsbD 4 then BitVec.ofNat 6 v.toNat else w.tighten

namespace Bank
variable {b : Bank}

/-- Establishing a bank decides its datum and whether that is fixed, and nothing else. -/
theorem establish_frame (b : Bank) : ∃ f d, b.establish = { b with fixed := f, datum := d } := by
  unfold establish
  split
  · exact ⟨true, b.datum, rfl⟩
  · split
    · exact ⟨true, _, rfl⟩
    · exact ⟨false, b.datum, rfl⟩

/-- Under the policy FIXED the datum is known at once (R102). -/
theorem establish_polFixed (h : b.force.policy = polFixed) : b.establish = { b with fixed := true } := if_pos h

/-- A clear leaves the fields last written, in force, and a datum; everything else is at its clear value (R86). -/
theorem clear_eq (b : Bank) : ∃ f d, b.clear = { written := b.written, force := b.written, fixed := f, datum := d } :=
  establish_frame _

theorem writeDatum_eq (b : Bank) (v : W64) (mask : BitVec 5) :
    b.writeDatum v mask =
      if b.opn then { b with written := b.written.masked v mask }
      else establish { b with
        written := b.written.masked v mask
        force := b.written.masked v mask
        datum := if mask.getLsbD 1 && (b.written.masked v mask).policy == polFixed then BitVec.ofNat 16 (v.toNat / 2 ^ 16)
          else b.datum } := by
  have hpol : (mask.getLsbD 3 && BitVec.ofNat 2 (v.toNat / 2 ^ 6) != 3) = true
      ↔ mask.getLsbD 3 = true ∧ v.toNat / 64 % 4 ≠ 3 := by
    simp [← BitVec.toNat_inj]
  have htight : v.setWidth 6 = BitVec.ofNat 6 v.toNat := rfl
  simp only [writeDatum, DatCfg.masked, setWidth_ushiftRight, hpol, htight]
  rfl

/-- A write of DATUM_n leaves the terms of its bank alone, and what was last written has the masked fields. -/
theorem writeDatum_frame (b : Bank) (v : W64) (mask : BitVec 5) :
    (b.writeDatum v mask).cells = b.cells ∧ (b.writeDatum v mask).kcnt = b.kcnt ∧ (b.writeDatum v mask).opn = b.opn
    ∧ (b.writeDatum v mask).written = b.written.masked v mask := by
  rw [writeDatum_eq]
  split
  · exact ⟨rfl, rfl, rfl, rfl⟩
  · obtain ⟨f, d, h⟩ := establish_frame _
    rw [h]
    exact ⟨rfl, rfl, rfl, rfl⟩

/-- While terms are in the bank a write of DATUM_n puts nothing in force (R101). -/
theorem writeDatum_opn (ho : b.opn = true) (v : W64) (mask : BitVec 5) :
    b.writeDatum v mask = { b with written := b.written.masked v mask } := by
  rw [writeDatum_eq, if_pos ho]

/-- With no term in the bank the fields are in force at once (R101). -/
theorem writeDatum_force (ho : b.opn = false) (v : W64) (mask : BitVec 5) :
    (b.writeDatum v mask).force = b.written.masked v mask := by
  rw [writeDatum_eq, if_neg (by simp [ho])]
  obtain ⟨f, d, h⟩ := establish_frame _
  rw [h]

/-- With no term in the bank a resulting policy of FIXED fixes the datum, at the one written if the mask names it (R100). -/
theorem writeDatum_polFixed (ho : b.opn = false) {v : W64} {mask : BitVec 5}
    (hp : (b.written.masked v mask).policy = polFixed) :
    (b.writeDatum v mask).fixed = true
    ∧ (b.writeDatum v mask).datum = if mask.getLsbD 1 then BitVec.ofNat 16 (v.toNat / 2 ^ 16) else b.datum := by
  rw [writeDatum_eq, if_neg (by simp [ho]), establish_polFixed hp]
  simp [hp]

end Bank

/-- No register, no reply to wait for. -/
theorem Core.pendingReg_nil (k : Core) : k.pendingReg [] = none := by
  unfold Core.pendingReg
  rw [if_neg (by simp), List.filter_eq_nil_iff.2]
  · rfl
  · intro r _
    cases r.use <;> simp

theorem ite_some_eq_none {α : Type} {p : Prop} [Decidable p] {a : α} {x : Option α} :
    (if p then some a else x) = none ↔ ¬p ∧ x = none := by
  by_cases h : p <;> simp only [h, if_true, if_false, not_true, not_false_eq_true, false_and, true_and, reduceCtorEq]

/-- An instruction that names no register issues when one that names some does. -/
theorem State.canIssue_nil {s : State} {c : CoreId} {regs : List Reg} (h : s.canIssue c regs = true) : s.canIssue c [] = true := by
  obtain ⟨hi, hb⟩ := State.canIssue_issues h
  have hn : s.issueBar (s.core c) [] = none := by
    simp only [State.issueBar, ite_some_eq_none] at hb ⊢
    obtain ⟨hpower, hcheck, hdatum, hwait, -⟩ := hb
    exact ⟨hpower, hcheck, hdatum, hwait, Core.pendingReg_nil _⟩
  simp [State.canIssue, hi, hn]

/-- An idle matrix unit forces nothing, so a bank and the operand stage are free at once (R168, R184, R202). -/
theorem bankFree_of_matrixIdle {s : State} {c : CoreId} (h : (s.core c).matrixIdle = true) (n : Nat) (g : State → Res) :
    bankFree c n s g = g s := by
  simp only [Core.matrixIdle, Bool.and_eq_true, Option.isNone_iff_eq_none, List.isEmpty_iff] at h
  obtain ⟨⟨⟨hstage, hmseg⟩, hdefq⟩, hlent⟩ := h
  have hforce (want : Defer → Bool) : s.force c want = .ok s := by
    simp [State.force, Core.entries, hstage, hdefq, hlent]
  simp [bankFree, stageFree, State.forBank, Forced.andThen, hforce, hstage, hmseg]

section Issued
variable {s : State} {c : CoreId} {ab ra : Reg} (hb : ab.toNat < 4) (hm : (s.core c).matrixIdle = true)
include hb hm

theorem exec_mclr (hi : s.canIssue c [] = true) :
    exec (.mclr c ab) s = .next (s.passing c 4 fun k => k.setBank ab.toNat ((s.core c).bank ab.toNat).clear) := by
  show execMclr c ab s = _
  refine issue_passing _ hi ?_
  rw [if_neg (by simp [badBank]; omega), bankFree_of_matrixIdle hm]
  exact congrArg _ (State.updCore_congr s c _ _ rfl)

theorem exec_mdat (hi : s.canIssue c [ra] = true) (mask : BitVec 5) :
    exec (.mdat c ab ra mask) s = .next (s.passing c 4 fun k =>
      k.setBank ab.toNat (((s.core c).bank ab.toNat).writeDatum ((s.core c).gr ra) mask)) := by
  show execMdat c ab ra mask s = _
  refine issue_passing _ hi ?_
  rw [if_neg (by simp [badBank]; omega), bankFree_of_matrixIdle hm]
  exact congrArg _ (State.updCore_congr s c _ _ rfl)

end Issued

/-- Settles O19: mclr by what a clear leaves, mdat by whether terms are in the bank. -/
theorem bankClearAndDatum : Obligations.BankClearAndDatum := by
  intro s c ab ra mask hi hb hm b v
  refine ⟨⟨b.clear, exec_mclr hb hm (State.canIssue_nil hi), ?clear⟩, b.writeDatum v mask, exec_mdat hb hm hi mask, ?write⟩
  case clear =>
    obtain ⟨f, d, h⟩ := b.clear_eq
    rw [h]
    exact ⟨fun _ => rfl, fun _ => rfl, rfl, rfl, rfl, rfl, rfl, rfl, rfl, rfl, rfl⟩
  case write =>
    obtain ⟨hcells, hkcnt, hopn, hwritten⟩ := b.writeDatum_frame v mask
    rw [hwritten]
    refine ⟨hcells, hkcnt, hopn, rfl, rfl, rfl, rfl, fun ho => ?_, fun ho => ?_⟩
    · rw [Bank.writeDatum_opn ho]
      exact ⟨rfl, rfl, rfl⟩
    · exact ⟨Bank.writeDatum_force ho v mask, Bank.writeDatum_polFixed ho⟩

end Sys2Proof.Machine
end

section
/-! PROOFS. Collective sums (spec/03 R123 to R127, spec/09 R363, R364). Lanes add exactly, in any order and grouping, so a
sum shows neither; a rounded element stays below a power of two that the datum sets, and so does a sum. -/

namespace Sys2Proof.Machine

/-! ### Lanes add exactly (R363) -/

theorem Lane.add_right_comm (a b c : Lane) : (a.add b).add c = (a.add c).add b := by
  simp only [Lane.add, Bool.or_right_comm, Int.add_right_comm]

theorem Lane.add_assoc (a b c : Lane) : (a.add b).add c = a.add (b.add c) := by
  simp only [Lane.add, Bool.or_assoc, Int.add_assoc]

@[simp] theorem Lane.add_laneZero (a : Lane) : a.add laneZero = a := by
  simp [Lane.add, laneZero]

/-- Lane-wise addition of two rows. -/
def addRows (a b : List Lane) : List Lane := List.zipWith Lane.add a b

theorem addRows_right_comm : ∀ a b c : List Lane, addRows (addRows a b) c = addRows (addRows a c) b
  | [], _, _ | _ :: _, [], [] | _ :: _, [], _ :: _ | _ :: _, _ :: _, [] => by simp [addRows]
  | x :: a, y :: b, z :: c => List.cons_eq_cons.2 ⟨Lane.add_right_comm x y z, addRows_right_comm a b c⟩

theorem addRows_assoc : ∀ a b c : List Lane, addRows (addRows a b) c = addRows a (addRows b c)
  | [], _, _ | _ :: _, [], _ | _ :: _, _ :: _, [] => by simp [addRows]
  | x :: a, y :: b, z :: c => List.cons_eq_cons.2 ⟨Lane.add_assoc x y z, addRows_assoc a b c⟩

/-- Rows of zeros add nothing to a row that is no longer. -/
theorem addRows_zeros : ∀ (a : List Lane) (n : Nat), a.length ≤ n → addRows a (List.replicate n laneZero) = a
  | [], _, _ => rfl
  | x :: a, n + 1, h => List.cons_eq_cons.2 ⟨x.add_laneZero, addRows_zeros a n (Nat.le_of_succ_le_succ h)⟩

theorem foldl_addRows (a b : List Lane) (rows : List (List Lane)) :
    rows.foldl addRows (addRows a b) = addRows a (rows.foldl addRows b) := by
  induction rows generalizing b with
  | nil => rfl
  | cons r rows ih => rw [List.foldl_cons, addRows_assoc, ih, List.foldl_cons]

theorem length_foldl_addRows_le (a : List Lane) (rows : List (List Lane)) : (rows.foldl addRows a).length ≤ a.length := by
  induction rows generalizing a with
  | nil => exact Nat.le_refl _
  | cons r rows ih =>
    have hrow : (addRows a r).length ≤ a.length := by
      rw [addRows, List.length_zipWith]
      exact Nat.min_le_left _ _
    exact Nat.le_trans (ih (addRows a r)) hrow

/-- The rows of lanes that a set of tiles adds. -/
def tileRows (w : Nat) (d : Int) (ts : List CTile) : List (List Lane) := ts.map fun t => (t.lanes w d).1

theorem length_tileRows (w : Nat) (d : Int) (ts : List CTile) : (tileRows w d ts).length = ts.length := List.length_map _

theorem laneSum_fst (w : Nat) (d : Int) (n : Nat) (ts : List CTile) :
    (laneSum w d n ts).1 = (tileRows w d ts).foldl addRows (List.replicate n laneZero) := by
  simp only [laneSum, tileRows, List.foldl_map]
  rfl

theorem laneSum_snd (w : Nat) (d : Int) (n : Nat) (ts : List CTile) :
    (laneSum w d n ts).2 = (ts.any (fun t => (t.lanes w d).2) || (laneSum w d n ts).1.any (Lane.beyond w)) := by
  simp only [laneSum, List.any_map]
  rfl

theorem laneSum_perm (w : Nat) (d : Int) (n : Nat) {ts us : List CTile} (h : ts.Perm us) :
    laneSum w d n ts = laneSum w d n us := by
  have hrows : (laneSum w d n ts).1 = (laneSum w d n us).1 := by
    rw [laneSum_fst, laneSum_fst]
    exact (h.map _).foldl_eq' (fun a _ b _ z => addRows_right_comm z a b) _
  refine Prod.ext hrows ?_
  rw [laneSum_snd, laneSum_snd, hrows, h.any_eq]

theorem laneSum_append (w : Nat) (d : Int) (n : Nat) (ts us : List CTile) :
    (laneSum w d n (ts ++ us)).1 = addRows (laneSum w d n ts).1 (laneSum w d n us).1 := by
  have hlen : (laneSum w d n ts).1.length ≤ n := by
    rw [laneSum_fst]
    exact Nat.le_trans (length_foldl_addRows_le _ _) (Nat.le_of_eq List.length_replicate)
  calc (laneSum w d n (ts ++ us)).1
      = (tileRows w d us).foldl addRows (laneSum w d n ts).1 := by
        rw [laneSum_fst, laneSum_fst, tileRows, List.map_append, List.foldl_append]; rfl
    _ = (tileRows w d us).foldl addRows (addRows (laneSum w d n ts).1 (List.replicate n laneZero)) := by
        rw [addRows_zeros _ _ hlen]
    _ = addRows (laneSum w d n ts).1 (laneSum w d n us).1 := by rw [foldl_addRows, laneSum_fst w d n us]

/-! ### Rounding on a grid (R93, R123) -/

/-- A value on the grid is not changed by rounding to it. -/
theorem gridRound_self (m : Nat) (d : Int) : gridRound .rne 0 m d d = m := by
  simp [gridRound, gridSplit, roundsUp, pow2]

theorem gridRound_zero (e d : Int) : gridRound .rne 0 0 e d = 0 := by
  by_cases h : d ≤ e <;> simp [gridRound, gridSplit, roundsUp, h]

/-- A magnitude below 2^(q + B) rounds to at most 2^B units of 2^q. -/
theorem gridRound_le {m : Nat} {e q : Int} {B : Nat} (h : m = 0 ∨ flog2 m e < q + B) : gridRound .rne 0 m e q ≤ 2 ^ B := by
  have hlog : m < 2 ^ (Nat.log2 m + 1) := Nat.lt_log2_self
  have hexp : m = 0 ∨ e + Nat.log2 m < q + B := h
  by_cases hq : q ≤ e
  · have hround : gridRound .rne 0 m e q = m * pow2 (e - q) := by simp [gridRound, gridSplit, hq, roundsUp]
    rw [hround]
    rcases hexp with rfl | hexp
    · simp
    calc m * 2 ^ (e - q).toNat ≤ 2 ^ (Nat.log2 m + 1) * 2 ^ (e - q).toNat := Nat.mul_le_mul_right _ (Nat.le_of_lt hlog)
      _ = 2 ^ (Nat.log2 m + 1 + (e - q).toNat) := (Nat.pow_add ..).symm
      _ ≤ 2 ^ B := Nat.pow_le_pow_right (by omega) (by omega)
  · have hround : gridRound .rne 0 m e q ≤ m / 2 ^ (q - e).toNat + 1 := by
      simp only [gridRound, gridSplit, if_neg hq]
      split <;> omega
    have hdiv : m / 2 ^ (q - e).toNat < 2 ^ B := by
      rw [Nat.div_lt_iff_lt_mul (Nat.two_pow_pos _), ← Nat.pow_add]
      rcases hexp with rfl | hexp
      · exact Nat.two_pow_pos _
      · exact Nat.lt_of_lt_of_le hlog (Nat.pow_le_pow_right (by omega) (by omega))
    omega

/-! ### Codes of lanes (Tables 3-6, 3-7) -/

/-- The finite range of a code of `w` bits (Table 3-6). -/
def inWindow (w : Nat) (n : Int) : Prop := -(2 ^ (w - 1)) + 3 ≤ n ∧ n ≤ 2 ^ (w - 1) - 1

/-- The integer of a finite element on the grid 2^d, before the window is looked at (Table 3-7). -/
def gridInt (d : Int) (neg : Bool) (m : Nat) (e : Int) : Int :=
  if neg then -(gridRound .rne 0 m e d : Int) else gridRound .rne 0 m e d

theorem gridInt_zero (d : Int) (neg : Bool) (e : Int) : gridInt d neg 0 e = 0 := by
  rw [gridInt, gridRound_zero]
  split <;> rfl

/-- An integer in units of the grid is its own integer. -/
theorem gridInt_ofInt (d n : Int) : gridInt d (decide (n < 0)) n.natAbs d = n := by
  rw [gridInt, gridRound_self]
  by_cases h : n < 0
  · rw [if_pos (decide_eq_true h)]; omega
  · rw [if_neg (by simpa using h)]; omega

theorem laneOfCode_roundLong_nan (w : Nat) (d : Int) : laneOfCode w (roundLong w d .nan).code = ⟨true, false, false, 0⟩ :=
  if_pos rfl
theorem laneOfCode_roundLong_inf (w : Nat) (d : Int) (neg : Bool) :
    laneOfCode w (roundLong w d (.inf neg)).code = ⟨false, !neg, neg, 0⟩ := by
  cases neg <;> simp [roundLong, laneOfCode, laneZero]

section Codes
variable {w : Nat} (hw : w = 32 ∨ w = 64)
include hw

/-- Every integer of the finite range has a code of its own. -/
theorem laneOfCode_finite {n : Int} (h : inWindow w n) : laneOfCode w (n % (2 ^ w : Nat)).toNat = ⟨false, false, false, n⟩ := by
  obtain ⟨hlo, hhi⟩ := h
  have hn : (BitVec.ofNat w (n % (2 ^ w : Nat)).toNat).toInt = n := by
    rcases hw with rfl | rfl <;> rw [BitVec.toInt_eq_toNat_cond, BitVec.toNat_ofNat] <;> split <;> omega
  have hmarkers : (n % (2 ^ w : Nat)).toNat < 2 ^ (w - 1) ∨ 2 ^ (w - 1) + 2 < (n % (2 ^ w : Nat)).toNat := by
    rcases hw with rfl | rfl <;> omega
  rw [laneOfCode, if_neg (by omega), if_neg (by omega), if_neg (by omega), hn]
  rfl

/-- A finite value whose rounding is in the finite range keeps it, and is not marked as beyond the window. -/
theorem roundLong_finite {neg : Bool} {m : Nat} {e d : Int} (h : inWindow w (gridInt d neg m e)) :
    laneOfCode w (roundLong w d (.fin neg m e)).code = ⟨false, false, false, gridInt d neg m e⟩
    ∧ (roundLong w d (.fin neg m e)).flags &&& fOvf = 0 := by
  have hzero (h0 : gridInt d neg m e = 0) : laneOfCode w 0 = ⟨false, false, false, gridInt d neg m e⟩ := by
    rw [h0] at h ⊢
    exact laneOfCode_finite hw h
  simp only [roundLong, ← gridInt.eq_def]
  rw [if_neg (Int.not_lt.2 h.2), if_neg (Int.not_lt.2 h.1)]
  split
  · next hm => exact ⟨hzero (hm ▸ gridInt_zero d neg e), BitVec.zero_and⟩
  · split
    · next h0 => exact ⟨hzero h0, (by decide : fUnder &&& fOvf = 0)⟩
    · exact ⟨laneOfCode_finite hw h, BitVec.zero_and⟩

/-- A partial's code keeps the value of a lane in the finite range (R127). -/
theorem laneOfCode_roundLong_val (d : Int) {a : Lane} (ha : a.beyond w = false) :
    (laneOfCode w (roundLong w d (a.val d)).code).val d = a.val d := by
  obtain ⟨nan, pinf, ninf, n⟩ := a
  match nan, pinf, ninf with
  | true, _, _ | false, true, true => exact (congrArg (Lane.val d) (laneOfCode_roundLong_nan w d) :)
  | false, true, false => exact (congrArg (Lane.val d) (laneOfCode_roundLong_inf w d false) :)
  | false, false, true => exact (congrArg (Lane.val d) (laneOfCode_roundLong_inf w d true) :)
  | false, false, false =>
    simp only [Lane.beyond, Bool.not_false, Bool.true_and, Bool.or_eq_false_iff, decide_eq_false_iff_not, Int.not_lt] at ha
    have hwin : inWindow w (gridInt d (decide (n < 0)) n.natAbs d) := by
      rw [gridInt_ofInt]
      exact ⟨ha.2, ha.1⟩
    show (laneOfCode w (roundLong w d (.fin (decide (n < 0)) n.natAbs d)).code).val d = _
    rw [(roundLong_finite hw hwin).1, gridInt_ofInt]

end Codes

/-! ### The window of a sum (R126, R364) -/

/-- A lane whose integer is at most `b` in magnitude. -/
def Lane.within (b : Nat) (a : Lane) : Prop := a.n.natAbs ≤ b

theorem Lane.within_add {a b : Lane} {m n : Nat} (ha : a.within m) (hb : b.within n) : (a.add b).within (m + n) := by
  simp only [Lane.within, Lane.add] at *
  omega

theorem addRows_within {a b : List Lane} {m n : Nat} (ha : ∀ x ∈ a, x.within m) (hb : ∀ x ∈ b, x.within n) :
    ∀ x ∈ addRows a b, x.within (m + n) := by
  induction a generalizing b with
  | nil => exact fun x hx => nomatch hx
  | cons x a ih =>
    cases b with
    | nil => exact fun x hx => nomatch hx
    | cons y b =>
      rw [List.forall_mem_cons] at ha hb
      exact List.forall_mem_cons.2 ⟨Lane.within_add ha.1 hb.1, ih ha.2 hb.2⟩

/-- Adding rows adds their bounds. -/
theorem foldl_addRows_within {b : Nat} {rows : List (List Lane)} (h : ∀ r ∈ rows, ∀ x ∈ r, x.within b) {a : List Lane} {c : Nat}
    (ha : ∀ x ∈ a, x.within c) : ∀ x ∈ rows.foldl addRows a, x.within (c + rows.length * b) := by
  induction rows generalizing a c with
  | nil => rwa [List.length_nil, Nat.zero_mul, Nat.add_zero]
  | cons r rows ih =>
    rw [List.forall_mem_cons] at h
    have hfold := ih h.2 (addRows_within ha h.1)
    rwa [Nat.add_assoc, Nat.add_comm b, ← Nat.succ_mul] at hfold

/-- `clog2 n` is the least exponent of a power of two that is not below `n`. -/
theorem clog2_spec (n : Nat) : ∃ c : Nat, clog2 n = c ∧ n ≤ 2 ^ c ∧ ∀ k, n ≤ 2 ^ k → c ≤ k := by
  by_cases h : n ≤ 1
  · exact ⟨0, if_pos h, h, fun k _ => Nat.zero_le k⟩
  · refine ⟨Nat.log2 (n - 1) + 1, if_neg h, ?_, fun k hk => ?_⟩
    · have hlt : n - 1 < 2 ^ (Nat.log2 (n - 1) + 1) := Nat.lt_log2_self
      omega
    · exact (Nat.log2_lt (by omega)).2 (by omega)

theorem inWindow_of_natAbs_le {w : Nat} (hw : w = 32 ∨ w = 64) {n : Int} (h : n.natAbs ≤ 2 ^ (w - 2)) : inWindow w n := by
  rcases hw with rfl | rfl <;> constructor <;> omega

section Window
variable {w B : Nat} (hw : w = 32 ∨ w = 64) (hB : B ≤ w - 2)
include hw hB

/-- An element below 2^(d + B) has a lane of at most 2^B, and is not beyond the window. -/
theorem roundLong_within {d : Int} {x : Num} (h : ∀ neg m e, x = .fin neg m e → m ≠ 0 → flog2 m e < d + B) :
    (laneOfCode w (roundLong w d x).code).within (2 ^ B) ∧ (roundLong w d x).flags &&& fOvf = 0 := by
  match x with
  | .nan =>
    rw [laneOfCode_roundLong_nan]
    exact ⟨Nat.zero_le _, (by decide : fNanout &&& fOvf = 0)⟩
  | .inf neg =>
    rw [laneOfCode_roundLong_inf]
    exact ⟨Nat.zero_le _, by cases neg <;> exact BitVec.zero_and⟩
  | .fin neg m e =>
    have hint : (gridInt d neg m e).natAbs ≤ 2 ^ B := by
      have hround : gridRound .rne 0 m e d ≤ 2 ^ B :=
        gridRound_le (Decidable.or_iff_not_imp_left.2 (h neg m e rfl))
      unfold gridInt
      split <;> omega
    have hwin : inWindow w (gridInt d neg m e) :=
      inWindow_of_natAbs_le hw (Nat.le_trans hint (Nat.pow_le_pow_right (by omega) hB))
    obtain ⟨hlane, hflag⟩ := roundLong_finite hw hwin
    rw [hlane]
    exact ⟨hint, hflag⟩

/-- A tile whose elements are below 2^(d + B) has lanes of at most 2^B, and no element beyond the window. -/
theorem CTile.lanes_within {d : Int} {t : CTile} (h : ∀ neg m e, Num.fin neg m e ∈ t.vals → m ≠ 0 → flog2 m e < d + B) :
    (∀ x ∈ (t.lanes w d).1, x.within (2 ^ B)) ∧ (t.lanes w d).2 = false := by
  have helem (x : Num) (hx : x ∈ t.vals) := roundLong_within hw hB (d := d) (x := x) fun neg m e he => h neg m e (he ▸ hx)
  constructor
  · simp only [CTile.lanes, List.map_map, List.forall_mem_map]
    exact fun x hx => (helem x hx).1
  · simp only [CTile.lanes, List.any_map, List.any_eq_false, Function.comp_apply, bne_iff_ne, ne_eq, Decidable.not_not]
    exact fun x hx => (helem x hx).2

end Window

/-- Lanes of at most 2^(w − 2) are in the finite range. -/
theorem Lane.beyond_of_within {w : Nat} (hw : w = 32 ∨ w = 64) {a : Lane} (h : a.within (2 ^ (w - 2))) :
    a.beyond w = false := by
  obtain ⟨hlo, hhi⟩ := inWindow_of_natAbs_le hw h
  rw [Lane.beyond, decide_eq_false (Int.not_lt.2 hlo), decide_eq_false (Int.not_lt.2 hhi), Bool.or_false, Bool.and_false]

/-- The reduction datum of R364 leaves room for the sum of all contributions. -/
theorem laneSum_inWindow {w : Nat} {emax : Int} (n : Nat) {ts : List CTile} (hw : w = 32 ∨ w = 64) (hts : ts.length ≤ 2 ^ (w - 2))
    (h : ∀ t ∈ ts, ∀ neg m e, Num.fin neg m e ∈ t.vals → m ≠ 0 → flog2 m e ≤ emax) :
    (laneSum w (emax + clog2 ts.length - (w : Int) + 3) n ts).2 = false := by
  obtain ⟨c, hclog, hle, hleast⟩ := clog2_spec ts.length
  have hc : c ≤ w - 2 := hleast _ hts
  rw [hclog]
  have hlanes (t : CTile) (ht : t ∈ ts) := CTile.lanes_within hw (Nat.sub_le (w - 2) c)
    (d := emax + c - (w : Int) + 3) (t := t) fun neg m e hx hm => by
      have hbound := h t ht neg m e hx hm
      omega
  have hroom : ts.length * 2 ^ (w - 2 - c) ≤ 2 ^ (w - 2) := by
    calc ts.length * 2 ^ (w - 2 - c) ≤ 2 ^ c * 2 ^ (w - 2 - c) := Nat.mul_le_mul_right _ hle
      _ = 2 ^ (w - 2) := by rw [← Nat.pow_add, Nat.add_sub_cancel' hc]
  have hzeros : ∀ x ∈ List.replicate n laneZero, x.within 0 := fun x hx => by
    rw [List.eq_of_mem_replicate hx]
    exact Nat.le_refl 0
  rw [laneSum_snd, Bool.or_eq_false_iff, List.any_eq_false, List.any_eq_false]
  refine ⟨fun t ht => Bool.not_eq_true _ ▸ (hlanes t ht).2, fun x hx => ?_⟩
  rw [laneSum_fst] at hx
  have hsum := foldl_addRows_within (rows := tileRows w _ ts) (List.forall_mem_map.2 fun t ht => (hlanes t ht).1) hzeros x hx
  rw [Nat.zero_add, length_tileRows] at hsum
  rw [Lane.beyond_of_within hw (Nat.le_trans hsum hroom)]
  exact Bool.false_ne_true

/-- Settles O41: lanes add as integers, and the datum of R364 bounds every sum. -/
theorem collectiveSumIsOrderFree : Obligations.CollectiveSumIsOrderFree :=
  ⟨fun w d n _ _ h => laneSum_perm w d n h, laneSum_append, fun _ d _ hw h => laneOfCode_roundLong_val hw d h,
   fun _ _ n _ hw _ hts h => laneSum_inWindow n hw hts h⟩

end Sys2Proof.Machine
end
